-- ==== Sys2Proof/Word.lean ====
section
/-!
DEFINITION. The byte, the byte string, and the plainest arithmetic on the manual's counted quantities.
Counts, times, indices and field values are `Nat`; what the manual treats as bits (data bytes, floating-point
patterns, digests) is a bit vector.
-/
namespace Sys2Proof

/-- One byte (R5, R8). -/
abbrev Byte := BitVec 8

/-- A byte string, first byte first; multi-byte fields in it are little-endian (R8). -/
abbrev Bytes := List Byte

/-- Round the quotient up. -/
def ceilDiv (a b : Nat) : Nat := (a + b - 1) / b

/-- 2^32 - 1, where every 32-bit count field saturates (R453) and a Stake saturates (R86). -/
def max32 : Nat := 4294967295

/-- A count that saturates at `m` (R453). -/
def satAdd (m a b : Nat) : Nat := min m (a + b)

/-- A free-running 32-bit index plus `n` (R63). -/
def wrap32 (n : Nat) : Nat := n % 4294967296

end Sys2Proof
end

