-- ==== Sys2Proof/Syntax.lean ====
section
/-!
DEFINITION. The commands of the block: one constructor of `Instr` for every row of spec/opcode_table.json, and the
operand structures they carry. What the device reads from outside (a partner's memory, a measurement, a media outcome)
is an operand of the command that needs it; `none` in place of read data says that the read failed (R362).
-/
namespace Sys2Proof

/-- Header of a context's submission entry (Table 2.4) with the context whose ring carried it. -/
structure CmdHdr where
  ctx   : Nat
  tag   : Nat
  flags : Nat
  deriving DecidableEq, Repr, Inhabited

/-- Header of an Admin submission entry (Table 2.4) with the Host Port whose Admin Ring carried it. -/
structure AdmHdr where
  port  : Nat
  tag   : Nat
  flags : Nat
  deriving DecidableEq, Repr, Inhabited

/-- A ring pair: a port's Admin pair or a context's (R54, R62). -/
inductive RingId where
  | admin (port : Nat)
  | context (ctx : Nat)
  deriving DecidableEq, Repr, Inhabited

/-- A function of a Host Port (R353). -/
inductive Fn where
  | pf
  | vf (n : Nat)
  deriving DecidableEq, Repr, Inhabited

/-- Body of OPEN_CONTEXT (Table 2.6). -/
structure OpenBody where
  sqBase   : Nat
  cqBase   : Nat
  eqBase   : Nat
  dbBase   : Nat
  sqLog    : Nat
  cqLog    : Nat
  eqLog    : Nat
  surveyor : Bool
  perPlat  : Bool
  total    : Nat
  stakes   : Nat
  counts   : List Nat
  cqVec    : Nat
  eqVec    : Nat
  deriving DecidableEq, Repr, Inhabited

/-- Body of CHAIN_BIND (Table 3.3). -/
structure ChainBindBody where
  station : Nat
  first   : Nat
  count   : Nat
  desc    : Nat
  stream  : Nat
  port    : Nat
  sync    : Nat
  deriving DecidableEq, Repr, Inhabited

/-- Body of PAIR_BIND (Table 4.4). -/
structure PairBindBody where
  left  : Nat
  right : Nat
  tol   : Nat
  view  : Nat
  pairs : Nat
  mode  : Nat
  deriving DecidableEq, Repr, Inhabited

/-- Body of OBJECT_CREATE (Table 9.4). -/
structure CreateBody where
  id      : Nat
  persist : Bool
  attach  : Bool
  phys    : Bool
  rest    : Nat
  home    : Nat
  length  : Nat
  window  : Nat
  site    : Nat
  holding : Nat
  name    : Nat
  deriving DecidableEq, Repr, Inhabited

/-- Body of SERVICE_BIND (Table 8.15). -/
structure ServiceBindBody where
  service : Nat
  inbox   : Nat
  depth   : Nat
  stake   : Nat
  index   : Nat
  qcap    : Nat
  deriving DecidableEq, Repr, Inhabited

/-- A Leg of a resident Traverse. -/
structure LegRef where
  ctx    : Nat
  handle : Nat
  leg    : Nat
  deriving DecidableEq, Repr, Inhabited

/-- How an engine's reads went: `bad` when an operand read met an uncorrectable error (R216, R246, R275, R293). -/
structure EngineRun where
  bad : Bool
  deriving DecidableEq, Repr, Inhabited

/-- Page reads of a SEARCH that failed uncorrectably: Tract number and page (R293). -/
structure SearchRun where
  bad  : Bool
  lost : List (Nat × Nat)
  deriving DecidableEq, Repr, Inhabited

/-- Which ring of a context a time threshold belongs to (R70). -/
inductive RingKind where
  | completion
  | event
  deriving DecidableEq, Repr, Inhabited

/-- Data of a 16-byte sweep read (Table 2.3, offsets 0x000 to 0x00F). -/
structure SweepData where
  sqTail : Nat
  cqHead : Nat
  eqHead : Nat
  deriving DecidableEq, Repr, Inhabited

/-- The two package-shared engines (R397). -/
inductive SharedEngine where
  | gcm
  | hash
  deriving DecidableEq, Repr, Inhabited

/-- How a NAND page read ended (Table 9.11, R347). -/
structure PageRead where
  retrySteps    : Nat
  corrected     : Nat   -- per cent of the LDPC limit
  uncorrectable : Bool
  deriving DecidableEq, Repr, Inhabited

/-- A mount as it ends (R343): its milliseconds, and what it found on the media: how many of the newest checkpoints fail their checks, and
the physical pages that fail LDPC or CRC. -/
structure MountMedia where
  elapsedMs : Nat
  badCkpts : Nat
  badPages : List Nat
  deriving DecidableEq, Repr, Inhabited

/-- A Host Port or a Tie Port, where a row speaks of either (R366, R368). -/
inductive PortRef where
  | host (n : Nat)
  | tie (t : Nat)
  deriving DecidableEq, Repr, Inhabited

/-- Which read of the partner's memory failed (R362). -/
inductive ReadKind where
  | sweep (r : RingId)
  | fetch (r : RingId)
  | rtt
  | data
  deriving DecidableEq, Repr, Inhabited

/-- Who asks the Monument over SPDM (Table 11.3). -/
inductive Responder where
  | doePf (port : Nat)
  | doeVf (port vf : Nat)
  | ring (ctx : Nat)
  | tieAuth (t : Nat)
  deriving DecidableEq, Repr, Inhabited

/-- A request that comes to a responder: who asks, and the SPDMVersion byte of the message (R391). -/
structure Asker where
  who     : Responder
  version : Nat
  deriving DecidableEq, Repr, Inhabited

/-- What the public-key engine finds on a manifest (R401, Table 11.10): whether both signatures hold, and the secrets of its two key
exchanges. -/
structure ManifestProof where
  signed : Bool
  secret : Bytes
  deriving DecidableEq, Repr, Inhabited

/-- A stream number and the key that is programmed for it (R393). -/
structure StreamKey where
  stream : Nat
  key    : Bytes
  deriving DecidableEq, Repr, Inhabited

/-- How the SPDM run over a Tie link ends (R394): the peer's chain leads to the Waltisor root; its measurement block 3 shows Field Lock;
KEY_EXCHANGE with mutual authentication yields the session. -/
structure PeerAuth where
  root    : Bool
  locked  : Bool
  session : Bool
  deriving DecidableEq, Repr, Inhabited

/-- What a NEGOTIATE_ALGORITHMS offers, one flag per kind the device has (R391). -/
structure AlgOffer where
  ecdsaP384 : Bool
  sha384    : Bool
  secp384r1 : Bool
  aes256gcm : Bool
  dmtf      : Bool
  deriving DecidableEq, Repr, Inhabited

/-- Header fields of a Tie frame that the link and the route use (Table 10.10). -/
structure TieHdr where
  cls    : Nat
  dst    : Nat
  src    : Nat
  hops   : Nat
  epoch  : Nat
  lseq   : Nat
  lack   : Nat
  credit : List Nat
  crcOk  : Bool
  tagOk  : Bool
  deriving DecidableEq, Repr, Inhabited

/-- Outcome of a Plat's measurement (R419, R420): `failed` names physical Stations that failed,
`fmRows` (Station, bank) and `psRows` bank of the rows repaired, `lanes` DRAM lanes used. -/
structure Measurement where
  ok     : Bool
  failed : List Nat
  fmRows : List (Nat × Nat)
  psRows : List Nat
  lanes  : Nat
  deriving DecidableEq, Repr, Inhabited

/-- The bytes that a read through a BAR asks for. -/
structure ReadSpan where
  offset : Nat
  length : Nat
  deriving DecidableEq, Repr, Inhabited

/-- Who accesses a register: a function's BAR or the service port (R449); and a read of the Intake Aperture (R357). -/
inductive Path where
  | pf (port : Nat)
  | bitAlias (port : Nat)                  -- BAR2 of the PF, the bit-alias window
  | aperture (port : Nat)                  -- BAR4 of the PF
  | vf (port vf : Nat)
  | svc
  deriving DecidableEq, Repr, Inhabited

/-- The blocks with a CTRL register (R451). -/
inductive CtrlBlock where
  | dtm
  | flt
  | hpt (port : Nat)
  | tpt (t : Nat)
  deriving DecidableEq, Repr, Inhabited

/-- A counted resource of a Plat (Table 12.3). -/
inductive Resource where
  | fmRow (station bank row : Nat)
  | psRow (bank row : Nat)
  | station (phys : Nat)
  | dramLane (lane : Nat)
  | mainPage (page : Nat)
  | opticalLane (controller lane : Nat)
  | linkLane (link lane : Nat)
  | cadBlock (block : Nat)
  deriving DecidableEq, Repr, Inhabited

/-- A fault event (R429, R430). `cls` is its Fault Log class (Table 12.10); `again` says that the written-back
word failed again (R430); `unc` that the error was uncorrectable; `loss` names a Plat-wide failure (R424, R34). -/
inductive PlatLoss where
  | none
  | ringLink       -- link p to p + 1 (R34)
  | logic          -- Traverse Scheduler, move engine or Main-tier controller (R424)
  | hbm            -- the whole HBM4 stack (R424)
  deriving DecidableEq, Repr, Inhabited

structure FaultEv where
  plat     : Nat
  cls      : Nat
  resource : Resource
  unc      : Bool
  again    : Bool
  lasting  : Bool
  loss     : PlatLoss
  detail   : Nat
  deriving DecidableEq, Repr, Inhabited

/-- What a patrol scrub pass did (R430): `corrected` words written back, `pass` a Main-tier pass completed. -/
structure Scrub where
  corrected : Nat
  pass      : Bool
  deriving DecidableEq, Repr, Inhabited

/-- What a Level Run finds on one received lane (R366): the errors of phase 1, and the Lane Word of which 16 identical copies came in
phase 2. -/
structure LaneRx where
  errors : Nat
  word   : Option Nat
  deriving DecidableEq, Repr, Inhabited

/-- What a function's configuration space shows of the capabilities of Table 10.2. -/
inductive CfgItem where
  | maxPayloadSupported
  | maxPayload
  | maxReadRequest
  | tenBitTags
  | completionTimeoutNs
  | flr
  | powerState
  | msixVectors
  | totalVfs
  | numVfs
  | vfEnable
  | vfBarBytes
  | ari
  | uncorrectableErrors
  | correctableErrors
  | ptmRequester
  | doeProtocols
  | ideLinkStreams
  | ideSelectiveStreams
  | tdisp
  | scaledFlowControl
  | serialNumber
  | other (offset : Nat)
  deriving DecidableEq, Repr, Inhabited

/-- An access of a function's configuration space: a write that the device adopts or ignores (R353, R360, R361), or a read. -/
inductive CfgWrite where
  | read (i : CfgItem)
  | maxPayload (bytes : Nat)
  | maxReadRequest (bytes : Nat)
  | completionTimeoutNs (ns : Nat)
  | vfs (num : Nat) (enable : Bool)
  | clearErrors (uncorrectable correctable : Nat)
  | tenBitTags (on : Bool)
  | maskVector (vector : Nat) (masked : Bool)
  | aspm (on : Bool)
  | other (offset value : Nat)
  deriving DecidableEq, Repr, Inhabited

/-- The commands: the rows of spec/opcode_table.json, in the table's order. -/
inductive Instr where
  | openContext (h : AdmHdr) (b : OpenBody)
  | closeContext (h : AdmHdr) (ctx : Nat)
  | queryContexts (h : AdmHdr)
  | unknownOpcode (r : RingId) (tag flags : Nat)
  | loadTraverse (h : CmdHdr) (length : Nat) (image : Option Bytes)
  | unloadTraverse (h : CmdHdr) (handle : Nat)
  | runTraverse (h : CmdHdr) (handle start deadline : Nat)
  | armPeriodic (h : CmdHdr) (handle period b0 count : Nat)
  | disarm (h : CmdHdr) (handle : Nat)
  | cancel (h : CmdHdr) (handle : Nat)
  | stakeSet (h : CmdHdr) (ref value : Nat)
  | stakeAdd (h : CmdHdr) (ref amount : Nat)
  | stakeRead (h : CmdHdr) (ref : Nat)
  | stakeGrant (h : CmdHdr) (stake grantee rights : Nat)
  | stakeRevoke (h : CmdHdr) (stake grantee : Nat)
  | mark (h : CmdHdr)
  | markCompletion (ctx : Nat)
  | flushReadReturn (port : Nat) (ok : Bool)
  | chainBind (h : CmdHdr) (b : ChainBindBody)
  | chainStart (h : CmdHdr) (group : Nat)
  | chainStop (h : CmdHdr) (group : Nat)
  | chainUnbind (h : CmdHdr) (group : Nat)
  | timedClear (h : CmdHdr) (sync tc : Nat)
  | timeMapRead (h : CmdHdr) (port : Nat)
  | frameBind (h : CmdHdr) (desc camera port mode : Nat)
  | frameStart (h : CmdHdr) (cam : Nat)
  | frameStop (h : CmdHdr) (cam : Nat)
  | frameUnbind (h : CmdHdr) (cam : Nat)
  | pairBind (h : CmdHdr) (b : PairBindBody)
  | pairUnbind (h : CmdHdr) (pair : Nat)
  | exposureControl (h : CmdHdr) (cam on lag : Nat)
  | objectCreate (h : CmdHdr) (b : CreateBody)
  | objectDestroy (h : CmdHdr) (id : Nat)
  | objectWrite (h : CmdHdr) (id offset address length : Nat) (data : Option Bytes)
  | objectRead (h : CmdHdr) (id offset address length : Nat)
  | place (h : CmdHdr) (id tier byTime done : Nat)
  | evict (h : CmdHdr) (id : Nat)
  | objectFlush (h : CmdHdr) (id : Nat)
  | objectGrant (h : CmdHdr) (id grantee rights : Nat)
  | objectRevoke (h : CmdHdr) (id grantee : Nat)
  | objectQuery (h : CmdHdr) (id : Nat)
  | holdingAttach (h : CmdHdr) (name auth : Nat) (create : Bool)
  | holdingDetach (h : CmdHdr) (handle : Nat)
  | cadastreQuiesce (h : CmdHdr) (plat : Nat)
  | spdmExchange (h : CmdHdr) (capacity address : Nat) (request : Option Bytes)
  | updateBegin (h : CmdHdr) (replace : Bool) (manifest : Option Bytes) (proof : ManifestProof)
  | updateParcel (h : CmdHdr) (length address : Nat) (parcel : Option Bytes)
  | updateStatus (h : CmdHdr)
  | updateArm (h : CmdHdr) (image : Nat) (readBack : Bool)
  | updateAbandon (h : CmdHdr) (image : Nat)
  | updateActivate (h : CmdHdr) (image : Nat)
  | fieldLock (h : CmdHdr) (word : Nat)
  | fieldLockBurnDone
  | serviceBind (h : CmdHdr) (b : ServiceBindBody)
  | serviceUnbind (h : CmdHdr) (service : Nat)
  | landingBind (h : CmdHdr) (landing obj arrive : Nat)
  | landingUnbind (h : CmdHdr) (landing : Nat)
  | outletBind (h : CmdHdr) (obj node landing offset : Nat)
  | outletUnbind (h : CmdHdr) (outlet : Nat)
  | faultLogTake (h : CmdHdr) (address max : Nat)
  | legInstantiate (plat : Nat)
  | legDispatch (l : LegRef)
  | tensorArrayLeg (l : LegRef) (r : EngineRun)
  | parallaxEngineLeg (l : LegRef) (r : EngineRun)
  | search (l : LegRef) (r : SearchRun)
  | searchCutoff (l : LegRef) (joined : List Nat)
  | merge (l : LegRef) (r : EngineRun)
  | fanOut (l : LegRef) (r : EngineRun)
  | fanOutComplete (l : LegRef)
  | reply (l : LegRef) (r : EngineRun)
  | egoStep (l : LegRef) (r : EngineRun)
  | trackStep (l : LegRef) (r : EngineRun)
  | solveOrShift (l : LegRef) (r : EngineRun)
  | solve (l : LegRef) (r : EngineRun)
  | shift (l : LegRef) (r : EngineRun)
  | take (l : LegRef) (r : EngineRun)
  | nullLeg (l : LegRef)
  | legWatchdogStop (l : LegRef)
  | runStart (ctx handle : Nat)
  | runDeadline (ctx handle : Nat)
  | periodBegin (ctx handle : Nat)
  | periodBoundary (ctx handle : Nat)
  | legAbortDone (l : LegRef)
  | periodSummary (ctx handle : Nat)
  | doorbellSweep (port : Nat)
  | sweepReadReturn (r : RingId) (latency : Nat) (data : Option SweepData)
  | entryFetchReturn (r : RingId) (entries : Option (List Bytes))
  | msixTimeThreshold (ctx : Nat) (k : RingKind)
  | rttMeasure (port : Nat) (reads : List (Option Nat))
  | rttRetry (port : Nat) (reads : List (Option Nat))
  | rttUpdate (port : Nat)
  | powerSample (mw : Nat)
  | governorControl
  | sharedEngineChunkDone (e : SharedEngine)
  | ptmDialogueStart (port : Nat)
  | ptmResponse (port t2 delay : Nat)
  | ptmTimeout (port : Nat)
  | timeMap (port : Nat)
  | syncInEdge (rising : Bool) (width : Nat)
  | syncGroupClear (ctx group : Nat)
  | intakeApertureWrite (port offset : Nat) (data : Bytes)
  | sampleBlockCommit (port slot : Nat) (header : Bytes)
  | stagingCopyDone (port slot : Nat)
  | chainBlockProcess (ctx group : Nat)
  | starvationTimeout (ctx group : Nat)
  | frameRecordCommit (port window : Nat) (record : Bytes)
  | frameCheckDone (ctx cam : Nat)
  | exposureRec (ctx cam : Nat)
  | moveComplete (plat : Nat)
  | placeLate (ctx id : Nat)
  | cadastrePageReadDone (plat lpn : Nat) (o : PageRead)
  | nandProgramDone (plat group : Nat) (ok : Bool)
  | groupCommit (plat group : Nat)
  | eraseDone (plat block : Nat) (ok : Bool)
  | eraseResume (plat block : Nat)
  | checkpointTimer (plat : Nat)
  | checkpointDone (plat : Nat)
  | wearRelocation (plat : Nat)
  | blockRefresh (plat block : Nat)
  | cadastrePatrol (plat block : Nat) (o : PageRead)
  | cadastreMount (plat : Nat) (media : MountMedia)
  | vmainRise
  | powerLoss (level durationNs : Nat)
  | resetAssert
  | resetRelease
  | datumTimeStart (afterNs : Nat)
  | monumentBoot (slotA slotB : Bool)
  | platRelease (plat : Nat) (proof : Option Bytes)
  | platMeasurementDone (plat : Nat) (m : Measurement)
  | platSelfCheckDone (plat : Nat) (ok : Bool) (code : Nat)
  | platSwitchBegin (plat : Nat)
  | platActivated (plat : Nat)
  | fuseCounterBurn
  | imageVerifyDone (readOk : Bool)
  | linkL0 (port width : Nat) (fast : Bool)
  | levelRun (p : PortRef) (short : Bool)
  | levelRunDone (p : PortRef) (lanes : List LaneRx)
  | levelRunRetry (port : Nat)
  | laneFault (p : PortRef) (lane : Nat)
  | dlDown (port : Nat)
  | portResumed (port : Nat)
  | linkGraceExpire (port : Nat)
  | flrVf (port vf : Nat)
  | flrPf (port : Nat) (hotReset : Bool)
  | powerStateChange (port : Nat) (f : Fn) (d3 : Bool)
  | hostReadFailure (port : Nat) (k : ReadKind)
  | getVersion (a : Asker)
  | getCapabilities (a : Asker)
  | negotiateAlgorithms (a : Asker) (o : AlgOffer)
  | getDigests (a : Asker)
  | getCertificate (a : Asker) (slot offset length : Nat)
  | challenge (a : Asker) (slot : Nat)
  | getMeasurements (a : Asker) (index : Nat) (signed : Bool)
  | keyExchange (a : Asker) (mutualAuth : Bool)
  | finish (a : Asker) (session : Nat) (ok : Bool)
  | keyUpdate (a : Asker) (session : Nat)
  | heartbeat (a : Asker) (session : Nat)
  | endSession (a : Asker) (session : Nat)
  | unsupportedSpdmRequest (a : Asker) (code : Nat)
  | keyProg (port session : Nat) (k : StreamKey) (selective : Option Fn)
  | kSetGo (port session stream : Nat)
  | kSetStop (port session stream : Nat)
  | ideFailure (port stream : Nat)
  | getTdispVersion (port session vf : Nat)
  | getTdispCapabilities (port session vf : Nat)
  | lockInterfaceRequest (port session vf : Nat)
  | getDeviceInterfaceReport (port session vf : Nat)
  | getDeviceInterfaceState (port session vf : Nat)
  | startInterfaceRequest (port session vf : Nat)
  | stopInterfaceRequest (port session vf : Nat)
  | idleCredit (t : Nat) (h : TieHdr)
  | nak (t : Nat) (h : TieHdr) (expected : Nat)
  | hello (t : Nat) (h : TieHdr) (node variant epoch : Nat) (grants : List Nat)
  | auth (t : Nat) (h : TieHdr) (done : Option PeerAuth)
  | bulkWrite (t : Nat) (h : TieHdr) (landing : Nat) (first last : Bool) (tag offset : Nat) (data : Bytes) (bad : Bool)
  | bulkAck (t : Nat) (h : TieHdr) (landing tag bytes : Nat)
  | lateFault (t : Nat) (h : TieHdr) (landing reason tag far : Nat)
  | ackTimeout (ctx outlet tag : Nat)
  | query (t : Nat) (h : TieHdr) (service : Nat) (first last : Bool) (tag budget : Nat) (data : Bytes)
  | replyReceived (t : Nat) (h : TieHdr) (first last : Bool) (tag offset : Nat) (data : Bytes)
  | topology (t : Nat) (h : TieHdr) (origin n0 n1 rseq : Nat)
  | topologyRecordTimer
  | tieFrameForward (t : Nat) (h : TieHdr) (type : Nat) (msg payload : Bytes)
  | tieReplayTimeout (t : Nat)
  | tieLightDetect (t lanes : Nat)
  | tieLightLoss (t : Nat)
  | tieRefusedRetry (t : Nat)
  | tieDownRetry (t : Nat)
  | i3cRegisterWrite (offset value : Nat)
  | i3cRegisterRead (offset : Option Nat)
  | i3cCcc (code : Nat)
  | thermalSample (plat : Nat) (readings : List Int)
  | thermalRatioApply (plat : Nat)
  | faultEvent (e : FaultEv)
  | faultTrackerExpire (plat : Nat) (r : Resource)
  | patrolScrub (plat : Nat) (o : Scrub)
  | repairDone (plat : Nat)
  | stationSubstitutionDone (plat : Nat)
  | stationLost (plat station : Nat)
  | blockEnableWrite (p : Path) (b : CtrlBlock) (on : Bool)
  | glbPpl (p : Path) (value : Nat)
  | glbSetupPorts (p : Path) (value : Nat)
  | glbAlertEn (p : Path) (value : Nat)
  | hptSweep (p : Path) (port value : Nat)
  | hptGrace (p : Path) (port value : Nat)
  | tptNode (p : Path) (value : Nat)
  | tptAck (p : Path) (value : Nat)
  | ctxModWrite (p : Path) (ctx : Nat) (k : RingKind) (value : Nat)
  | lolRead (p : Path) (r : ReadSpan)
  | bitAliasWrite (p : Path) (offset value : Nat)
  | registerWrite (p : Path) (offset : Nat) (data : Bytes)
  | settingDurable (key : Nat)
  | vstbyRise
  | vstbyLoss
  | msixUnmask (port : Nat) (f : Fn) (vector : Nat)
  | configurationWrite (port : Nat) (f : Fn) (w : CfgWrite)
  | doeDiscovery (port : Nat) (f : Fn) (index : Nat)
  | stationZeroingDone (plat station : Nat)
  | moveUnitCopied (plat : Nat)
  deriving DecidableEq, Repr

end Sys2Proof
end

