-- ==== Sys2Proof/Decode.lean ====
section
/-!
DEFINITION. The decoder over the rows of spec/opcode_table.json. The table gives no row any bits, so no word spells a
command.
-/
namespace Sys2Proof

/-- The command that a word spells by the table's bits: none of them does. -/
def decodeTableWord (_nbits _w : Nat) : Option Instr := none

end Sys2Proof
end

