-- ==== Sys2Proof/Machine/Bits.lean ====
section
/-!
DEFINITION. Byte order, bit fields, sign, and the checks the spec names by algorithm: CRC-32C, SHA-256 and SHA-384.
-/
namespace Sys2Proof.Machine
open Sys2Proof

/-- `v` as `n` bytes, little-endian (R8). -/
def le : Nat → Nat → Bytes
  | 0, _ => []
  | n + 1, v => BitVec.ofNat 8 v :: le n (v / 256)

/-- The unsigned value of a little-endian byte string (R8). -/
def leNat : Bytes → Nat
  | [] => 0
  | b :: r => b.toNat + 256 * leNat r

/-- Two's complement reading of `v` at `n` bits. -/
def signed (n v : Nat) : Int := if v < 2 ^ (n - 1) then (v : Int) else (v : Int) - (2 ^ n : Nat)

/-- Two's complement pattern of `v` at `n` bits. -/
def unsigned (n : Nat) (v : Int) : Nat := (v % (2 ^ n : Nat)).toNat

/-- The unsigned field of `n` bytes at offset `o` of a byte string. -/
def fld (b : Bytes) (o n : Nat) : Nat := leNat ((b.drop o).take n)

/-- The signed field of `n` bytes at offset `o`. -/
def ifld (b : Bytes) (o n : Nat) : Int := signed (8 * n) (fld b o n)

/-- Bits [hi:lo] of a value (R7). -/
def bits (v hi lo : Nat) : Nat := v / 2 ^ lo % 2 ^ (hi + 1 - lo)

/-- Bit `b` of a value. -/
def bit (v b : Nat) : Bool := v / 2 ^ b % 2 == 1

/-- One or zero. -/
def b2n (b : Bool) : Nat := if b then 1 else 0

/-- Set or clear bit `b`. -/
def setBit (v b : Nat) (on : Bool) : Nat := v - 2 ^ b * b2n (bit v b) + 2 ^ b * b2n on

/-- A value of bits, bit 0 first. -/
def ofBits : List Bool → Nat
  | [] => 0
  | b :: r => b2n b + 2 * ofBits r

/-- Put a byte string over the bytes at offset `o`. -/
def overlay (b : Bytes) (o : Nat) (d : Bytes) : Bytes := b.take o ++ d ++ b.drop (o + d.length)

/-- One step of CRC-32C, one bit of the reflected polynomial. -/
def crcBit (c : Nat) : Nat := if c % 2 = 1 then (c / 2) ^^^ 0x82F63B78 else c / 2

/-- One byte of CRC-32C. -/
def crcByte (c : Nat) (b : Byte) : Nat :=
  crcBit (crcBit (crcBit (crcBit (crcBit (crcBit (crcBit (crcBit (c ^^^ b.toNat))))))))

/-- CRC-32C of a byte string (R123, R160, R239, R342): reflected, initial value and final exclusive-or of ones. -/
def crc32c (b : Bytes) : Nat := b.foldl crcByte 0xFFFFFFFF ^^^ 0xFFFFFFFF

/-- Cut a byte string at multiples of `u`. The first argument bounds the pieces. -/
def cut : Nat → Nat → Nat → Bytes → List (Nat × Bytes)
  | 0, _, off, d => [(off, d)]
  | n + 1, u, off, d =>
    let l := u - off % u
    if d.length ≤ l then [(off, d)] else (off, d.take l) :: cut n u (off + l) (d.drop l)

/-! ### SHA-256 and SHA-384 -/

/-- The largest `r` below 2^68 with r^k at most `n`, bit by bit from the top. -/
def floorRoot (k n : Nat) : Nat :=
  (List.range 68).foldr (fun b r => if (r + 2 ^ b) ^ k ≤ n then r + 2 ^ b else r) 0

/-- The primes below 410, of which there are 80. -/
def smallPrimes : List Nat :=
  (List.range 410).filter fun p => decide (2 ≤ p) && (List.range p).all fun d => decide (d < 2) || decide (p % d ≠ 0)

/-- The `w` bits after the point of the k-th root of each prime: the round constants are cube roots, the initial values square roots. -/
def rootWords (w k : Nat) : List (BitVec w) := smallPrimes.map fun p => BitVec.ofNat w (floorRoot k (p * 2 ^ (w * k)))

/-- Big-endian bytes of a value. -/
def be (n v : Nat) : Bytes := (le n v).reverse

/-- What sets one of the two hashes apart: its rounds, and the amounts by which its words turn and shift. -/
structure ShaKind where
  rounds : Nat
  s0     : Nat × Nat × Nat                 -- two turns and a shift of a message word
  s1     : Nat × Nat × Nat
  t0     : Nat × Nat × Nat                 -- three turns of a working word
  t1     : Nat × Nat × Nat

/-- The exclusive-or of a word turned right by three amounts. -/
def shaTurn {w : Nat} (a : Nat × Nat × Nat) (x : BitVec w) : BitVec w :=
  x.rotateRight a.1 ^^^ x.rotateRight a.2.1 ^^^ x.rotateRight a.2.2

/-- The exclusive-or of a word turned right by two amounts and shifted by a third. -/
def shaShift {w : Nat} (a : Nat × Nat × Nat) (x : BitVec w) : BitVec w := x.rotateRight a.1 ^^^ x.rotateRight a.2.1 ^^^ (x >>> a.2.2)

/-- The message words in hand, sixteen of them, one round on: the first gives way to the one that the sixteen make. -/
def shaSlide {w : Nat} (k : ShaKind) (m : List (BitVec w)) : List (BitVec w) :=
  m.drop 1 ++ [shaShift k.s1 (m.getD 14 0) + m.getD 9 0 + shaShift k.s0 (m.getD 1 0) + m.getD 0 0]

/-- One round on the working words, with its constant and message word summed in `kw`. -/
def shaRound {w : Nat} (k : ShaKind) (kw : BitVec w) (v : List (BitVec w)) : List (BitVec w) :=
  let x (i : Nat) := v.getD i 0
  let t := x 7 + shaTurn k.t1 (x 4) + (x 6 ^^^ (x 4 &&& (x 5 ^^^ x 6))) + kw
  let u := shaTurn k.t0 (x 0) + ((x 0 &&& (x 1 ||| x 2)) ||| (x 1 &&& x 2))
  [t + u, x 0, x 1, x 2, x 3 + t, x 4, x 5, x 6]

/-- The hash value after a block of sixteen words. -/
def shaBlock {w : Nat} (k : ShaKind) (h : List (BitVec w)) (b : Bytes) : List (BitVec w) :=
  let m := (List.range 16).map fun i => BitVec.ofNat w (leNat ((b.drop (w / 8 * i)).take (w / 8)).reverse)
  let r := ((rootWords w 3).take k.rounds).foldl (fun a c => (shaRound k (c + a.2.headD 0) a.1, shaSlide k a.2)) (h, m)
  List.zipWith (· + ·) h r.1

/-- The hash of a message on words of `w` bits: the message, a one bit, zeros, and its length in bits in two words, in blocks of sixteen
words. -/
def shaOf (w : Nat) (k : ShaKind) (init : List (BitVec w)) (m : Bytes) : Bytes :=
  let n := 2 * w
  let p := m ++ [0x80] ++ List.replicate ((2 * n - 1 - w / 4 - m.length % n) % n) 0 ++ be (w / 4) (8 * m.length)
  ((List.range (p.length / n)).foldl (fun h i => shaBlock k h ((p.drop (n * i)).take n)) init).flatMap fun x => be (w / 8) x.toNat

/-- SHA-256 (Table 2.12 DIGEST, R249). -/
def sha256 (m : Bytes) : Bytes := shaOf 32 ⟨64, (7, 18, 3), (17, 19, 10), (2, 13, 22), (6, 11, 25)⟩ ((rootWords 32 2).take 8) m

/-- Rounds and amounts of SHA-384, and its initial value, the square roots of the ninth to the sixteenth prime. -/
def sha384Kind : ShaKind := ⟨80, (1, 8, 7), (19, 61, 6), (28, 34, 39), (14, 18, 41)⟩

def sha384Init : List (BitVec 64) := ((rootWords 64 2).drop 8).take 8

/-- SHA-384 (R388, R392, R402). -/
def sha384 (m : Bytes) : Bytes := (shaOf 64 sha384Kind sha384Init m).take 48

end Sys2Proof.Machine
end

