-- ==== Sys2Proof/Machine/Float.lean ====
section
/-!
DEFINITION. Binary floating point: patterns, exact values, rounding to nearest with ties to even (R190, R194, R217,
R283). Values are exact dyadic numbers; every operation is exact until a format rounds it once.
-/
namespace Sys2Proof.Machine
open Sys2Proof

/-- A binary format: its exponent bits and its fraction bits. -/
structure Fmt where
  eb : Nat
  fb : Nat
  deriving DecidableEq, Repr

abbrev fp16 : Fmt := ⟨5, 10⟩
abbrev bf16 : Fmt := ⟨8, 7⟩
abbrev fp32 : Fmt := ⟨8, 23⟩
abbrev fp64 : Fmt := ⟨11, 52⟩

def Fmt.bias (f : Fmt) : Nat := 2 ^ (f.eb - 1) - 1

/-- An exact value: `num neg m e` is m × 2^e with its sign, zero included. -/
inductive Val where
  | nan
  | inf (neg : Bool)
  | num (neg : Bool) (m : Nat) (e : Int)
  deriving DecidableEq, Repr, Inhabited

def Val.zero : Val := .num false 0 0

def Val.ofNat (n : Nat) : Val := .num false n 0

def Val.ofInt (n : Int) : Val := .num (decide (n < 0)) n.natAbs 0

/-- The value of a pattern of a format. -/
def Fmt.decode (f : Fmt) (b : Nat) : Val :=
  let s := bit b (f.eb + f.fb)
  let ex := bits b (f.eb + f.fb - 1) f.fb
  let fr := b % 2 ^ f.fb
  if ex = 2 ^ f.eb - 1 then (if fr = 0 then .inf s else .nan)
  else if ex = 0 then .num s fr (1 - (f.bias : Int) - f.fb)
  else .num s (2 ^ f.fb + fr) ((ex : Int) - f.bias - f.fb)

/-- The pattern's infinity, without sign. -/
def Fmt.infBits (f : Fmt) : Nat := (2 ^ f.eb - 1) * 2 ^ f.fb

/-- The quiet NaN pattern. -/
def Fmt.nanBits (f : Fmt) : Nat := f.infBits + 2 ^ (f.fb - 1)

/-- Shift a natural number by a signed count, the bits below dropped. -/
def shiftInt (m : Nat) (s : Int) : Nat := if s < 0 then m / 2 ^ s.natAbs else m * 2 ^ s.natAbs

/-- Round to nearest, ties to even, at weight 2^u: the integer multiple of 2^u nearest to m × 2^e; `more` says that the
value lies a little above m × 2^e. -/
def nearest (m : Nat) (e u : Int) (more : Bool) : Nat :=
  if u ≤ e then shiftInt m (e - u)
  else
    let n := (u - e).natAbs
    let q := m / 2 ^ n
    let r := m % 2 ^ n
    let h := 2 ^ (n - 1)
    if h < r ∨ (r = h ∧ (more || q % 2 == 1)) then q + 1 else q

/-- The pattern of the number nearest to m × 2^e, without sign and with no limit on its exponent. -/
def Fmt.raw (f : Fmt) (m : Nat) (e : Int) (more : Bool := false) : Nat :=
  if m = 0 then 0
  else
    let u := max ((Nat.log2 m : Int) + e - f.fb) (1 - (f.bias : Int) - f.fb)
    (u + f.fb + f.bias).toNat * 2 ^ f.fb + nearest m e u more - 2 ^ f.fb

/-- The pattern nearest to a value, overflow going to infinity. -/
def Fmt.encode (f : Fmt) (v : Val) (more : Bool := false) : Nat :=
  let sg (neg : Bool) : Nat := b2n neg * 2 ^ (f.eb + f.fb)
  match v with
  | .nan => f.nanBits
  | .inf s => sg s + f.infBits
  | .num s m e => sg s + min f.infBits (f.raw m e more)

/-- A value rounded once to a format. -/
def Fmt.round (f : Fmt) (v : Val) (more : Bool := false) : Val := f.decode (f.encode v more)

def Val.neg : Val → Val
  | .nan => .nan
  | .inf s => .inf (!s)
  | .num s m e => .num (!s) m e

/-- The signed integer multiple of 2^u, u ≤ e, that a number is. -/
def scaled (s : Bool) (m : Nat) (e u : Int) : Int :=
  let n : Int := (m * 2 ^ (e - u).toNat : Nat)
  if s then -n else n

/-- Exact sum. An exact zero is +0 unless both terms are negative zeros. -/
def Val.add : Val → Val → Val
  | .nan, _ => .nan
  | _, .nan => .nan
  | .inf s, .inf t => if s = t then .inf s else .nan
  | .inf s, _ => .inf s
  | _, .inf t => .inf t
  | .num s m e, .num t n d =>
    let u := min e d
    let x := scaled s m e u + scaled t n d u
    if x = 0 then .num (s && t && m == 0 && n == 0) 0 0 else .num (decide (x < 0)) x.natAbs u

def Val.sub (a b : Val) : Val := a.add b.neg

/-- Exact product. -/
def Val.mul : Val → Val → Val
  | .nan, _ => .nan
  | _, .nan => .nan
  | .inf s, .inf t => .inf (s != t)
  | .inf s, .num t n _ => if n = 0 then .nan else .inf (s != t)
  | .num s m _, .inf t => if m = 0 then .nan else .inf (s != t)
  | .num s m e, .num t n d => .num (s != t) (m * n) (e + d)

/-- Exact sum of a list. -/
def Val.sum (l : List Val) : Val := l.foldl Val.add .zero

def Val.isNan : Val → Bool
  | .nan => true
  | _ => false

def Val.isFinite : Val → Bool
  | .num _ _ _ => true
  | _ => false

def Val.isZero : Val → Bool
  | .num _ m _ => m == 0
  | _ => false

def Val.abs : Val → Val
  | .nan => .nan
  | .inf _ => .inf false
  | .num _ m e => .num false m e

/-- Numerical order, false with a NaN; the two zeros are equal. -/
def Val.lt : Val → Val → Bool
  | .nan, _ => false
  | _, .nan => false
  | .inf s, .inf t => s && !t
  | .inf s, _ => s
  | _, .inf t => !t
  | .num s m e, .num t n d => let u := min e d; decide (scaled s m e u < scaled t n d u)

def Val.le (a b : Val) : Bool := !a.isNan && !b.isNan && !b.lt a

def Val.max (a b : Val) : Val := if a.lt b then b else a

def Val.min (a b : Val) : Val := if b.lt a then b else a

/-- Quotient rounded once to a format. -/
def Fmt.div (f : Fmt) : Val → Val → Val
  | .nan, _ => .nan
  | _, .nan => .nan
  | .inf _, .inf _ => .nan
  | .inf s, .num t _ _ => .inf (s != t)
  | .num s _ _, .inf t => .num (s != t) 0 0
  | .num s m e, .num t n d =>
    if n = 0 then (if m = 0 then .nan else .inf (s != t))
    else if m = 0 then .num (s != t) 0 0
    else
      let k := f.fb + 4 + Nat.log2 n - Nat.log2 m
      let q := m * 2 ^ k / n
      f.round (.num (s != t) q (e - d - k)) (m * 2 ^ k % n != 0)

/-- The integer square root, from its highest bit down; the first argument is the number of bits tried. -/
def isqrt : Nat → Nat → Nat → Nat
  | 0, r, _ => r
  | b + 1, r, n => let t := r + 2 ^ b; isqrt b (if t * t ≤ n then t else r) n

/-- Square root rounded once to a format. -/
def Fmt.sqrt (f : Fmt) : Val → Val
  | .nan => .nan
  | .inf s => if s then .nan else .inf false
  | .num s m e =>
    if m = 0 then .num s 0 0
    else if s then .nan
    else
      let k := 2 * (f.fb + 4) + (e % 2).toNat
      let n := m * 2 ^ k
      let r := isqrt (Nat.log2 n / 2 + 1) 0 n
      f.round (.num false r ((e - k) / 2)) (r * r != n)

/-- The floor of a finite value as an integer, 0 otherwise. -/
def Val.floor : Val → Int
  | .num s m e =>
    if 0 ≤ e then scaled s m e 0
    else
      let d := 2 ^ e.natAbs
      if s then -(((m + d - 1) / d : Nat) : Int) else ((m / d : Nat) : Int)
  | _ => 0

/-- The integer nearest to a finite value, ties to even. -/
def Val.nearestInt : Val → Int
  | .num s m e => let n : Int := (nearest m e 0 false : Nat); if s then -n else n
  | _ => 0

/-! ### FP64 operations, each rounded once (R217) -/

def add64 (a b : Val) : Val := fp64.round (a.add b)

def sub64 (a b : Val) : Val := fp64.round (a.sub b)

def mul64 (a b : Val) : Val := fp64.round (a.mul b)

/-- a × b + c with a single rounding. -/
def fma64 (a b c : Val) : Val := fp64.round ((a.mul b).add c)

def div64 (a b : Val) : Val := fp64.div a b

/-- The value of 2^e. -/
def pow2 (e : Int) : Val := .num false 1 e

end Sys2Proof.Machine
end

