-- ==== Sys2Proof/Machine/Cipher.lean ====
section
/-!
DEFINITION. The ciphers and key functions that the spec names: AES with 256-bit keys, XTS mode with the tweak of R332
and the metadata of a physical Archive page (R337, Table 9.9), GCM (R370, R402), key wrap (R401), SHA-384, HMAC and HKDF
(R388, R390, R401).
The model's own: log 14 (PRESUMED).
-/
namespace Sys2Proof.Machine
open Sys2Proof

/-! ### The field of 256 elements -/

/-- A byte times x, reduced by x^8 + x^4 + x^3 + x + 1. -/
def timesX (b : Byte) : Byte := if b.msb then (b <<< 1) ^^^ 0x1B else b <<< 1

/-- The product of two bytes in the field. -/
def gfMul (a b : Byte) : Byte :=
  ((List.range 8).foldl (fun (r : Byte × Byte) i => (if a.getLsbD i then r.1 ^^^ r.2 else r.1, timesX r.2)) (0, b)).1

/-- The inverse of a byte, 0 for 0: its 254th power, the product of its powers 2, 4 and so on to 128. -/
def gfInv (b : Byte) : Byte :=
  ((List.range 7).foldl (fun (r : Byte × Byte) _ => let q := gfMul r.2 r.2; (gfMul r.1 q, q)) (1, b)).1

/-- The byte substitution: the inverse, then the affine map. -/
def subByte (b : Byte) : Byte :=
  let x := gfInv b
  x ^^^ x.rotateLeft 1 ^^^ x.rotateLeft 2 ^^^ x.rotateLeft 3 ^^^ x.rotateLeft 4 ^^^ 0x63

/-! ### AES-256 -/

/-- The exclusive-or of two byte strings. -/
def xorBytes (a b : Bytes) : Bytes := List.zipWith (· ^^^ ·) a b

/-- The next four bytes of the key schedule, from those before it: every eighth word turns, substitutes and takes a round constant, the
fourth after it substitutes. -/
def keyWord (w : List Bytes) (rc : Byte) : Bytes :=
  let i := w.length
  let t := w.getD (i - 1) []
  let t := if i % 8 = 0 then xorBytes ((t.drop 1 ++ t.take 1).map subByte) [rc, 0, 0, 0]
    else if i % 8 = 4 then t.map subByte else t
  xorBytes (w.getD (i - 8) []) t

/-- The 60 words of the key schedule of a 32-byte key. -/
def keyWords (key : Bytes) : List Bytes :=
  ((List.range 52).foldl (fun (r : List Bytes × Byte) i =>
    (r.1 ++ [keyWord r.1 r.2], if i % 8 = 0 then timesX r.2 else r.2))
    ((List.range 8).map (fun i => (key.drop (4 * i)).take 4), 1)).1

/-- Round key `n`, 16 bytes. -/
def roundKey (w : List Bytes) (n : Nat) : Bytes := ((w.drop (4 * n)).take 4).flatten

/-- Row `r` of the state turns left by `r`; byte `4 * c + r` is row `r` of column `c`. -/
def shiftRows (b : Bytes) : Bytes := (List.range 16).map fun i => b.getD ((i + 4 * (i % 4)) % 16) 0

/-- One column times the fixed polynomial. -/
def mixColumn (c : Bytes) : Bytes :=
  (List.range 4).map fun i =>
    timesX (c.getD i 0) ^^^ timesX (c.getD ((i + 1) % 4) 0) ^^^ c.getD ((i + 1) % 4) 0 ^^^ c.getD ((i + 2) % 4) 0 ^^^ c.getD ((i + 3) % 4) 0

def mixColumns (b : Bytes) : Bytes := (List.range 4).flatMap fun i => mixColumn ((b.drop (4 * i)).take 4)

/-- AES-256 of one block of 16 bytes. -/
def aes256 (key block : Bytes) : Bytes :=
  let w := keyWords key
  let x := (List.range 13).foldl (fun b i => xorBytes (mixColumns (shiftRows (b.map subByte))) (roundKey w (i + 1)))
    (xorBytes block (roundKey w 0))
  xorBytes (shiftRows (x.map subByte)) (roundKey w 14)

/-- Row `r` turns right by `r`. -/
def unshiftRows (b : Bytes) : Bytes := (List.range 16).map fun i => b.getD ((i + 12 * (i % 4)) % 16) 0

/-- The byte that `subByte` takes to `b`. -/
def unsubByte (b : Byte) : Byte := gfInv (b.rotateLeft 1 ^^^ b.rotateLeft 3 ^^^ b.rotateLeft 6 ^^^ 0x05)

/-- The inverse of `mixColumns`, which is its own inverse's third power. -/
def unmixColumns (b : Bytes) : Bytes := mixColumns (mixColumns (mixColumns b))

/-- The inverse of AES-256 on one block. -/
def unaes256 (key block : Bytes) : Bytes :=
  let w := keyWords key
  let x := (List.range 13).foldl (fun b i => unmixColumns (xorBytes ((unshiftRows b).map unsubByte) (roundKey w (13 - i))))
    (xorBytes block (roundKey w 14))
  xorBytes ((unshiftRows x).map unsubByte) (roundKey w 0)

/-! ### XTS and the tweak of R332 -/

/-- The 128-bit tweak of a data unit, little-endian: its index within the object, then the object's serial. -/
def tweak (unit serial : Nat) : Bytes := le 8 unit ++ le 4 serial ++ le 4 0

/-- A tweak times x in the field of 2^128 elements, its bytes taken little-endian. -/
def tweakNext (t : Bytes) : Bytes :=
  let v := leNat t
  le 16 (if v < 2 ^ 127 then 2 * v else (2 * v) ^^^ (2 ^ 128 + 0x87))

/-- AES-256-XTS of a data unit of whole blocks under a key of 64 bytes: the first half for the data, the second for the tweak. The first
argument bounds the blocks. -/
def xtsBlocks (key : Bytes) : Nat → Bytes → Bytes → Bytes
  | 0, _, _ => []
  | n + 1, t, d =>
    if d.isEmpty then []
    else xorBytes (aes256 (key.take 32) (xorBytes (d.take 16) t)) t ++ xtsBlocks key n (tweakNext t) (d.drop 16)

/-- A data unit of 4,096 bytes as the Main and Archive tiers store it (R332). -/
def xtsUnit (key : Bytes) (unit serial : Nat) (d : Bytes) : Bytes := xtsBlocks key 256 (aes256 (key.drop 32) (tweak unit serial)) d

/-- An Archive page of an object as the NAND stores it: page `i` of the object is its data units 4i to 4i + 3. -/
def xtsPage (key : Bytes) (i serial : Nat) (d : Bytes) : Bytes :=
  (List.range 4).flatMap fun j => xtsUnit key (4 * i + j) serial ((d.drop (4096 * j)).take 4096)

/-- The metadata of a physical page (Table 9.9): logical page, keying owner, RELOCATED, sequence number, commit group, CRC-32C of the
ciphertext. -/
def pageMeta (lpn key : Nat) (relocated : Bool) (seq group : Nat) (cipher : Bytes) : Bytes :=
  le 4 lpn ++ le 2 key ++ le 2 (b2n relocated) ++ le 8 seq ++ le 8 group ++ le 4 (crc32c cipher) ++ le 4 0

/-! ### GCM (R370, R402) -/

/-- The product of two blocks in GCM's field, as 128-bit numbers whose top bit is the coefficient of 1. -/
def ghashMul (x y : Nat) : Nat :=
  ((List.range 128).foldl (fun (r : Nat × Nat) i =>
    (if bit x (127 - i) then r.1 ^^^ r.2 else r.1, if r.2 % 2 = 1 then (r.2 / 2) ^^^ (0xE1 * 2 ^ 120) else r.2 / 2)) (0, y)).1

/-- The blocks of 16 bytes of a string, the last filled up with zeros, as numbers. -/
def blocksOf (b : Bytes) : List Nat :=
  (List.range (ceilDiv b.length 16)).map fun i =>
    let x := (b.drop (16 * i)).take 16
    leNat (x ++ List.replicate (16 - x.length) 0).reverse

/-- The counter block `n` of a 96-bit nonce. -/
def counterBlock (nonce : Bytes) (n : Nat) : Bytes := nonce ++ be 4 n

/-- The key stream over a string, from counter 2: encryption and decryption alike. -/
def gcmStream (key nonce d : Bytes) : Bytes :=
  xorBytes d ((List.range (ceilDiv d.length 16)).flatMap fun i => aes256 key (counterBlock nonce (i + 2)))

/-- The key of the authentication: the block of zeros encrypted. -/
def ghashKey (key : Bytes) : Nat := leNat (aes256 key (List.replicate 16 0)).reverse

/-- The authentication state `y` taken over a string, filled up to whole blocks. -/
def ghashOver (key : Bytes) (y : Nat) (d : Bytes) : Nat := let h := ghashKey key; (blocksOf d).foldl (fun y b => ghashMul (y ^^^ b) h) y

/-- The tag, from the authentication state over additional data and ciphertext and from their lengths in bytes. -/
def gcmFinish (key nonce : Bytes) (y aad len : Nat) : Bytes :=
  xorBytes (be 16 (ghashMul (y ^^^ (8 * aad * 2 ^ 64 + 8 * len)) (ghashKey key))) (aes256 key (counterBlock nonce 1))

/-- The tag of a ciphertext and its additional data. -/
def gcmTag (key nonce aad cipher : Bytes) : Bytes :=
  gcmFinish key nonce (ghashOver key (ghashOver key 0 aad) cipher) aad.length cipher.length

/-! ### Key wrap of RFC 3394 (R401) -/

/-- One step of the wrapping: the step number goes into the first half of the block. -/
def wrapStep (kek : Bytes) (n : Nat) (a : Bytes × List Bytes) (t : Nat) : Bytes × List Bytes :=
  let i := (t - 1) % n
  let x := aes256 kek (a.1 ++ a.2.getD i [])
  (xorBytes (x.take 8) (be 8 t), a.2.set i (x.drop 8))

/-- Wrap a key of whole blocks of 8 bytes. -/
def wrapKey (kek key : Bytes) : Bytes :=
  let n := key.length / 8
  let x := ((List.range (6 * n)).map (· + 1)).foldl (wrapStep kek n)
    (List.replicate 8 0xA6, (List.range n).map fun i => (key.drop (8 * i)).take 8)
  x.1 ++ x.2.flatten

/-- One step of the unwrapping: the step number and the half it takes out of the registers. -/
def unwrapStep (kek : Bytes) (n : Nat) (a : Bytes × List Bytes) (t : Nat) : Bytes × List Bytes :=
  let i := (t - 1) % n
  let x := unaes256 kek (xorBytes a.1 (be 8 t) ++ a.2.getD i [])
  (x.take 8, a.2.set i (x.drop 8))

/-- Unwrap a wrapped key: none where the initial value does not come out. -/
def unwrapKey (kek wrapped : Bytes) : Option Bytes :=
  let n := wrapped.length / 8 - 1
  let r := (List.range n).map fun i => (wrapped.drop (8 * (i + 1))).take 8
  let x := ((List.range (6 * n)).map (6 * n - ·)).foldl (unwrapStep kek n) (wrapped.take 8, r)
  if x.1 = List.replicate 8 0xA6 then some x.2.flatten else none

/-! ### HMAC and HKDF with SHA-384 (R388, R390, R401) -/

/-- HMAC-SHA-384: blocks of 128 bytes. -/
def hmac384 (key m : Bytes) : Bytes :=
  let k := if key.length ≤ 128 then key else sha384 key
  let k := k ++ List.replicate (128 - k.length) 0
  sha384 (k.map (· ^^^ 0x5C) ++ sha384 (k.map (· ^^^ 0x36) ++ m))

/-- The first `n` bytes that HKDF-SHA-384 gives; the first argument of the expansion bounds its rounds. -/
def hkdf384 (salt ikm info : Bytes) (n : Nat) : Bytes := (expand (n / 48 + 1) 1 [] (hmac384 salt ikm)).take n
where
  expand : Nat → Nat → Bytes → Bytes → Bytes
    | 0, _, _, _ => []
    | f + 1, i, t, prk => let t := hmac384 prk (t ++ info ++ [BitVec.ofNat 8 i]); t ++ expand f (i + 1) t prk

/-! ### CTR_DRBG with AES-256 (R388) -/

/-- `n` blocks of output: the counter's next values encrypted. -/
def drbgBlocks (key v : Bytes) (n : Nat) : Bytes := (List.range n).flatMap fun i => aes256 key (be 16 (leNat v.reverse + i + 1))

/-- The update: a new key and counter from 48 bytes of input. -/
def drbgUpdate (key v data : Bytes) : Bytes × Bytes :=
  let t := xorBytes (drbgBlocks key v 3) data
  (t.take 32, t.drop 32)

end Sys2Proof.Machine
end

