-- ==== Sys2Proof/Config.lean ====
section
/-!
DEFINITION. The free values: what the spec leaves open and the machine yet produces. Each is a constant without a body,
so no proof can rest on its value (logs 10, 12, 13, 14, 15, 31, 35, 44).
-/
namespace Sys2Proof

/-- Byte `i` of the `n`th run of undefined bytes drawn (R83, R95, R216, R322, R376; log 10). -/
opaque Config.freeByte (n i : Nat) : Byte

/-- The `n`th undefined number drawn (log 10). -/
opaque Config.freeNat (n : Nat) : Nat

/-- The FP32 pattern of a maximum or minimum (`op`) of two FP32 patterns of which one is a NaN, or which are zeros of
opposite sign: R195, R196 and Table 5.7 state no result (log 12). -/
opaque Config.pickNan (op a b : Nat) : Nat

/-- Error of the device's one fixed method for sigmoid (code 4) and tanh (code 5), in units of the last place; taken
modulo 5, less 2, for R196 bounds it by 2 (log 12). -/
opaque Config.actError (code pattern : Nat) : Nat

/-- FP64 pattern of component `i` of a result of the SE(3) unit: operation `op` (0 the rotation of an exponential, 1 its translation, 2 a
logarithm) on operands of these patterns. It holds where it keeps the bound of R218 (log 12). -/
opaque Config.se3Result (op : Nat) (operands : List Nat) (i : Nat) : Nat

/-- What a Fix says where its Leg's Filter State, `half`, gives it nothing to say it of: `what` 0 OCA with an empty OCA_MASK, 1 VISION_AGE
without a camera sensor, 2 RATE with an empty history (log 35). -/
opaque Config.fixOpen (half : Bytes) (what : Nat) : Nat

/-- The place that the device gives unit `unit` of the object of key `k`, before it is fitted to what is free: R309 to R313 leave the choice
to the device (log 31). -/
opaque Config.unitPlace (k unit n : Nat) : Nat

/-- What the service port answers to common command code `code`: I3C Basic lays the answers out, and the spec gives no value, the 48 bits of
the Provisioned ID among them (R380; log 44). -/
opaque Config.cccReply (code : Nat) : List (BitVec 8)

/-- FP64 pattern of coefficient `i` of the process noise that a track's prediction over `dt` seconds adds under `model`: R244
states none (log 12). Coefficients 0 to 5: position, position and velocity, velocity, position and acceleration, velocity and
acceleration, acceleration. -/
opaque Config.trackNoise (model sigma dt i : Nat) : Nat

/-- The body of an Adjustment Schedule, which R255 does not specify, agrees with the structure of a Problem: the load pass of
R249 (log 15). -/
opaque Config.schedMatches (body structure_ : Bytes) : Bool

/-- Place of factor or free degree of freedom `i` in the order that a Schedule's body compiles: `what` 0 the summation order,
1 the elimination order (R255, R258, R259; log 15). -/
opaque Config.schedOrder (body : Bytes) (what i : Nat) : Nat

/-- Byte `i` of the UDS, a fused value of 48 bytes (R385; log 14). -/
opaque Config.udsByte (i : Nat) : Byte

/-- SHA-384 of the public Plat key of Plat `p`, fused into Plat 0 at assembly (R387; log 14). -/
opaque Config.platKeyDigest (p : Nat) : Bytes

/-- The label by which HKDF derives key `what` of Table 11.1, 0 DeviceID, 1 and 2 the Update keys, 3 the Boot Key, 4 the Storage Root Key, 5
CDI_M, 6 the Alias key: the spec names the function and no labels (R388; log 14). -/
opaque Config.kdfInfo (what : Nat) : Bytes

/-- The public key, 97 bytes uncompressed, of a private key of P-384 (R388; log 14). -/
opaque Config.ecPublic (key : Bytes) : Bytes

/-- The `n`th ECDSA P-384 signature by a private key: 96 bytes that the DRBG enters into (R388, R392; log 14). -/
opaque Config.ecdsaSign (key : Bytes) (n : Nat) : Bytes

/-- The X.509 chain of certificate slot 0, for the DeviceID key that signs and the public Alias key that is signed (R388; log 14). -/
opaque Config.certChain (deviceId alias_ : Bytes) : Bytes

/-- SHA-384 of the Monument firmware in the image of an IMAGE_DIGEST (R388, Table 11.4; log 14). -/
opaque Config.firmwareDigest (image : Bytes) : Bytes

/-- A manifest format is known to the running image of an IMAGE_ID: the spec lists none (Table 11.10; log 14). -/
opaque Config.manifestKnown (image mformat : Nat) : Bool

/-- SHA-384 of the mask ROM (`what` 1) and of the settings blob (4), as functions of what they
depend on (Table 11.4; log 14). -/
opaque Config.measured (what : Nat) (of_ : List Nat) : Bytes

/-- The bytes of the `n`th SPDM response, which DSP0274 lays out and the spec does not (R391; log 14). -/
opaque Config.spdmBytes (n : Nat) : Bytes

end Sys2Proof
end

