-- ==== Sys2Proof/Machine/State.lean ====
section
/-!
DEFINITION. The state of one Vilherus package, as plain data, and its value after reset. Every table keyed by a number
(`Tbl`) lists only the entries that exist; a number that is not listed is absent or holds the reset value its section
names. INVENTORY.md lists every field with the rule of spec/ that names it.
The model's own: log 3 (DESIGN CHOICE), log 4 (DESIGN CHOICE), log 5 (PRESUMED), log 6 (DESIGN CHOICE), log 7 (DESIGN CHOICE), log 8 (DESIGN CHOICE).
-/
namespace Sys2Proof.Machine
open Sys2Proof

/-- A sparse table: keys strictly rising. -/
abbrev Tbl (α : Type) := List (Nat × α)

/-- Bytes of an addressed store: addresses strictly rising, no entry equal to zero, which is what an unlisted address
reads as (R311). -/
abbrev Mem := List Host.Cell

/-! ### The part, its fuses, its supplies -/

/-- R3, Table 0.1. -/
inductive Variant where
  | vlh2 | vlh4 | vlh8
  deriving DecidableEq, Repr, Inhabited

/-- R4, Table 0.2. -/
inductive Grade where
  | x | s
  deriving DecidableEq, Repr, Inhabited

/-- Identity of the part (R3, R4, R353, R460, R469). No step changes it. -/
structure Part where
  variant  : Variant := .vlh8
  grade    : Grade := .x
  stepping : Nat := 0
  serial   : Nat := 0
  deriving DecidableEq, Repr, Inhabited

/-- Fuses (R398, R407, R414): they only ever go one way. -/
structure Fuses where
  fieldLock : Bool := false
  terminal  : Bool := false
  counter   : Nat := 0
  uds       : Bytes := (List.range 48).map Config.udsByte   -- Unique Device Secret (R385)
  platKeys  : List Bytes := (List.range 8).map Config.platKeyDigest  -- digests of the Plat keys, by Plat (R387)
  deriving DecidableEq, Repr, Inhabited

/-- Supplies, pins and Datum Time (R109, R378, R381, R417, R446). -/
structure Supply where
  vstby     : Bool := true
  vmain     : Bool := true
  resetN    : Bool := true
  running   : Bool := false             -- Datum Time runs
  now       : Nat := 0
  startNs   : Nat := 0                  -- VMAIN rise to Datum Time 0
  thermtrip : Bool := false             -- THERMTRIP_N latched low
  tripped   : Bool := false             -- engines and optical transmitters off since a trip (R446)
  tripPlat  : Option (Nat × Nat) := none -- Plat and sensor of a trip, for the next boot's Fault Log
  lossSeen  : Bool := false             -- a power loss to be logged at boot
  deriving DecidableEq, Repr, Inhabited

/-- A persistent setting of the blob (R456): the durable value and a write not durable yet. -/
structure Setting where
  durable : Nat
  pending : Option Nat := none
  deriving DecidableEq, Repr, Inhabited

/-- A CTRL register (Table 13.1). -/
structure Ctrl where
  enable       : Bool := true
  ignored      : Nat := 0
  writeIgnored : Bool := false
  deriving DecidableEq, Repr, Inhabited

/-- An RWE register: the value written and the value in force, which the next ENABLE 1 takes over (R451). -/
structure Rwe where
  written : Nat := 0
  inForce : Nat := 0
  deriving DecidableEq, Repr, Inhabited

/-- GLB block and Power Governor (R47, R48, R51, R413, R460). -/
structure Glb where
  ignored    : Nat := 0
  denied     : Nat := 0
  ppl        : Nat := 600
  pace       : Nat := 64
  lowest     : Nat := 64
  lastChange : Option Nat := none
  samples    : List (Nat × Nat) := []   -- Datum Time and mW, newest first
  meanMw     : Nat := 0
  setupPorts : Nat := 1
  alertEn    : Nat := 3
  defaulted  : Bool := false
  tieHold    : Bool := false
  deriving DecidableEq, Repr, Inhabited

/-- DTM block (R112, R116, R117, R118, R461). -/
structure Dtm where
  ctrl        : Ctrl := {}
  ptmInterval : Rwe := ⟨1000000, 1000000⟩
  mapInterval : Rwe := ⟨100, 100⟩
  syncCfg     : Rwe := ⟨0, 0⟩
  syncTe      : Nat := 0
  accepted    : Nat := 0
  rejected    : Nat := 0
  lastEdge    : Option Nat := none
  deriving DecidableEq, Repr, Inhabited

/-- A Fault Log entry (Table 12.9). -/
structure LogEntry where
  cls    : Nat
  plat   : Nat
  kind   : Nat
  source : Nat
  first  : Nat
  last   : Nat
  count  : Nat
  eseq   : Nat
  detail : Nat
  deriving DecidableEq, Repr, Inhabited

/-- FLT block and Fault Log (R429, R433, R440, R441, R468). `window` packs FLT_WINDOW. -/
structure Flt where
  ctrl      : Ctrl := {}
  window    : Rwe := ⟨60 * 65536 + 3, 60 * 65536 + 3⟩
  sparesMin : Rwe := ⟨2, 2⟩
  log       : List LogEntry := []       -- oldest first
  eseq      : Nat := 0
  totals    : Tbl Nat := []
  losses    : Tbl Nat := []
  reported  : List Nat := []            -- classes whose first loss since the last take is announced
  deriving DecidableEq, Repr, Inhabited

/-! ### Records the device writes -/

/-- A field of an event payload: byte offset in the entry, size in bytes, value. -/
abbrev Fld := Nat × Nat × Nat

/-- A completion entry (Table 2.7), without PHASE and SQ_HEAD, which its writing gives. -/
structure CqRec where
  tag    : Nat
  status : Nat
  kind   : Nat
  warn   : Nat := 0
  stamp  : Nat
  trav   : Nat := 0xFFFF
  leg    : Nat := 0
  period : Nat := 0
  tier   : Nat := 0
  plat   : Nat := 0
  aux    : Nat := 0
  irq    : Bool := false
  deriving DecidableEq, Repr, Inhabited

/-- An event entry (Table 2.9), without PHASE. -/
structure EvRec where
  type    : Nat
  status  : Nat
  evseq   : Nat
  stamp   : Nat
  payload : List Fld
  deriving DecidableEq, Repr, Inhabited

/-- A record of a context on its way to a ring. -/
inductive Rec where
  | cq (r : CqRec)
  | ev (r : EvRec)
  deriving DecidableEq, Repr, Inhabited

/-- A Tie frame (Table 10.10). -/
structure TieFrame where
  type    : Nat
  cls     : Nat
  dst     : Nat
  src     : Nat
  hops    : Nat
  epoch   : Nat := 0                       -- low byte of the sender's Protocol Epoch
  lseq    : Nat := 0
  lack    : Nat := 0                       -- as first sent
  credit  : List Nat := []
  msg     : List Fld := []
  payload : Bytes := []
  deriving DecidableEq, Repr, Inhabited

/-- What the Monument answers over SPDM, TDISP or IDE_KM (R391 to R396). -/
inductive SpdmResp where
  | error (code : Nat)                    -- DSP0274 ErrorCode
  | version (l : List Nat)                -- SPDM versions
  | capabilities
  | algorithms
  | digests (slotMask : Nat) (digest : Bytes)
  | certificate (offset : Nat) (portion : Bytes)
  | challengeAuth (signature : Bytes)
  | measCount (n : Nat)
  | measurements (blocks : List (Nat × Bytes)) (signature : Option Bytes)
  | keyExchange (session : Nat) (signature : Bytes)
  | finish (session : Nat)
  | keyUpdate (session : Nat)
  | heartbeat (session : Nat)
  | endSession (session : Nat)
  | ideKm (code stream : Nat)             -- 0 KEY_PROG accepted, 1 refused, 2 GO, 3 STOP
  | tdisp (code : Nat) (fields : List Nat)
  | tdispError
  | protocols (l : List Nat)
  deriving DecidableEq, Repr, Inhabited

/-- What the package puts out, newest first in `State.out`. A ring entry goes out as its bytes at its address (R63, R65, R76, R78,
R79), beside the record that it spells. A read or write of host memory carries the selective IDE stream that it goes on, if any (R396). -/
inductive Out where
  | cq (ctx address : Nat) (data : Bytes) (r : CqRec)
  | ev (ctx address : Nat) (data : Bytes) (r : EvRec)
  | acq (port address : Nat) (data : Bytes) (r : Rec)
  | msix (port : Nat) (f : Fn) (vector : Nat)
  | doorbell (r : RingId) (address : Nat) (data : Bytes)
  | hostWrite (port address : Nat) (data : Bytes) (stream : Option Nat)
  | hostRead (port address length : Nat) (stream : Option Nat)
  | register (p : Path) (offset : Nat) (data : Bytes)
  | unsupported (p : Path) (offset : Nat)  -- a read completed with Unsupported Request
  | config (port : Nat) (f : Fn) (i : CfgItem) (value : Nat)
  | spdm (r : Responder) (a : SpdmResp)
  | doe (port : Nat) (f : Fn) (a : SpdmResp)
  | tie (t : Nat) (f : TieFrame)
  | ptmRequest (port : Nat)
  | levelRun (p : PortRef) (short : Bool)
  | laneWords (p : PortRef) (words : List Nat)
  | i3cAck (value : Nat)
  | i3cNack
  | i3cCcc (code : Nat) (reply : Bytes)
  deriving DecidableEq, Repr, Inhabited

/-! ### Ports -/

/-- One function of a Host Port (R353, R360, R361). Vectors not in `unmasked` are masked. -/
structure FnState where
  d3         : Bool := false
  unmasked   : List Nat := []
  pend       : List Nat := []
  table      : Tbl Nat := []               -- MSI-X table words other than Vector Control, by offset in the table (R459)
  maxPayload : Nat := 128
  maxRead    : Nat := 512                  -- Max Read Request Size programmed
  cplNs      : Nat := 10000000             -- completion timeout
  tenBit     : Bool := false
  numVfs     : Nat := 0                    -- SR-IOV, in the PF
  vfEnable   : Bool := false
  aerUnc     : Nat := 0                    -- Advanced Error Reporting, in the PF: uncorrectable and correctable error status
  aerCor     : Nat := 0
  deriving DecidableEq, Repr, Inhabited

/-- An IDE stream of a port (R393). -/
structure IdeStream where
  selective : Option Fn
  key       : Bytes := []                  -- programmed through IDE_KM
  secure    : Bool := false
  session   : Nat := 0
  deriving DecidableEq, Repr, Inhabited

/-- The PTM dialogues of a port and its Time Map (R112 to R115). -/
structure Ptm where
  held     : List (Nat × Nat × Nat × Nat) := []  -- t1, t4, t2, t3, newest first, at most 16
  asked    : Option Nat := none
  okRow    : Nat := 0
  failRow  : Nat := 0
  valid    : Bool := false
  rate     : Int := 0
  d0       : Int := 0
  h0       : Int := 0
  u        : Int := 0
  startAt  : Option Nat := none            -- Datum Time of the last dialogue's start
  mapAt    : Nat := 0                      -- Datum Time of the last TIME_MAP of the interval
  deriving DecidableEq, Repr, Inhabited

/-- A stream slot of the Intake Aperture (R120, R121). -/
structure Slot where
  bytes   : Mem := []
  staged  : Option (Mem × Bytes) := none   -- payload as it stood at commit, and the header
  split   : Bool := false                  -- header bytes arrived in more than one write
  held    : List (Nat × Bytes) := []       -- writes that wait for the staging copy
  deriving DecidableEq, Repr, Inhabited

/-- A link-down of a Host Port (R360). -/
structure Down where
  at_    : Nat
  graceMs : Nat
  up      : Option Nat := none              -- Datum Time of the return to L0
  deriving DecidableEq, Repr, Inhabited

/-- Ring indices of one ring pair and its Doorbell Page (R63, R66, R68, Table 2.3). -/
structure Ring where
  sqHead  : Nat := 0
  sqTail  : Nat := 0        -- last valid tail a sweep read has shown
  tailBad : Bool := false
  cqTail  : Nat := 0
  cqHead  : Nat := 0
  eqTail  : Nat := 0
  eqHead  : Nat := 0
  stamp   : Nat := 0        -- SWEEP_STAMP
  readAt  : Nat := 0        -- Datum Time of the sweep read that last showed new entries
  dirty   : Bool := false
  window  : Option Nat := none
  fetched : List Bytes := []
  swps    : Nat := 0        -- sweep reads outstanding
  asked   : Nat := 0        -- entry-fetch requests outstanding
  deriving DecidableEq, Repr, Inhabited

/-- A Host Port (R351 to R362, R463). -/
structure Port where
  ctrl       : Ctrl := {}
  cfg        : Rwe
  sweep      : Nat := 4
  sweepNew   : Option (Nat × Nat) := none  -- new units and the Datum Time they take effect
  graceMs    : Nat := 100
  asqLo      : Rwe := {}
  asqHi      : Rwe := {}
  acqLo      : Rwe := {}
  acqHi      : Rwe := {}
  adbLo      : Rwe := {}
  adbHi      : Rwe := {}
  adepth     : Rwe := {}
  link       : Nat := 0                    -- HPT_LINK.STATE
  width      : Nat := 0
  fast       : Bool := false
  incompat   : Bool := false
  good       : List Nat := []
  rtt        : Nat := 0
  lats       : List Nat := []              -- latest sweep read latencies, at most 16
  levelAt    : Nat := 0                    -- Datum Time of the last Level Run's start
  rttRetryAt : Option Nat := none
  rttAt      : Nat := 0                    -- Datum Time at which t_rt was last set
  sweepFails : Nat := 0
  drops      : Nat := 0                    -- HPT_INTAKE_DROPS
  posted     : Nat := 0                    -- HPT_POSTED_DROPS
  carried    : Option Nat := none          -- earliest stamp of a record written since the last flush read was issued
  flushing   : Option Nat := none          -- earliest stamp that the outstanding flush read covers (R104)
  aheld      : List Rec := []              -- Admin completions that wait for ring space
  down       : Option Down := none
  downDrops  : Nat := 0
  firstDrop  : Nat := 0
  lastDrop   : Nat := 0
  fns        : Tbl FnState := []           -- 0 the PF, v + 1 for VF v
  ring       : Ring := {}
  ide        : Tbl IdeStream := []
  tdiErr     : List Nat := []              -- VFs whose TDI is in ERROR (R396)
  ptm        : Ptm := {}
  spareLane  : Bool := true
  slots      : Tbl Slot := []
  out        : Bool := false
  deriving DecidableEq, Repr, Inhabited

/-- Tie link states (Table 10.12), numbered as TPT_STATE.STATE. -/
inductive TieSt where
  | down | levelRun | hello | auth | active | recovery | refused
  deriving DecidableEq, Repr, Inhabited

/-- A Tie Port (R369 to R373, R394, R464). -/
structure TiePort where
  ctrl      : Ctrl := {}
  st        : TieSt := .down
  good      : List Nat := []
  peerNode  : Nat := 0xFF
  peerEpoch : Nat := 0
  variant   : Nat := 0
  credits   : List Nat := [0, 0, 0, 0]
  owed      : List Nat := [0, 0, 0, 0]
  txSeq     : Nat := 0
  rxSeq     : Nat := 0
  queue     : List TieFrame := []          -- waiting for credits or for the link, oldest first
  replay    : List TieFrame := []          -- unacknowledged, oldest first
  lackAt    : Nat := 0
  naks      : Nat := 0
  tagFails  : Nat := 0
  retryAt   : Option Nat := none           -- DOWN retry or REFUSED retry
  session   : Bool := false
  keySeq    : Nat := 0                     -- LSEQ at the last key
  txKey     : Bytes := []                  -- link keys and IVs by direction (R370, R394)
  txIv      : Bytes := []
  rxKey     : Bytes := []
  rxIv      : Bytes := []
  parts     : Tbl (Nat × Nat × Bytes) := [] -- QUERY being reassembled: by source and REPLY_TAG its service, budget, bytes
  spareLane : Bool := true
  deriving DecidableEq, Repr, Inhabited

/-- A topology record (R426). -/
structure Topo where
  n0   : Nat
  n1   : Nat
  rseq : Nat
  deriving DecidableEq, Repr, Inhabited

/-- TPT common registers and discovery (R369, R377, R426, R427, R464). -/
structure Tpt where
  node     : Rwe := {}
  ackMs    : Nat := 10
  noRoute  : Nat := 0
  badFrame : Nat := 0
  lateAcks : Nat := 0
  ignored  : Nat := 0
  records  : Tbl Topo := []
  rseq     : Nat := 0
  routes   : Tbl Nat := []                 -- reachable node to the Tie Port its frames take
  lastRec  : Nat := 0
  deriving DecidableEq, Repr, Inhabited

/-! ### Plats -/

/-- PLT_STATE.STATE (R470). -/
inductive PlatSt where
  | unreleased | measuring | ready | out
  deriving DecidableEq, Repr, Inhabited

/-- Thermal states (R444). -/
inductive Therm where
  | normal | warm | hot
  deriving DecidableEq, Repr, Inhabited

/-- Thermal control of a Plat (R443 to R445). Temperatures are in quarters of a degree. -/
structure Thermal where
  st        : Therm := .normal
  hotExit   : Nat := 0
  hotEntry  : Nat := 0
  warmExit  : Nat := 0
  warmEntry : Nat := 0
  failed    : List Nat := []
  raw       : List Int := []
  temp      : Int := 0
  sensor    : Nat := 0
  ratio     : Nat := 64
  due       : Option (Nat × Nat) := none   -- new ratio and the Datum Time it takes effect
  deriving DecidableEq, Repr, Inhabited

/-- A Fault Tracker entry (R431): its number among the 512, and its stamps, newest first, at most 14. -/
structure Track where
  slot   : Nat
  res    : Resource
  stamps : List Nat
  deriving DecidableEq, Repr, Inhabited

/-- A repair declared on a Plat (R432 to R434). -/
structure Repair where
  res  : Resource
  at_  : Nat
  stn  : Option Nat := none                -- logical Station of a planned substitution
  deriving DecidableEq, Repr, Inhabited

/-- Tiers, coded as Table 2.7 (R36). -/
inductive Tier where
  | near | main | archive
  deriving DecidableEq, Repr, Inhabited

/-- A move of an object on a Plat's move engine (R328), with the units already copied. -/
structure Move where
  obj   : Nat                              -- key in State.objs
  dest  : Tier
  total : Nat                              -- units to copy
  done  : Nat := 0
  deriving DecidableEq, Repr, Inhabited

/-- A Plat (R22, R23, R419, R429 to R435, R470). -/
structure Plat where
  st        : PlatSt := .unreleased
  cause     : Nat := 0
  hold      : Bool := false
  switching : Bool := false
  checked   : Bool := false                -- activation self-check passed
  measured  : Bool := false                -- measurement passed, activation self-check to come (R408)
  releasedAt : Nat := 0
  unproven  : Bool := false                -- its key proof has failed (R387)
  epoch     : Nat := 0
  imageId   : Nat := 0
  map       : List (Option Nat) := (List.range 88).map some
  spares    : List Nat := [88, 89, 90, 91, 92, 93, 94, 95]
  owner     : Tbl Nat := []                -- logical Station to owning context
  zeroing   : List Nat := []               -- logical Stations being zeroed
  fmRows    : List (Nat × Nat) := []       -- (physical Station, bank) whose spare row is used
  psRows    : List Nat := []
  lanes     : Nat := 8                     -- free spare DRAM lanes
  mainSpare : Nat := 256
  retired   : Nat := 0
  scrubs    : Nat := 0
  thermal   : Thermal := {}
  tracker   : List Track := []
  repairs   : List Repair := []
  ringDown  : Bool := false                -- link p to p + 1 has failed
  sparesLow : Bool := false
  moves     : List Move := []
  flags     : Tbl Nat := []                -- logical Station to its Hand-off Flags, bit f FULL
  issued    : Nat := 0                     -- issue cycles of its paced engines up to `issuedAt`, in 64ths (R49, R83)
  issuedAt  : Nat := 0
  deriving DecidableEq, Repr, Inhabited

/-! ### Cadastre -/

/-- What a NAND block holds (R336, R345 to R348). -/
inductive BlkSt where
  | free | data | journal | checkpoint | staging | erasing | suspended | retiring | retired
  deriving DecidableEq, Repr, Inhabited

/-- A NAND block (R345, R347). -/
structure Blk where
  st     : BlkSt := .free
  erases : Nat := 0
  reads  : Nat := 0
  used   : Nat := 0                        -- pages programmed since the erase
  deriving DecidableEq, Repr, Inhabited

/-- A programmed physical page with its metadata (Table 9.9). Its key in `Cad.pages` is block * 1024 + page. -/
structure PhysPage where
  lpn       : Nat                          -- 0xFFFF_FFFF for a pad page
  key       : Nat
  relocated : Bool
  seq       : Nat
  group     : Nat
  data      : Mem
  torn      : Bool := false                -- its word line was programming at a loss: it fails LDPC (R349)
  deriving DecidableEq, Repr, Inhabited

/-- A map checkpoint (R342, R343): the map, the first sequence number that it does not cover, its first page, its blocks. -/
structure Ckpt where
  map    : Tbl Nat
  seq    : Nat
  place  : Nat
  blocks : List Nat
  deriving DecidableEq, Repr, Inhabited

/-- A journal record (Table 9.10). -/
structure JRec where
  type : Nat
  seq  : Nat
  a    : Nat := 0
  b    : Nat := 0
  c    : Nat := 0
  ok   : Bool := true
  deriving DecidableEq, Repr, Inhabited

/-- A page that a commit group writes. -/
structure GPage where
  lpn       : Nat
  key       : Nat
  relocated : Bool
  data      : Mem
  deriving DecidableEq, Repr, Inhabited

/-- What a manifest says of an image (Table 11.9). -/
structure Image where
  id       : Nat := 0
  parcels  : Nat := 1
  lastLen  : Nat := 1
  svn      : Nat := 0
  rolling  : Bool := false
  epoch    : Nat := 0
  settings : Nat := 0
  target   : Nat := 7
  formats  : List (Nat × Nat) := [(1, 1), (2, 1), (3, 1), (4, 1)]
  digest   : Bytes := []
  key      : Bytes := []                   -- what its WRAPPED_KEY holds: the staged copy is wrapped (Table 11.8)
  deriving DecidableEq, Repr, Inhabited

/-- What an update command writes in the Staging Area (R400 to R405): a manifest, keeping or clearing the progress bitmap; a
Parcel; the armed slot; the abandonment of the staged image. -/
inductive StageAct where
  | manifest (image : Image) (keep : Bool)
  | parcel (image index : Nat) (data : Bytes)
  | arm
  | abandon
  deriving DecidableEq, Repr, Inhabited

/-- What a commit group is for, and so what its becoming durable does (R327, R339, R341, R345, R400). A staging group whose
context has closed has no command to complete. -/
inductive GroupUse where
  | write (ctx tag flags obj : Nat) (partialLost : Bool) (off : Nat) (data : Bytes)
                                                            -- an OBJECT_WRITE at REST
  | writeBack (obj : Nat)                                   -- of a move down, or of an OBJECT_FLUSH
  | relocation (block : Nat)
  | trim (lpns : List Nat) (key : Nat)
  | staging (cmd : Option (Nat × Nat × Nat)) (act : StageAct)  -- context, TAG, FLAGS
  deriving DecidableEq, Repr, Inhabited

/-- A commit group that is not durable yet (R339, R340): its pages, and the physical pages programmed for the first of
them. -/
structure Group where
  id       : Nat
  pages    : List GPage
  ppns     : List Nat := []
  firstSeq : Nat := 0
  use      : GroupUse
  clears   : List Nat := []                -- lost marks that its durability clears
  took     : List Nat := []                -- dirty marks of its object that it has taken over
  deriving DecidableEq, Repr, Inhabited

/-- A persistent object (R335): its Holding's handle, its name, its length, its logical pages. -/
structure PObj where
  key    : Nat
  name   : Nat
  length : Nat
  lpns   : List Nat
  deriving DecidableEq, Repr, Inhabited

/-- A Plat's Cadastre (R336 to R349, R467). -/
structure Cad where
  st        : Nat := 0                     -- CAD_STATE: 0 not mounted, 1 mounting, 2 mounted
  mountMs   : Nat := 0
  unclean   : Bool := false
  discarded : Nat := 0
  reerased  : Nat := 0
  map       : Tbl Nat := []                -- logical page to physical page
  pages     : Tbl PhysPage := []
  persist   : List PObj := []
  lost      : List Nat := []
  blocks    : Tbl Blk := []
  journal   : List JRec := []              -- newest first
  seq       : Nat := 0
  group     : Nat := 0
  groups    : List Group := []             -- in GROUP order
  since     : Nat := 0                     -- pages committed since the last checkpoint
  commits   : Bool := false                -- a group has become durable since the last checkpoint
  ckptAt    : Nat := 0
  ckpts     : List Ckpt := []              -- newest first, the one before the newest kept
  jblocks   : List (Nat × Nat) := []       -- journal blocks with the number of their last record, newest first
  jused     : Nat := 0                     -- pages programmed in the newest of them
  ckptDue   : Bool := false                -- a checkpoint is being written
  open_     : Option Nat := none           -- data block being filled
  refresh   : List Nat := []               -- blocks whose refresh is scheduled
  wear      : Bool := false
  patrolled : Tbl Nat := []                -- block to the Datum Time of its last patrol read
  deriving DecidableEq, Repr, Inhabited

/-! ### Objects -/

/-- A grant of an object (R321): grantee context and its slot, rights bits read, write, claim. -/
structure ObjGrant where
  ctx    : Nat
  slot   : Nat
  rights : Nat
  deriving DecidableEq, Repr, Inhabited

/-- A claim on an object (R323, R330). -/
structure Claim where
  ctx    : Nat
  tier   : Tier
  byTime : Nat
  done   : Nat
  met    : Bool := false
  late   : Bool := false
  deriving DecidableEq, Repr, Inhabited

/-- A Placement Object (R309 to R331). Its key in `State.objs` is ctx * 2^32 + id. -/
structure Obj where
  ctx    : Nat
  id     : Nat
  length : Nat
  home   : Nat
  rest   : Tier
  site   : Option Nat                      -- Crew-relative Station, none for the Plat Store
  key    : Option Nat                      -- keying Holding, none for the owning context
  serial : Nat
  name   : Option Nat                      -- persistent name
  base   : Nat
  window : Option Nat                      -- Surveyor window address
  mem    : Mem := []                       -- Near or Main copy
  back   : Mem := []                       -- where REST is Main, its backing copy there (R326)
  lpns   : List Nat := []                  -- Archive logical pages, in order
  grants : List ObjGrant := []
  claims : List Claim := []
  present : Tier                           -- fastest complete copy
  dirty  : List Nat := []                  -- dirty backing units
  held   : List (Nat × Bytes) := []        -- writes held while their unit is copied
  cover  : Tbl (List (Nat × Nat)) := []    -- per lost page, ranges written above REST since the promotion
  locs   : Tbl Nat := []                   -- by 2^32 × tier + unit, the location that the device gave the unit (R311)
  still  : Option (List Nat) := none       -- a snapshot: `mem` holds every byte, and these pages read as lost
  deriving DecidableEq, Repr, Inhabited

/-- What Legs under way still name of an object that was destroyed or revoked: its key, and the object as it stood (R322). -/
structure Snap where
  key  : Nat
  obj  : Obj
  legs : List LegRef
  deriving DecidableEq, Repr, Inhabited

/-! ### Contexts and Traverses -/

/-- One Crew-relative index (R42, R44, R45). -/
structure CrewSlot where
  plat : Nat
  stn  : Option Nat                        -- logical Station, none when unmapped
  sub  : Bool := false                     -- runs on a substituted Station
  deriving DecidableEq, Repr, Inhabited

/-- A Stake grant received (R88): granting context, its Stake, rights. -/
structure StakeGrant where
  ctx    : Nat
  stake  : Nat
  wait   : Bool
  signal : Bool
  deriving DecidableEq, Repr, Inhabited

/-- A Mark not yet written (R104): its stamp and TAG, whether it raises the vector, its Leg if it is one. -/
structure MarkWait where
  stamp : Nat
  tag   : Nat
  irq   : Bool
  leg   : Option LegRef
  deriving DecidableEq, Repr, Inhabited

/-- A command under way (R74). -/
inductive Busy where
  | run (handle tag flags : Nat)           -- RUN_TRAVERSE until its start time
  | disarm (handle tag flags : Nat)
  | cancel (handle tag flags : Nat)
  | archive (tag flags : Nat)              -- until its commit group is durable
  | flush (obj tag flags : Nat)
  | quiesce (plats : List Nat) (tag flags : Nat)
  | parcel (index : Nat) (data : Bytes) (tag flags : Nat)  -- until the AES-GCM engine has done its last chunk
  | activate (tag flags : Nat)             -- until the Update Reset ends
  | fieldLock (tag flags : Nat)            -- until the burn ends
  deriving DecidableEq, Repr, Inhabited

/-- TDI states (R395, R396). -/
inductive Tdi where
  | unlocked | locked | run | error
  deriving DecidableEq, Repr, Inhabited

/-- Moderation of a ring (R70, R465) and what it has not yet announced: the entries since the last message, and the
Datum Time at which the oldest of them has waited its time threshold. -/
structure Mod where
  count  : Nat := 1
  timeUs : Nat := 0
  since  : Nat := 0
  due    : Option Nat := none
  deriving DecidableEq, Repr, Inhabited

/-- What a context's ego filter remembers beside its Filter State object (R221 to R240): Table 6.5 gives it no place. -/
structure Ego where
  obj     : Option Nat := none             -- Filter State Object ID
  prev    : List Int := []                 -- channels of the last entry integrated (R223)
  init    : Int := 0                       -- the INIT's ToV (R235), in units of 2^-32 ns
  limited : Nat := 0                       -- LIMITED, bit 3 e + c for component c of Collimation entry e (R233)
  reason  : Nat := 0                       -- of the failure that STATE 2 records (R231)
  stall   : Bool := false                  -- INERTIAL_STALLED has been written for this stall
  skip    : Bool := false                  -- a Fix has not been written since the last written one (R238)
  vis     : Bool := false                  -- a vision observation since the last Fix with VISION_CORRECTED
  deriving DecidableEq, Repr, Inhabited

/-- A live slot of a Track Table (R243, R244); numbers are FP64 patterns. -/
structure TrackSlot where
  id     : Nat
  conf   : Bool := false
  win    : List Bool                       -- the latest steps, newest first, at most CONFIRM_N
  misses : Nat := 0
  cls    : Nat
  det    : Option (Nat × Nat) := none      -- detection associated in the last Leg, and FP32 d²
  x      : List Nat
  p      : List (List Nat)
  deriving DecidableEq, Repr, Inhabited

/-- The contents of a Track Table as of its last commit, whose layout R243 leaves open (log 13): `gen` is the number that the
commit wrote at the base of the live half. Its key in `State.tracks` is that of its object. -/
structure TrackTab where
  gen   : Nat := 0
  tov   : Int := 0
  next  : Nat := 1
  slots : Tbl TrackSlot := []
  deriving DecidableEq, Repr, Inhabited

/-- An open context (R53 to R108). -/
structure Ctx where
  port     : Nat
  vf       : Nat
  surveyor : Bool
  sqBase   : Nat
  cqBase   : Nat
  eqBase   : Nat
  dbBase   : Nat
  sqLog    : Nat
  cqLog    : Nat
  eqLog    : Nat
  cqVec    : Nat
  eqVec    : Nat
  crew     : List CrewSlot
  stakes   : List Nat
  grants   : Tbl StakeGrant := []
  ring     : Ring := {}
  held     : List CqRec := []              -- completions waiting for ring space, oldest first
  evLost   : Nat := 0
  lostAll  : Nat := 0
  evseq    : Nat := 0
  cqMod    : Mod := {}
  eqMod    : Mod := {}
  ignored  : Nat := 0
  marks    : List MarkWait := []           -- oldest first
  queue    : List Rec := []                -- records on their way to the rings, in the order in which R105 writes them
  busy     : Option Busy := none
  tdi      : Tdi := .unlocked
  stream   : Option Nat := none            -- bound selective IDE stream
  session  : Nat := 0                      -- SPDM session that locked the TDI
  keyGen   : Nat := 0                      -- identifier of its keys
  keys     : Bytes := []                   -- Main, then Archive key (R332)
  serials  : Nat := 0
  ego      : Ego := {}
  deriving DecidableEq, Repr, Inhabited

/-- A wait entry (Table 2.14). -/
structure WaitEnt where
  ref    : Nat
  mode   : Nat
  thresh : Nat
  deriving DecidableEq, Repr, Inhabited

/-- A signal entry (Table 2.14). -/
structure SigEnt where
  ref  : Nat
  when_ : Nat
  add  : Nat
  deriving DecidableEq, Repr, Inhabited

/-- An operand entry (Table 2.13). -/
structure OpEnt where
  obj  : Nat
  off  : Nat
  attr : Nat
  deriving DecidableEq, Repr, Inhabited

/-- A Leg of an image (Table 2.13). -/
structure Leg where
  kind   : Nat
  lflags : Nat
  stn    : Nat
  cycles : Nat
  subop  : Nat
  desc   : Nat
  waits  : List WaitEnt
  sigs   : List SigEnt
  ops    : List OpEnt
  deriving DecidableEq, Repr, Inhabited

/-- Per-Leg states (Table 2.16). -/
inductive LegSt where
  | uninst
  | waiting
  | ready (since : Nat)
  | running
  | aborting
  | done (status : Nat)
  deriving DecidableEq, Repr, Inhabited

/-- A Leg of one run or period: its state, WARN bits, the bases of its waits, and what its dispatch fixed. -/
structure LegRun where
  st    : LegSt := .uninst
  warn  : Nat := 0
  bases : List Nat := []
  at_   : Nat := 0                         -- Datum Time of the dispatch
  pace  : Nat := 64                        -- effective numerator at dispatch (R268, R290)
  from_ : Nat := 0                         -- Datum Time at which its engine started it last (R434)
  iss   : Nat := 0                         -- its Plat's issue count then (R83)
  tcut  : Option Nat := none               -- SEARCH and FAN_OUT cut-off
  cut   : Option (List Nat) := none        -- Tracts that had joined at the cut-off
  taken : List Bytes := []                 -- bands that a running consumer has taken from its flag ring (R174)
  sent  : List (Nat × Nat) := []           -- bands that each of a producer's Steps, by Steps after it, has put in its ring
  quota : Nat := 0                         -- entries queued when a TAKE started
  lost  : Bool := false                    -- the group of a TAKE was lost when it started
  intr  : Bool := false                    -- stopped by a substitution, to be rerun
  deriving DecidableEq, Repr, Inhabited

/-- The Legs of one run or period (R89, R92). -/
structure Run where
  k     : Nat := 0
  began : Nat := 0
  legs  : List LegRun
  deriving DecidableEq, Repr, Inhabited

/-- Boundary actions under way (R94, R97): the ending Legs and the Datum Time of the summary. -/
structure Ending where
  run     : Run
  at_     : Nat                            -- the boundary b
  stop    : Bool                           -- the Traverse goes to RESIDENT after the summary
  deriving DecidableEq, Repr, Inhabited

/-- Traverse states (Table 2.15). -/
inductive TravSt where
  | resident | running | armed | periodic
  deriving DecidableEq, Repr, Inhabited

/-- A local Stake (R87). -/
structure Local where
  value : Nat
  init  : Nat
  home  : Nat
  deriving DecidableEq, Repr, Inhabited

/-- A resident Traverse (R80 to R100). Its key in `State.travs` is ctx * 64 + handle. -/
structure Trav where
  ctx      : Nat
  handle   : Nat
  legs     : List Leg
  locals   : List Local
  st       : TravSt := .resident
  tag      : Nat := 0
  flags    : Nat := 0
  start    : Nat := 0
  deadline : Nat := 0
  b0       : Nat := 0
  period   : Nat := 0
  count    : Nat := 0
  next     : Nat := 0                      -- number of the next period to begin
  bases    : List (List Nat) := []         -- per Leg, per wait
  run      : Option Run := none
  ending   : List Ending := []             -- oldest first
  disarm   : Bool := false                 -- a DISARM is pending
  skipped  : Nat := 0
  firstSkip : Nat := 0
  deriving DecidableEq, Repr, Inhabited

/-! ### Chain Units, cameras -/

/-- A comparator and its state (Table 3.8, R145). -/
structure Comp where
  level  : Int
  hyst   : Nat
  dwell  : Nat
  action : Nat
  high   : Bool := false
  count  : Nat := 0
  deriving DecidableEq, Repr, Inhabited

/-- An accepted Sample Block waiting to be processed (R125, R137). ToVs are in units of 2^-32 ns. -/
structure Block where
  tov      : Int
  interval : Nat
  frames   : List (List Int)
  restart  : Bool
  ext      : Option (Int × Int)            -- the format's extreme codes (R152)
  deriving DecidableEq, Repr, Inhabited

/-- The rail detector of one channel (R152). -/
structure Rail where
  last : Int := 0
  run  : Nat := 0
  from_ : Int := 0
  deriving DecidableEq, Repr, Inhabited

/-- The registers of one channel: integrators, comb delays and CIC outputs kept for the resampler. -/
structure Chan where
  integ : List (BitVec 96)
  comb  : List (List (BitVec 96))
  hist  : List Int := []                   -- newest first
  rail  : Rail := {}
  comps : List Comp
  deriving DecidableEq, Repr, Inhabited

/-- A queued output entry (Table 3.6). -/
structure Entry where
  tov    : Int
  comp   : Nat
  flags  : Nat
  seq    : Nat
  values : List Int
  deriving DecidableEq, Repr, Inhabited

/-- State of a Chain Group (Table 3.7 STATE). -/
inductive ChainSt where
  | running | suspect | lost | stopped
  deriving DecidableEq, Repr, Inhabited

/-- A Chain Group (R126 to R154). Its key in `State.groups` is ctx * 4096 + handle. -/
structure Chain where
  ctx     : Nat
  handle  : Nat
  stn     : Nat
  first   : Nat
  nch     : Nat
  desc    : Nat
  stream  : Nat
  port    : Nat
  slot    : Nat
  sync    : Nat
  order   : Nat
  diff    : Nat
  factor  : Nat
  shift   : Nat
  resample : Bool
  ratio   : Nat
  coeff   : List (List Int)                -- 128 phases of 24 taps
  queueObj : Nat
  qdepth  : Nat
  arrive  : Nat
  emit    : Nat
  compStake : Nat
  starve  : Nat
  railK   : Nat
  tol     : Nat
  st      : ChainSt := .stopped
  blocks  : List Block := []
  lastSeq : Option Nat := none
  predict : Option Int := none
  interval : Nat := 0                      -- INTERVAL of the last accepted block
  starveAt : Option Nat := none
  blockNs : Nat := 0                       -- one block period, in 2^-32 ns
  chans   : List Chan := []
  index   : Nat := 0                       -- input samples since the restart
  outs    : Nat := 0                       -- CIC outputs since the restart
  tovs    : List (Int × Nat × Bool) := []  -- ToV, INTERVAL and clamp of the CIC outputs kept, newest first
  rpos    : Nat := 0                       -- resampler position, 64.32
  queue   : List Entry := []               -- oldest first
  seq     : Nat := 0
  lostN   : Nat := 0
  disc    : Bool := false                  -- a restart whose first entry is not queued yet
  full    : Bool := false                  -- entries discarded since the last queued one (R142)
  good    : Int := 0
  recovering : Bool := false
  again   : Bool := false                  -- the next accepted block restarts (R128, R129)
  suspect : Bool := false                  -- its STREAM_SUSPECT has not been cleared (R152)
  late    : Bool := false                  -- a late clear: restart at the next input sample (R150)
  clears  : List Int := []                 -- clear times waiting for a sample (R147), in units of 2^-32 ns
  syncDue : List Nat := []                 -- clear times of SYNC_IN edges not yet applied (R148)
  maxTov  : Option Int := none             -- latest ToV of an input sample processed
  susp    : List (Int × Int) := []         -- ended runs that reached K, as spans of input index
  railCh  : Nat := 0                       -- channel whose run at K ended last (Table 3.10)
  deriving DecidableEq, Repr, Inhabited

/-- An accepted frame in a Frame Buffer (R161); `index` counts from the bind. -/
structure Frame where
  index    : Nat
  seq      : Nat
  tov      : Int                           -- in units of 2^-32 ns
  buffer   : Nat
  record   : Bytes
  stats    : Bytes
  deriving DecidableEq, Repr, Inhabited

/-- A binding of a view by a run or period of a Traverse (R164): the Traverse and its run's number and start, and the
frame, or the two frames of a pair, by acceptance index. -/
structure ViewBind where
  handle : Nat
  k      : Nat
  began  : Nat
  left   : Nat
  right  : Nat := 0
  number : Nat := 0
  deriving DecidableEq, Repr, Inhabited

/-- Fill buffer of a frame window (R158). -/
inductive Fill where
  | none
  | wait (held : List (Nat × Bytes))       -- no buffer was free at the first write, and its nanosecond is not over
  | sink
  | buffer (i : Nat)
  deriving DecidableEq, Repr, Inhabited

/-- An Exposure Recommendation (Table 4.7). -/
structure ExpRec where
  id       : Nat
  basisId  : Nat
  basisSeq : Nat
  expect   : Nat
  exposure : Nat
  gain     : Nat
  rflags   : Nat
  deriving DecidableEq, Repr, Inhabited

/-- A camera (R156 to R173). Its key in `State.cams` is ctx * 256 + handle. -/
structure Cam where
  ctx     : Nat
  handle  : Nat
  window  : Nat
  port    : Nat
  camera  : Nat
  desc    : Bytes                          -- the Camera Descriptor as read at bind
  mode    : Nat
  view    : Nat
  buffers : List Nat
  running : Bool := false
  fill    : Fill := .none
  page    : Mem := []                      -- first 128 bytes of the record page as written
  split   : Bool := false                  -- record bytes arrived in more than one write
  staged  : List (Bytes × Bool × Fill) := [] -- committed frames in their check pass: record, one aligned write, buffer
  frames  : List Frame := []               -- oldest first
  lastSeq : Option Nat := none
  accepted : Nat := 0                      -- frames accepted since the bind
  base    : Nat := 0                       -- of which before the last FRAME_START
  superseded : Nat := 0
  unpaired : Nat := 0
  discarded : Nat := 0
  paired  : Option Nat := none             -- pair handle
  binds   : List ViewBind := []
  owner   : Option Nat := none             -- Traverse of a sequential view
  loop    : Bool := false
  lag     : Nat := 2
  recs    : List ExpRec := []              -- newest first, at most 16
  lateFor : Option Nat := none             -- ID for which EXPOSURE_LATE was written
  due     : Option ExpRec := none          -- computed, to be issued
  staleDue : Bool := false
  deriving DecidableEq, Repr, Inhabited

/-- A pair (R166). Its key in `State.pairs` is ctx * 128 + handle. -/
structure Pair where
  ctx    : Nat
  handle : Nat
  left   : Nat
  right  : Nat
  tol    : Nat
  view   : Nat
  stake  : Nat
  mode   : Nat
  lq     : List Nat := []                  -- unpaired frames of the left camera, by index
  rq     : List Nat := []
  pairs  : List (Nat × Nat × Nat) := []    -- number, left index, right index; oldest first
  formed : Nat := 0
  superseded : Nat := 0
  unpaired : Nat := 0
  lbase  : Nat := 0                        -- frames of each camera discarded before the bind
  rbase  : Nat := 0
  binds  : List ViewBind := []
  owner  : Option Nat := none
  deriving DecidableEq, Repr, Inhabited

/-! ### Search services, landings, outlets -/

/-- A bound search service (R301). -/
structure Service where
  ctx   : Nat
  inbox : Nat
  depth : Nat
  stake : Nat
  index : Nat
  qcap  : Nat
  trav  : Option Nat := none               -- the one Traverse that names the Inbox (R304)
  deriving DecidableEq, Repr, Inhabited

/-- A running FAN_OUT (R302): the slots still missing, with the node each is expected from. -/
structure Fan where
  leg     : LegRef
  obj     : Nat
  off     : Nat
  slotLen : Nat
  nodes   : List (Nat × Nat)               -- slot, node
  missing : List Nat
  part    : Bool := false                  -- a received list carries PARTIAL
  id      : Nat := 0                       -- bits [31:8] of its REPLY_TAGs
  listLen : Nat := 0                       -- bytes of a result list
  query   : Nat := 0                       -- bytes of its query records
  parts   : Tbl Bytes := []                -- by slot, a reply being reassembled
  deriving DecidableEq, Repr, Inhabited

/-- A landing (R374) and the transfers arriving at it (R376). -/
structure Landing where
  ctx    : Nat
  obj    : Nat
  arrive : Nat
  deriving DecidableEq, Repr, Inhabited

/-- A bulk transfer being received (R376). -/
structure Xfer where
  src     : Nat
  landing : Nat
  tag     : Nat
  bytes   : Nat
  fail    : Nat                            -- 0 or a reason of Table 10.14
  first   : Nat
  ranges  : List (Nat × Nat) := []         -- written so far: offset and length
  deriving DecidableEq, Repr, Inhabited

/-- A transfer sent and not acknowledged (R375, R377). -/
structure Sent where
  tag     : Nat
  ctx     : Nat
  handle : Nat
  leg    : Nat
  period : Nat
  limit  : Nat                             -- Datum Time of its ACK_TIMEOUT
  deriving DecidableEq, Repr, Inhabited

/-- A transfer whose outlet has been unbound: the outlet's key, node and landing. -/
structure Loose where
  outlet  : Nat
  node    : Nat
  landing : Nat
  sent    : Sent
  deriving DecidableEq, Repr, Inhabited

/-- A Leg completion that waits for an acknowledgement of a full outlet (R375), with the ranges it wrote, each with the key
of its outlet. -/
structure OutWait where
  leg    : LegRef
  status : Nat
  warn   : Nat
  cond   : Bool
  tier   : Nat
  data   : List (Nat × Nat × Bytes)
  deriving DecidableEq, Repr, Inhabited

/-- An outlet (R374, R375). Its key in `State.outlets` is ctx * 64 + handle. -/
structure Outlet where
  ctx     : Nat
  obj     : Nat
  node    : Nat
  landing : Nat
  offset  : Nat
  tag     : Nat := 0
  unacked : List Sent := []
  waiting : List OutWait := []
  deriving DecidableEq, Repr, Inhabited

/-! ### Monument -/

/-- Update states (Table 11.11), numbered as MON_STATE.UPDATE. -/
inductive Upd where
  | empty | receiving | complete | armed | activating
  deriving DecidableEq, Repr, Inhabited

/-- An SPDM session (R392). -/
structure Session where
  id       : Nat
  resp     : Responder
  version  : Nat := 0x12
  keys     : Bytes := []                   -- its data keys, requests first (R389)
  finished : Bool := false
  deriving DecidableEq, Repr, Inhabited

/-- A Holding (R334, R390). -/
structure Holding where
  name  : Nat
  mac   : Bytes
  wrapped : Bytes := []                    -- Main and Archive keys under the Storage Root Key
  keys  : Option Bytes := none             -- the same, unwrapped while the Holding is attached
  fails : Nat := 0
  ctx   : Option Nat := none
  deriving DecidableEq, Repr, Inhabited

/-- What a shared engine saves of a message (R101): of a hash, the hash value and the transcript position; of an AES-GCM message, its key
and nonce, the bytes of additional data, the authentication state, and the counter's position. -/
inductive EngWork where
  | hash (value : List (BitVec 64)) (position : Nat)
  | gcm (key nonce : Bytes) (aad y position : Nat)
  deriving DecidableEq, Repr, Inhabited

/-- A request at a package-shared engine (R101, R102). -/
structure EngReq where
  ctx   : Nat
  todo  : Bytes                            -- not yet processed
  work  : EngWork
  since : Nat                              -- last chunk, or arrival
  deriving DecidableEq, Repr, Inhabited

/-- A shared engine: the context in its current chunk and the requests waiting. -/
structure SharedEng where
  cur  : Option EngReq := none
  wait : List EngReq := []
  deriving DecidableEq, Repr, Inhabited

/-- An Update Reset under way (R409): the Plat it has reached, and the Datum Time of that Plat's hold. -/
structure Activation where
  plat : Nat
  held : Nat
  deriving DecidableEq, Repr, Inhabited

/-- An operation of the public-key engine (Table 11.5). -/
inductive PkOp where
  | sign | verify | agree | verifyPq | decapsulate
  deriving DecidableEq, Repr, Inhabited

/-- State of the DRBG, CTR_DRBG with AES-256 (R388). -/
structure Drbg where
  key   : Bytes := []
  v     : Bytes := []
  count : Nat := 0
  deriving DecidableEq, Repr, Inhabited

/-- The key store, which the Monument's processor alone reaches, and the engine key slots that it has had loaded (R385, R387, R388, Table
11.1). The keys of contexts, Holdings, sessions and streams stand with those. -/
structure Keys where
  deviceId  : Bytes := []                  -- public key
  chain     : Bytes := []                  -- certificate slot 0
  updateEc  : Bytes := []
  updateKem : Bytes := []
  boot      : Bytes := []
  storage   : Bytes := []
  cdi       : Bytes := []
  alias_    : Bytes := []
  reserve   : Bytes := []
  image     : Option Bytes := none
  channels  : Tbl Bytes := []              -- with the standby Monument of each other Plat released
  slots     : Tbl (Tbl Bytes) := []        -- per Plat, by owner: context c, 64 + Holding, 320 device reserve
  deriving DecidableEq, Repr, Inhabited

/-- The Monument (R385 to R416, R469). -/
structure Mon where
  running    : Bool := false
  image      : Image := {}
  slotA      : Option Image := some {}
  slotB      : Option Image := none
  activeB    : Bool := false               -- the active Boot Slot is B
  armed      : Bool := false               -- the other slot is armed
  upd        : Upd := .empty
  staged     : Option Image := none
  parcels    : Tbl Bytes := []             -- Parcels held, by index
  udsLocked  : Bool := false
  keys       : Keys := {}
  drbg       : Drbg := {}
  pk         : List PkOp := []             -- at the public-key engine, the first at work; of the rest 63 queue, the others wait with their callers
  pkEnd      : Nat := 0                    -- end of the first
  sessions   : List Session := []
  nextSess   : Nat := 1
  holdings   : Tbl Holding := []
  gcm        : SharedEng := {}
  hash       : SharedEng := {}
  burn       : Bool := false               -- the Field Lock burn is under way
  fuseTo     : Option Nat := none
  lastBurn   : Option Nat := none
  activation : Option Activation := none
  blobFormat : Nat := 0                    -- Settings Format of the blob
  keyCount   : Nat := 0                    -- keys the DRBG has made
  deriving DecidableEq, Repr, Inhabited

/-! ### The whole -/

/-- The package. -/
structure State where
  pending  : List Instr := []
  part     : Part := {}
  fuses    : Fuses := {}
  sup      : Supply := {}
  glb      : Glb := {}
  settings : Tbl Setting := []
  shadows  : List (Path × Nat × Nat) := []
  svcHeld  : Option Nat := none            -- service-port read completed after a stall and not delivered (R380)
  svcStall : Option (Option Nat × Nat) := none -- service-port access that stalls: the offset of a read, and its end (R380)
  dtm      : Dtm := {}
  flt      : Flt := {}
  ports    : Tbl Port := []
  tpt      : Tpt := {}
  ties     : Tbl TiePort := []
  plats    : Tbl Plat := []
  cads     : Tbl Cad := []
  mon      : Mon := {}
  ctxs     : Tbl Ctx := []
  travs    : Tbl Trav := []
  objs     : Tbl Obj := []
  snaps    : List Snap := []               -- oldest first
  groups   : Tbl Chain := []
  cams     : Tbl Cam := []
  pairs    : Tbl Pair := []
  services : Tbl Service := []
  fans     : List Fan := []
  fanLegs  : Tbl LegRef := []              -- by bits [31:8] of a REPLY_TAG, the FAN_OUT that used them last
  fanSeq   : Nat := 0
  landings : Tbl Landing := []
  xfers    : List Xfer := []
  outlets  : Tbl Outlet := []
  loose    : List Loose := []              -- transfers of outlets unbound since, not acknowledged (R377)
  tracks   : Tbl TrackTab := []
  out      : List Out := []
  free     : Nat := 0
  deriving DecidableEq, Repr, Inhabited

/-- The one reason a step can stop with a fault. -/
inductive Fault where
  /-- Raised by the clock tick alone, when Datum Time would pass 2^64 - 1, which R109 says never happens. Safe. -/
  | datumTimeEnd
  deriving DecidableEq, Repr

/-- The reasons a command can be refused. -/
inductive Refusal where
  /-- Raised by an arm of `exec` whose command has no meaning yet. Safe. -/
  | notModelled (mnemonic : String)
  deriving DecidableEq, Repr

/-- The package right after reset: supplies up, RESET_N released, Datum Time not yet started, nothing ready (R417,
R418, R421), every register at its Reset entry (Tables 13.5 to 13.25); what the spec leaves open is named in the
assumption log (logs 3, 4, 7, 8). -/
def State.reset : State := {}

end Sys2Proof.Machine
end

