-- ==== Sys2Proof/Machine/Entries.lean ====
section
/-!
DEFINITION. Ring entries as bytes (R8): where an entry lies and the phase of its pass (R63, R65), the completion, event,
port event and Doorbell Page layouts that the device writes (Tables 2.3, 2.7, 2.9, R78), and the submission entries it
reads, by the tables of their commands (Tables 2.4 to 2.6, 3.3, 4.4, 8.15, 9.4, 10.13, 11.7, R442).
The model's own: log 20 (DEDUCED).
-/
namespace Sys2Proof.Machine
open Sys2Proof

/-! ### Where an entry lies (R63, R65) -/

/-- Address of the entry of index `i` in a ring of `2 ^ log` entries of `size` bytes. -/
def entryAt (base log size i : Nat) : Nat := base + i % 2 ^ log * size

/-- The phase bit that the entry of index `i` carries: 1 on the first pass through the ring, then alternating. -/
def phaseOf (log i : Nat) : Bool := i / 2 ^ log % 2 == 0

/-! ### What the device writes -/

/-- `n` bytes that hold a list of fields and are zero elsewhere. -/
def fldBytes (n : Nat) (l : List Fld) : Bytes := l.foldl (fun b f => overlay b f.1 (le f.2.1 f.2.2)) (List.replicate n 0)

/-- A phase bit in its byte. -/
def phaseByte (phase : Bool) : Bytes := le 1 (128 * b2n phase)

/-- A completion entry (Table 2.7). -/
def cqBytes (phase : Bool) (sqHead : Nat) (r : CqRec) : Bytes :=
  le 4 r.tag ++ le 2 r.status ++ le 1 r.kind ++ le 1 r.warn ++ le 8 r.stamp ++ le 4 sqHead ++ le 2 r.trav ++ le 2 r.leg ++
    le 4 r.period ++ le 1 r.tier ++ le 1 r.plat ++ le 1 r.aux ++ phaseByte phase

/-- An event entry (Table 2.9). -/
def evBytes (phase : Bool) (r : EvRec) : Bytes :=
  (fldBytes 63 ([(0, 2, r.type), (2, 2, r.status), (4, 4, r.evseq), (8, 8, r.stamp)] ++ r.payload)).take 63 ++ phaseByte phase

/-- A port event entry of KIND 5, whose bytes 0x16 to 0x1E are payload bytes 0x10 to 0x18 of the event (R78). -/
def portEventBytes (phase : Bool) (sqHead : Nat) (r : EvRec) : Bytes :=
  le 4 0 ++ le 2 r.status ++ le 1 5 ++ le 1 0 ++ le 8 r.stamp ++ le 4 sqHead ++ le 2 r.type ++
    ((evBytes phase r).drop 0x10).take 9 ++ phaseByte phase

/-- An entry of the Admin Completion Ring. -/
def adminBytes (phase : Bool) (sqHead : Nat) : Rec → Bytes
  | .cq r => cqBytes phase sqHead r
  | .ev r => portEventBytes phase sqHead r

/-- The device half of a Doorbell Page, offsets 0x040 to 0x057 (Table 2.3). -/
def doorbellBytes (r : Ring) : Bytes := le 4 r.sqHead ++ le 4 r.cqTail ++ le 4 r.eqTail ++ le 4 0 ++ le 8 r.stamp

/-! ### What the device reads: submission entries -/

/-- A field of a command's body: its offset and size in bytes, how many of its bits count (reserved ones above them are
ignored, R9), and the operand that it spells. -/
structure SqField where
  off  : Nat
  size : Nat
  keep : Nat
  val  : Nat
  deriving DecidableEq, Repr

/-- A whole field. -/
def whole (off size val : Nat) : SqField := ⟨off, size, 8 * size, val⟩

/-- A command as its submission entry spells it: the opcode (Table 2.5), the Traverse handle that the command names, 0xFFFF for
none (Table 2.7), and the fields of its body. -/
structure SqEntry where
  op     : Nat
  trav   : Nat := 0xFFFF
  fields : List SqField := []
  deriving DecidableEq, Repr

/-- The per-Plat counts of OPEN_CONTEXT (Table 2.6). -/
def countFields (l : List Nat) : List SqField := (List.range 8).map fun i => whole (0x30 + i) 1 (l.getD i 0)

/-- OBJECT_WRITE and OBJECT_READ (Table 9.4). -/
def dataFields (id offset address length : Nat) : List SqField :=
  [whole 0x08 4 id, whole 0x10 8 offset, whole 0x18 8 address, whole 0x20 4 length]

/-- The submission entry that spells a command; a row that no ring carries has none. Operands that the device reads from the
partner's memory, and verdicts of its checks, lie in no entry. -/
def entryOf : Instr → Option SqEntry
  | .openContext _ b => some { op := 0x80, fields := [whole 0x08 8 b.sqBase, whole 0x10 8 b.cqBase, whole 0x18 8 b.eqBase,
      whole 0x20 8 b.dbBase, whole 0x28 1 b.sqLog, whole 0x29 1 b.cqLog, whole 0x2A 1 b.eqLog,
      ⟨0x2B, 1, 2, b2n b.surveyor + 2 * b2n b.perPlat⟩, whole 0x2C 2 b.total, whole 0x2E 2 b.stakes, whole 0x38 2 b.cqVec,
      whole 0x3A 2 b.eqVec] ++ countFields b.counts }
  | .closeContext _ c => some { op := 0x81, fields := [whole 0x08 1 c] }
  | .queryContexts _ => some { op := 0x82 }
  | .loadTraverse _ length _ => some { op := 0x01, fields := [whole 0x10 4 length] }
  | .unloadTraverse _ n => some { op := 0x02, trav := n, fields := [whole 0x08 2 n] }
  | .runTraverse _ n start deadline =>
    some { op := 0x03, trav := n, fields := [whole 0x08 2 n, whole 0x10 8 start, whole 0x18 8 deadline] }
  | .armPeriodic _ n period b0 count =>
    some { op := 0x04, trav := n, fields := [whole 0x08 2 n, whole 0x0C 4 period, whole 0x10 8 b0, whole 0x18 4 count] }
  | .disarm _ n => some { op := 0x05, trav := n, fields := [whole 0x08 2 n] }
  | .cancel _ n => some { op := 0x06, trav := n, fields := [whole 0x08 2 n] }
  | .stakeSet _ ref v => some { op := 0x08, fields := [whole 0x08 2 ref, whole 0x0C 4 v] }
  | .stakeAdd _ ref v => some { op := 0x09, fields := [whole 0x08 2 ref, whole 0x0C 4 v] }
  | .stakeRead _ ref => some { op := 0x0A, fields := [whole 0x08 2 ref] }
  | .stakeGrant _ n c rights => some { op := 0x0B, fields := [whole 0x08 2 n, whole 0x0A 1 c, whole 0x0B 1 rights] }
  | .stakeRevoke _ n c => some { op := 0x0C, fields := [whole 0x08 2 n, whole 0x0A 1 c] }
  | .mark _ => some { op := 0x0D }
  | .objectCreate _ b => some { op := 0x20, fields := [whole 0x08 4 b.id,
      ⟨0x0C, 1, 3, b2n b.persist + 2 * b2n b.attach + 4 * b2n b.phys⟩, whole 0x0D 1 b.rest, whole 0x0E 1 b.home,
      whole 0x10 8 b.length, whole 0x18 8 b.window, whole 0x20 2 b.site, whole 0x22 2 b.holding, whole 0x24 4 b.name] }
  | .objectDestroy _ id => some { op := 0x21, fields := [whole 0x08 4 id] }
  | .objectWrite _ id off a n _ => some { op := 0x22, fields := dataFields id off a n }
  | .objectRead _ id off a n => some { op := 0x23, fields := dataFields id off a n }
  | .place _ id tier byTime done =>
    some { op := 0x24, fields := [whole 0x08 4 id, whole 0x0C 1 tier, whole 0x10 8 byTime, whole 0x18 2 done] }
  | .evict _ id => some { op := 0x25, fields := [whole 0x08 4 id] }
  | .objectFlush _ id => some { op := 0x26, fields := [whole 0x08 4 id] }
  | .objectGrant _ id c rights => some { op := 0x27, fields := [whole 0x08 4 id, whole 0x0C 1 c, whole 0x0D 1 rights] }
  | .objectRevoke _ id c => some { op := 0x28, fields := [whole 0x08 4 id, whole 0x0C 1 c] }
  | .objectQuery _ id => some { op := 0x29, fields := [whole 0x08 4 id] }
  | .holdingAttach _ name auth create =>
    some { op := 0x2A, fields := [whole 0x08 8 name, whole 0x10 4 auth, ⟨0x14, 1, 1, b2n create⟩] }
  | .holdingDetach _ n => some { op := 0x2B, fields := [whole 0x08 2 n] }
  | .cadastreQuiesce _ p => some { op := 0x2C, fields := [whole 0x08 1 p] }
  | .chainBind _ b => some { op := 0x30, fields := [whole 0x08 2 b.station, whole 0x0A 1 b.first, whole 0x0B 1 b.count,
      whole 0x0C 4 b.desc, whole 0x10 4 b.stream, whole 0x14 1 b.port, whole 0x15 1 b.sync] }
  | .chainStart _ g => some { op := 0x31, fields := [whole 0x08 2 g] }
  | .chainStop _ g => some { op := 0x32, fields := [whole 0x08 2 g] }
  | .chainUnbind _ g => some { op := 0x33, fields := [whole 0x08 2 g] }
  | .timedClear _ sync tc => some { op := 0x34, fields := [whole 0x08 1 sync, whole 0x10 8 tc] }
  | .timeMapRead _ p => some { op := 0x35, fields := [whole 0x08 1 p] }
  | .frameBind _ desc camera port mode =>
    some { op := 0x40, fields := [whole 0x08 4 desc, whole 0x0C 4 camera, whole 0x10 1 port, whole 0x11 1 mode] }
  | .frameStart _ n => some { op := 0x41, fields := [whole 0x08 2 n] }
  | .frameStop _ n => some { op := 0x42, fields := [whole 0x08 2 n] }
  | .frameUnbind _ n => some { op := 0x43, fields := [whole 0x08 2 n] }
  | .pairBind _ b => some { op := 0x44, fields := [whole 0x08 2 b.left, whole 0x0A 2 b.right, whole 0x0C 4 b.tol,
      whole 0x10 4 b.view, whole 0x14 2 b.pairs, whole 0x16 1 b.mode] }
  | .pairUnbind _ n => some { op := 0x45, fields := [whole 0x08 2 n] }
  | .exposureControl _ n on lag => some { op := 0x46, fields := [whole 0x08 2 n, whole 0x0A 1 on, whole 0x0B 1 lag] }
  | .spdmExchange _ capacity a request =>
    some { op := 0x50, fields := [whole 0x14 4 capacity, whole 0x18 8 a] ++ request.toList.map fun b => whole 0x10 4 b.length }
  | .updateBegin _ replace _ _ => some { op := 0x51, fields := [⟨0x10, 1, 1, b2n replace⟩] }
  | .updateParcel _ length a _ => some { op := 0x52, fields := [whole 0x08 8 a, whole 0x10 4 length] }
  | .updateStatus _ => some { op := 0x53 }
  | .updateArm _ image _ => some { op := 0x54, fields := [whole 0x08 8 image] }
  | .updateAbandon _ image => some { op := 0x55, fields := [whole 0x08 8 image] }
  | .updateActivate _ image => some { op := 0x56, fields := [whole 0x08 8 image] }
  | .fieldLock _ word => some { op := 0x57, fields := [whole 0x08 4 word] }
  | .serviceBind _ b => some { op := 0x60, fields := [whole 0x08 1 b.service, whole 0x0C 4 b.inbox, whole 0x10 2 b.depth,
      whole 0x12 2 b.stake, whole 0x14 4 b.index, whole 0x18 2 b.qcap] }
  | .serviceUnbind _ n => some { op := 0x61, fields := [whole 0x08 1 n] }
  | .landingBind _ n obj arrive => some { op := 0x62, fields := [whole 0x08 1 n, whole 0x0C 4 obj, whole 0x10 2 arrive] }
  | .landingUnbind _ n => some { op := 0x63, fields := [whole 0x08 1 n] }
  | .outletBind _ obj node landing off =>
    some { op := 0x64, fields := [whole 0x08 4 obj, whole 0x0C 1 node, whole 0x0D 1 landing, ⟨0x10, 8, 48, off⟩] }
  | .outletUnbind _ n => some { op := 0x65, fields := [whole 0x08 2 n] }
  | .faultLogTake _ a max => some { op := 0x70, fields := [whole 0x08 8 a, whole 0x10 4 max] }
  | _ => none

/-- The opcodes that an Admin Ring accepts, and those that a context's ring accepts (R54, Table 2.5). -/
def adminOps : List Nat := [0x80, 0x81, 0x82]

def ctxOps : List Nat :=
  [0x01, 0x02, 0x03, 0x04, 0x05, 0x06, 0x08, 0x09, 0x0A, 0x0B, 0x0C, 0x0D] ++ (List.range 13).map (0x20 + ·) ++
    (List.range 6).map (0x30 + ·) ++ (List.range 7).map (0x40 + ·) ++ (List.range 8).map (0x50 + ·) ++ (List.range 6).map (0x60 + ·) ++
    [0x70]

/-- A submission entry spells a command with its header's TAG and FLAGS (Table 2.4); an entry of an opcode that its ring does not
accept spells UNKNOWN_OPCODE. -/
def spells (e : Bytes) (i : Instr) (tag flags : Nat) : Bool :=
  fld e 1 1 == flags && fld e 4 4 == tag &&
  match i with
  | .unknownOpcode (.admin _) _ _ => !adminOps.contains (fld e 0 1)
  | .unknownOpcode (.context _) _ _ => !ctxOps.contains (fld e 0 1)
  | _ =>
    match entryOf i with
    | some q => fld e 0 1 == q.op && q.fields.all fun f => fld e f.off f.size % 2 ^ f.keep == f.val
    | none => false

/-- The command is the next in its ring: the oldest entry fetched and not executed spells it (R73, R74). -/
def fronts (r : Ring) (i : Instr) (tag flags : Nat) : Bool :=
  match r.fetched with
  | e :: _ => spells e i tag flags
  | [] => false

/-- The Traverse handle that a command names, 0xFFFF for none (Table 2.7). -/
def namedTrav (i : Instr) : Nat := ((entryOf i).map (·.trav)).getD 0xFFFF

end Sys2Proof.Machine
end

