-- ==== Sys2Proof/Machine/Tbl.lean ====
section
/-!
DEFINITION. Sparse tables and addressed bytes: look up, put, remove, change; read and write bytes in little-endian order
(R8). A table keeps its keys rising; bytes keep the canonical form of `Memory.wf`.
-/
namespace Sys2Proof.Machine
open Sys2Proof

/-- The entry of key `k`. -/
def tget {α : Type} : Tbl α → Nat → Option α
  | [], _ => none
  | (i, a) :: r, k => if i = k then some a else tget r k

/-- The entry of key `k`, or the value an unlisted key holds. -/
def tgetD {α : Type} (t : Tbl α) (k : Nat) (d : α) : α := (tget t k).getD d

/-- Put `a` at key `k`. -/
def tput {α : Type} : Tbl α → Nat → α → Tbl α
  | [], k, a => [(k, a)]
  | (i, b) :: r, k, a => if k < i then (k, a) :: (i, b) :: r else if i = k then (k, a) :: r else (i, b) :: tput r k a

/-- Remove key `k`. -/
def tdel {α : Type} : Tbl α → Nat → Tbl α
  | [], _ => []
  | (i, a) :: r, k => if i = k then tdel r k else (i, a) :: tdel r k

/-- Change the entry of key `k`, if there is one. -/
def tmod {α : Type} : Tbl α → Nat → (α → α) → Tbl α
  | [], _, _ => []
  | (i, a) :: r, k, f => (if i = k then (i, f a) else (i, a)) :: tmod r k f

/-- The entries whose key satisfies `p`. -/
def tsel {α : Type} (t : Tbl α) (p : Nat → Bool) : Tbl α := t.filter (fun e => p e.1)

/-- The lowest number below `n` that is not a key. -/
def lowestFree {α : Type} (t : Tbl α) (base n : Nat) : Option Nat :=
  (List.range n).find? (fun i => (tget t (base + i)).isNone)

/-- Canonical form of addressed bytes: addresses strictly rising, no entry equal to zero. -/
def Memory.wf : Mem → Bool
  | [] => true
  | [(_, b)] => b != 0
  | (a, b) :: (c, d) :: r => b != 0 && decide (a < c) && Memory.wf ((c, d) :: r)

/-- The byte at an address; an unlisted address reads zero (R311). -/
def rdByte (m : Mem) (a : Nat) : Byte := tgetD m a 0

/-- Write one byte; writing zero removes the entry. -/
def wrByte (m : Mem) (a : Nat) (b : Byte) : Mem := if b = 0 then tdel m a else tput m a b

/-- The `n` bytes from address `a`. -/
def rdBytes (m : Mem) (a n : Nat) : Bytes := (List.range n).map fun i => rdByte m (a + i)

/-- Write a byte string from address `a`. -/
def wrBytes : Mem → Nat → Bytes → Mem
  | m, _, [] => m
  | m, a, b :: r => wrBytes (wrByte m a b) (a + 1) r

/-- Make `n` bytes from address `a` read zero. -/
def zeroBytes (m : Mem) (a n : Nat) : Mem := m.filter fun c => !(decide (a ≤ c.1) && decide (c.1 < a + n))

/-- The canonical form of a byte string stored from address 0. -/
def memOf (b : Bytes) : Mem := wrBytes [] 0 b

/-- The unsigned little-endian field of `n` bytes at address `a`. -/
def rdNat : Mem → Nat → Nat → Nat
  | _, _, 0 => 0
  | m, a, n + 1 => (rdByte m a).toNat + 256 * rdNat m (a + 1) n

end Sys2Proof.Machine
end

