-- ==== Sys2Proof/Machine/Ops.lean ====
section
/-!
DEFINITION. The shared operations over the package: the figures of the variant, access to its parts, posted writes and
MSI-X messages, the records of the rings, events, and the Fault Log.
The model's own: log 9 (DESIGN CHOICE), log 10 (DESIGN CHOICE).
-/
namespace Sys2Proof.Machine
open Sys2Proof

/-! ### Lists -/

/-- Insert by a strict order, after the entries it does not precede. -/
def insBy {α : Type} (lt : α → α → Bool) (a : α) : List α → List α
  | [] => [a]
  | b :: r => if lt a b then a :: b :: r else b :: insBy lt a r

/-- Sort by a strict order; equal entries keep their order. -/
def sortBy {α : Type} (lt : α → α → Bool) (l : List α) : List α := l.foldl (fun r a => insBy lt a r) []

/-- Lexicographic order of number lists. -/
def lexLt : List Nat → List Nat → Bool
  | a :: r, b :: q => decide (a < b) || (a == b && lexLt r q)
  | [], _ :: _ => true
  | _, [] => false

/-- Set entry `i` of a list. -/
def setAt {α : Type} (l : List α) (i : Nat) (f : α → α) : List α := l.modify i f

/-- Number the entries of a list. -/
def enum {α : Type} (l : List α) : List (Nat × α) := (List.range l.length).zip l

/-! ### Status codes (Table 2.19) -/

abbrev DROPPED_LATE : Nat := 0x0100
abbrev ABORTED_BOUNDARY : Nat := 0x0101
abbrev DROPPED_FAULT : Nat := 0x0102
abbrev CONTEXT_FULL : Nat := 0x0200
abbrev RESOURCE_FULL : Nat := 0x0201
abbrev CONFIG_REFUSED : Nat := 0x0202
abbrev VERSION_REFUSED : Nat := 0x0203
abbrev NOT_READY : Nat := 0x0204
abbrev RANK_DEFICIENT : Nat := 0x0300
abbrev STREAM_LOST : Nat := 0x0301
abbrev INTEGRITY : Nat := 0x0302
abbrev ACCESS_DENIED : Nat := 0x0303
abbrev REMOTE_WRITE_FAILED : Nat := 0x0304
abbrev TERMINAL : Nat := 0x03FF

/-! ### Figures of the variant (Tables 1.1, 1.3, 1.4) -/

/-- Plats of the package (Table 0.3). -/
def nPlats (s : State) : Nat :=
  match s.part.variant with
  | .vlh2 => 2
  | .vlh4 => 4
  | .vlh8 => 8

/-- Host Ports of the package (Table 0.3). -/
def nHost (s : State) : Nat :=
  match s.part.variant with
  | .vlh2 => 2
  | .vlh4 => 3
  | .vlh8 => 4

/-- Tie Ports of the package (Table 0.3). -/
def nTie (s : State) : Nat :=
  match s.part.variant with
  | .vlh8 => 2
  | _ => 1

/-- Plat of Host Port `n` (Table 1.4). -/
def hostPlat (s : State) (n : Nat) : Nat :=
  match s.part.variant with
  | .vlh8 => 2 * n
  | _ => n

/-- Plat of Tie Port `t` (Table 1.4). -/
def tiePlat (s : State) (t : Nat) : Nat :=
  match s.part.variant with
  | .vlh2 => 1
  | .vlh4 => 3
  | .vlh8 => if t = 0 then 1 else 5

/-- Default of GLB_PPL, and the lowest and highest limit (R47). -/
def pplDefault (s : State) : Nat :=
  match s.part.variant with
  | .vlh2 => 170
  | .vlh4 => 320
  | .vlh8 => 600

def pplLow (s : State) : Nat :=
  match s.part.variant with
  | .vlh2 => 68
  | .vlh4 => 128
  | .vlh8 => 240

def pplHigh (s : State) : Nat :=
  match s.part.variant with
  | .vlh2 => 210
  | .vlh4 => 390
  | .vlh8 => 735

/-- The package is in the Terminal state (R414). -/
def terminal (s : State) : Bool := s.fuses.terminal

/-! ### Parts of the package -/

/-- A Host Port as reset leaves it: HPT_CFG is 0x15 on HP0 and 0x11 elsewhere (Table 13.13). -/
def portReset (p : Nat) : Port :=
  let v := if p = 0 then 0x15 else 0x11
  { cfg := ⟨v, v⟩ }

def portOf (s : State) (p : Nat) : Port := tgetD s.ports p (portReset p)

def setPort (s : State) (p : Nat) (x : Port) : State := { s with ports := tput s.ports p x }

def modPort (s : State) (p : Nat) (f : Port → Port) : State := setPort s p (f (portOf s p))

def fnKey : Fn → Nat
  | .pf => 0
  | .vf n => n + 1

def fnOf (s : State) (p : Nat) (f : Fn) : FnState := tgetD (portOf s p).fns (fnKey f) {}

def modFn (s : State) (p : Nat) (f : Fn) (g : FnState → FnState) : State :=
  modPort s p fun x => { x with fns := tput x.fns (fnKey f) (g (tgetD x.fns (fnKey f) {})) }

def tieOf (s : State) (t : Nat) : TiePort := tgetD s.ties t {}

def modTie (s : State) (t : Nat) (f : TiePort → TiePort) : State := { s with ties := tput s.ties t (f (tieOf s t)) }

def platOf (s : State) (p : Nat) : Plat := tgetD s.plats p {}

def modPlat (s : State) (p : Nat) (f : Plat → Plat) : State := { s with plats := tput s.plats p (f (platOf s p)) }

/-- A Cadastre before its first use. Plat 0 holds back the 16 blocks of its 256 MB Staging Area (Table 9.8, log 8). -/
def freshCad (p : Nat) : Cad :=
  if p = 0 then { blocks := (List.range 16).map fun b => (b, { st := .staging }) } else {}

def cadOf (s : State) (p : Nat) : Cad := tgetD s.cads p (freshCad p)

def modCad (s : State) (p : Nat) (f : Cad → Cad) : State := { s with cads := tput s.cads p (f (cadOf s p)) }

def ctxOf (s : State) (c : Nat) : Option Ctx := tget s.ctxs c

def modCtx (s : State) (c : Nat) (f : Ctx → Ctx) : State := { s with ctxs := tmod s.ctxs c f }

def travKey (c h : Nat) : Nat := c * 64 + h

def travOf (s : State) (c h : Nat) : Option Trav := tget s.travs (travKey c h)

def modTrav (s : State) (c h : Nat) (f : Trav → Trav) : State := { s with travs := tmod s.travs (travKey c h) f }

def objKey (c id : Nat) : Nat := c * 4294967296 + id

def objOf (s : State) (c id : Nat) : Option Obj := tget s.objs (objKey c id)

def modObj (s : State) (k : Nat) (f : Obj → Obj) : State := { s with objs := tmod s.objs k f }

def groupKey (c h : Nat) : Nat := c * 4096 + h

def modGroup (s : State) (k : Nat) (f : Chain → Chain) : State := { s with groups := tmod s.groups k f }

def camKey (c h : Nat) : Nat := c * 256 + h

def modCam (s : State) (k : Nat) (f : Cam → Cam) : State := { s with cams := tmod s.cams k f }

def pairKey (c h : Nat) : Nat := c * 128 + h

def modPair (s : State) (k : Nat) (f : Pair → Pair) : State := { s with pairs := tmod s.pairs k f }

def outletKey (c h : Nat) : Nat := c * 64 + h

def modOutlet (s : State) (k : Nat) (f : Outlet → Outlet) : State := { s with outlets := tmod s.outlets k f }

/-- A Plat is ready (R421), and not in the switch of an Update Reset (R409). -/
def ready (s : State) (p : Nat) : Bool := decide ((platOf s p).st = .ready) && !(platOf s p).switching

/-- A port's link is in L0 (R352). -/
def inL0 (s : State) (p : Nat) : Bool := (portOf s p).link == 3

/-- A port's link is up: in L0, or in Recovery, which loses nothing (R368). -/
def linkUp (s : State) (p : Nat) : Bool := decide (3 ≤ (portOf s p).link)

/-- A function is in D3hot; the PF's D3hot is every function's (Table 10.4). -/
def inD3 (s : State) (p : Nat) (f : Fn) : Bool := (fnOf s p .pf).d3 || (fnOf s p f).d3

/-! ### What goes out -/

/-- Put `o` out. -/
def emit (s : State) (o : Out) : State := { s with out := o :: s.out }

/-- A posted write of function `f` of port `p` is sent (R360). -/
def canPost (s : State) (p : Nat) (f : Fn) : Bool := linkUp s p && !inD3 s p f

/-- Count a discarded posted write: HPT_POSTED_DROPS, and, while the link is down, the span PORT_RESUMED gives (R360). -/
def dropPosted (s : State) (p : Nat) : State :=
  let t := s.sup.now
  modPort s p fun x =>
    let x := { x with posted := satAdd max32 x.posted 1 }
    match x.down with
    | none => x
    | some _ => { x with downDrops := satAdd max32 x.downDrops 1,
                         firstDrop := if x.downDrops = 0 then t else x.firstDrop, lastDrop := t }

/-- A posted write of function `f` of port `p`: sent, or discarded and counted (R360). -/
def post (s : State) (p : Nat) (f : Fn) (o : Out) : State :=
  if canPost s p f then emit s o else dropPosted s p

/-- The open context of a virtual function. -/
def vfCtx (s : State) (p v : Nat) : Option (Nat × Ctx) := s.ctxs.find? fun e => e.2.port == p && e.2.vf == v

/-- The TDI of a context is locked (R396). -/
def tdiHeld (x : Ctx) : Bool := decide (x.tdi = .locked) || decide (x.tdi = .run)

/-- The selective IDE stream on which a function's requests go: the bound one, while its TDI is locked (R396). -/
def streamOf (s : State) (p : Nat) : Fn → Option Nat
  | .pf => none
  | .vf v => (vfCtx s p v).bind fun e => if tdiHeld e.2 then e.2.stream else none

/-- Bytes that function `f` of port `p` writes to host memory: posted writes of at most the Max Payload Size that the partner has
programmed, none across a boundary of it (R361, Table 10.5). -/
def postData (s : State) (p : Nat) (f : Fn) (address : Nat) (d : Bytes) : State :=
  let n := (fnOf s p f).maxPayload
  (cut (d.length / n + 1) n address d).foldl (fun s w => post s p f (.hostWrite p w.1 w.2 (streamOf s p f))) s

/-- The requests that read `n` bytes of host memory: each of at most the Max Read Request Size that the partner has programmed (Table 10.2).
-/
def readRequests (s : State) (p : Nat) (f : Fn) (address n : Nat) : List (Nat × Nat) :=
  let m := (fnOf s p f).maxRead
  ((List.range (n / m + 2)).map fun i => if i = 0 then address else (address / m + i) * m).filterMap fun a =>
    if a < address + n then some (a, min (m - a % m) (address + n - a)) else none

/-- Read host memory for a command. -/
def askHost (s : State) (p : Nat) (f : Fn) (address n : Nat) : State :=
  (readRequests s p f address n).foldl (fun s e => emit s (.hostRead p e.1 e.2 (streamOf s p f))) s

/-- Raise MSI-X vector `v`: sent, or its Pending Bit set when the link is down, the function in D3hot or the vector
masked (R353, R360). -/
def raiseMsix (s : State) (p : Nat) (f : Fn) (v : Nat) : State :=
  if canPost s p f && (fnOf s p f).unmasked.contains v then emit s (.msix p f v)
  else modFn s p f fun x => { x with pend := if x.pend.contains v then x.pend else x.pend ++ [v] }

/-- Send the pending messages of a function whose vectors are unmasked, if it can send (R360). -/
def sendPending (s : State) (p : Nat) (f : Fn) : State :=
  if canPost s p f then
    let x := fnOf s p f
    let go := x.pend.filter x.unmasked.contains
    let s := modFn s p f fun y => { y with pend := y.pend.filter fun v => !y.unmasked.contains v }
    go.foldl (fun s v => emit s (.msix p f v)) s
  else s

/-- The functions of a port that hold state. -/
def portFns (s : State) (p : Nat) : List Fn :=
  (portOf s p).fns.map fun e => if e.1 = 0 then .pf else .vf (e.1 - 1)

/-- The port has carried a record stamped `t` since its last flush read was issued (R104). -/
def carry (s : State) (p t : Nat) : State :=
  modPort s p fun x => { x with carried := some (min t (x.carried.getD t)) }

/-! ### Rings (R63 to R72) -/

/-- `a - b` modulo 2^32 (R63). -/
def sub32 (a b : Nat) : Nat := (a + 4294967296 - b) % 4294967296

/-- Free entries of a Completion Ring, and of an Event Ring (R63). -/
def cqRoom (c : Ctx) : Nat := 2 ^ c.cqLog - sub32 c.ring.cqTail c.ring.cqHead

def eqRoom (c : Ctx) : Nat := 2 ^ c.eqLog - sub32 c.ring.eqTail c.ring.eqHead

/-- Whether an entry just written raises its ring's vector, and the moderation after it (R70). -/
def moderate (m : Mod) (now : Nat) (irq : Bool) : Bool × Mod :=
  if irq || decide (m.count ≤ m.since + 1) || m.timeUs == 0 then (true, { m with since := 0, due := none })
  else (false, { m with since := m.since + 1, due := some (m.due.getD (now + 1000 * m.timeUs)) })

/-- Write an entry at the tail of context `i`'s Completion Ring, which has room (R65, R70). -/
def putCq (s : State) (i : Nat) (r : CqRec) : State :=
  match ctxOf s i with
  | none => s
  | some c =>
    let go := moderate c.cqMod s.sup.now r.irq
    let s' := post s c.port (.vf c.vf) (.cq i (entryAt c.cqBase c.cqLog 32 c.ring.cqTail)
      (cqBytes (phaseOf c.cqLog c.ring.cqTail) c.ring.sqHead r) r)
    let s' := if canPost s c.port (.vf c.vf) then carry s' c.port r.stamp else s'
    let s' := modCtx s' i fun c =>
      { c with cqMod := go.2, ring := { c.ring with cqTail := wrap32 (c.ring.cqTail + 1), dirty := true } }
    if go.1 then raiseMsix s' c.port (.vf c.vf) c.cqVec else s'

/-- Write an entry at the tail of context `i`'s Event Ring, which has room (R65, R70). -/
def putEv (s : State) (i : Nat) (r : EvRec) : State :=
  match ctxOf s i with
  | none => s
  | some c =>
    let go := moderate c.eqMod s.sup.now false
    let s' := post s c.port (.vf c.vf) (.ev i (entryAt c.eqBase c.eqLog 64 c.ring.eqTail)
      (evBytes (phaseOf c.eqLog c.ring.eqTail) r) r)
    let s' := if canPost s c.port (.vf c.vf) then carry s' c.port r.stamp else s'
    let s' := modCtx s' i fun c =>
      { c with eqMod := go.2, ring := { c.ring with eqTail := wrap32 (c.ring.eqTail + 1), dirty := true } }
    if go.1 then raiseMsix s' c.port (.vf c.vf) c.eqVec else s'

/-- Write a completion, or hold it when the ring is full (R72). -/
def pushCq (s : State) (i : Nat) (r : CqRec) : State :=
  match ctxOf s i with
  | none => s
  | some c =>
    if c.held.isEmpty && decide (0 < cqRoom c) then putCq s i r
    else modCtx s i fun c => { c with held := c.held ++ [r] }

/-- Write an event, or count it when the ring is full (R72). -/
def pushEv (s : State) (i : Nat) (r : EvRec) : State :=
  match ctxOf s i with
  | none => s
  | some c =>
    if 0 < eqRoom c then putEv s i r
    else modCtx s i fun c => { c with evLost := satAdd max32 c.evLost 1, lostAll := satAdd max32 c.lostAll 1 }

def recStamp : Rec → Nat
  | .cq r => r.stamp
  | .ev r => r.stamp

/-- Write a record whose turn has come. -/
def pushRec (s : State) (i : Nat) : Rec → State
  | .cq r => pushCq s i r
  | .ev r => pushEv s i r

/-- A record of context `c` waits behind a Mark: it is stamped after the oldest one (R104). -/
def behindMark (c : Ctx) (r : Rec) : Bool :=
  match c.marks with
  | [] => false
  | m :: _ => decide (m.stamp < recStamp r)

/-- The place of a record among those of its ring (R105): by stamp; of equal stamps the completions of Legs first, in ascending Plat,
Traverse handle and Leg index, then summaries, command completions and events in the order in which they arose (log 22). -/
def recKey : Rec → List Nat
  | .cq r => if r.kind = 1 ∨ r.kind = 4 then [r.stamp, 0, r.plat, r.trav, r.leg] else [r.stamp, 1]
  | .ev r => [r.stamp, 1]

/-- A record of context `i` joins those on their way to its rings; `flushRecords` writes them once no record can precede them. -/
def record (s : State) (i : Nat) (r : Rec) : State :=
  modCtx s i fun c => { c with queue := insBy (fun a b => lexLt (recKey a) (recKey b)) r c.queue }

/-- The internal queue of held completions is full: the context's dispatch and commands stop (R72). -/
def stalled (c : Ctx) : Bool := decide (512 ≤ c.held.length)

/-! ### Events (R79) -/

/-- Write an event to context `i`; it counts in EVSEQ whether or not it can be written (R79). -/
def event (s : State) (i type status : Nat) (payload : List Fld) : State :=
  match ctxOf s i with
  | none => s
  | some c =>
    let r : EvRec := { type := type, status := status, evseq := c.evseq, stamp := s.sup.now, payload := payload }
    record (modCtx s i fun c => { c with evseq := wrap32 (c.evseq + 1) }) i (.ev r)

/-- Write an event to each context of a list. -/
def eventTo (s : State) (l : List Nat) (type status : Nat) (payload : List Fld) : State :=
  l.foldl (fun s i => event s i type status payload) s

/-- The open contexts, in ascending number. -/
def openCtxs (s : State) : List Nat := s.ctxs.map (·.1)

/-- The open Surveyor contexts. -/
def surveyors (s : State) : List Nat := (s.ctxs.filter fun e => e.2.surveyor).map (·.1)

/-- The open contexts bound to a port. -/
def ctxsOn (s : State) (p : Nat) : List Nat := (s.ctxs.filter fun e => e.2.port == p).map (·.1)

def eventAll (s : State) (type status : Nat) (payload : List Fld) : State :=
  eventTo s (openCtxs s) type status payload

/-! ### Admin Completion Ring (R54, R71, R78) -/

/-- Depth of the Admin Completion Ring as the log2 in force. -/
def acqLog (x : Port) : Nat := bits x.adepth.inForce 12 8

def asqLog (x : Port) : Nat := bits x.adepth.inForce 4 0

def acqBase (x : Port) : Nat := x.acqLo.inForce + 4294967296 * x.acqHi.inForce

def asqBase (x : Port) : Nat := x.asqLo.inForce + 4294967296 * x.asqHi.inForce

def adbBase (x : Port) : Nat := x.adbLo.inForce + 4294967296 * x.adbHi.inForce

/-- The Admin Ring is on: no Admin base is 0 (R463). -/
def adminOn (x : Port) : Bool := acqBase x != 0 && asqBase x != 0 && adbBase x != 0

def acqRoom (x : Port) : Nat := 2 ^ acqLog x - sub32 x.ring.cqTail x.ring.cqHead

/-- Write an entry at the tail of a port's Admin Completion Ring and raise PF vector 0 (R71). -/
def putAdmin (s : State) (p : Nat) (r : Rec) : State :=
  let x := portOf s p
  let s' := post s p .pf (.acq p (entryAt (acqBase x) (acqLog x) 32 x.ring.cqTail)
    (adminBytes (phaseOf (acqLog x) x.ring.cqTail) x.ring.sqHead r) r)
  let s' := if canPost s p .pf then carry s' p (recStamp r) else s'
  let s' := modPort s' p fun x => { x with ring := { x.ring with cqTail := wrap32 (x.ring.cqTail + 1), dirty := true } }
  raiseMsix s' p .pf 0

/-- Write a record to a port's Admin Completion Ring; a full ring holds it, no entry is overwritten (R72). -/
def adminRec (s : State) (p : Nat) (r : Rec) : State :=
  let x := portOf s p
  if adminOn x then
    if x.aheld.isEmpty && decide (0 < acqRoom x) then putAdmin s p r
    else modPort s p fun x => { x with aheld := x.aheld ++ [r] }
  else s

/-! ### Fault Log (R440, R441) -/

/-- Merge an event into the entry it belongs to, if there is one. -/
def mergeLog (cls plat source now : Nat) : List LogEntry → Option (List LogEntry)
  | [] => none
  | e :: r =>
    if e.cls = cls ∧ e.plat = plat ∧ e.source = source ∧ now ≤ e.first + 1000000 then
      some ({ e with count := satAdd max32 e.count 1, last := now } :: r)
    else (mergeLog cls plat source now r).map (e :: ·)

/-- Enter an event in the Fault Log: its total counts it; it merges, takes a new entry, or is dropped and counted, the
first drop of its class since the last take being announced (R441, R447). Nothing is written after a trip (R446). -/
def logFault (s : State) (cls plat kind source detail : Nat) : State :=
  if s.sup.tripped then s else
  let t := s.sup.now
  let s := { s with flt := { s.flt with totals := tput s.flt.totals cls (satAdd 0xFFFFFFFFFFFFFFFF (tgetD s.flt.totals cls 0) 1) } }
  match mergeLog cls plat source t s.flt.log with
  | some l => { s with flt := { s.flt with log := l } }
  | none =>
    if s.flt.log.length < 4096 then
      let e : LogEntry := ⟨cls, plat, kind, source, t, t, 1, s.flt.eseq, detail⟩
      { s with flt := { s.flt with log := s.flt.log ++ [e], eseq := wrap32 (s.flt.eseq + 1) } }
    else
      let n := satAdd max32 (tgetD s.flt.losses cls 0) 1
      let first := !s.flt.reported.contains cls
      let s := { s with flt := { s.flt with losses := tput s.flt.losses cls n,
                                            reported := if first then s.flt.reported ++ [cls] else s.flt.reported } }
      if first then eventTo s (surveyors s) 0x0404 0 [(0x10, 1, cls), (0x14, 4, n)] else s

/-! ### Free values (log 10) -/

/-- `n` undefined bytes, and the state with the next draw. -/
def freeBytes (s : State) (n : Nat) : Bytes × State :=
  ((List.range n).map (Config.freeByte s.free), { s with free := s.free + 1 })

/-! ### Formats and Epochs -/

/-- A format is among those the running image lists (GLB_FMT, R460). -/
def formatListed (s : State) (kind fmt : Nat) : Bool := s.mon.image.formats.contains (kind, fmt)

/-- An Epoch is at most 1 away from the Epoch of every ready Plat (R411). -/
def epochAccepted (s : State) (e : Nat) : Bool :=
  (List.range (nPlats s)).all fun p => !ready s p || decide (e ≤ (platOf s p).epoch + 1 ∧ (platOf s p).epoch ≤ e + 1)

end Sys2Proof.Machine
end

