-- ==== Sys2Proof/Machine/Operands.lean ====
section
/-!
DEFINITION. Operand forms: how a context names an object and with what rights (R314, R321), where the object's bytes lie
and how they are read and written (R309 to R331), Crew-relative indices (R42) and references to host memory.
The model's own: log 31 (DEDUCED).
-/
namespace Sys2Proof.Machine
open Sys2Proof

/-! ### Names and rights -/

/-- Rights: bit 0 read, bit 1 write, bit 2 claim (Table 9.4). -/
def hasRight (rights r : Nat) : Bool := bit rights r

/-- The object that context `c` names `id`, and its rights on it: its own objects with every right, and 0xFFFF_FF00 + g
through grant slot g (R314, R321). -/
def resolve (s : State) (c id : Nat) : Option (Nat × Nat) :=
  if 0xFFFFFF00 ≤ id then
    s.objs.findSome? fun e =>
      (e.2.grants.find? fun g => g.ctx == c && g.slot == id - 0xFFFFFF00).map fun g => (e.1, g.rights)
  else if id = 0 then none
  else (objOf s c id).map fun _ => (objKey c id, 7)

/-- The Object ID by which context `c` names the object of key `k`, for an event of R350. -/
def nameFor (s : State) (c k : Nat) : Nat :=
  match tget s.objs k with
  | none => 0
  | some o => if o.ctx = c then o.id else ((o.grants.find? fun g => g.ctx == c).map fun g => 0xFFFFFF00 + g.slot).getD 0

/-- The contexts that an event about an object goes to: its owner and its grantees (R319). -/
def holders (o : Obj) : List Nat := o.ctx :: o.grants.map (·.ctx)

/-! ### Tiers -/

/-- Tier numbers of Table 2.7. -/
def tierNum : Tier → Nat
  | .near => 1
  | .main => 2
  | .archive => 3

def tierOf : Nat → Tier
  | 1 => .near
  | 2 => .main
  | _ => .archive

/-- The faster of two tiers. -/
def faster (a b : Tier) : Tier := if tierNum a ≤ tierNum b then a else b

/-- The object's position: the fastest tier among its REST and its claims (R323). -/
def position (o : Obj) : Tier := o.claims.foldl (fun t c => faster t c.tier) o.rest

/-- The object lies in the Archive tier (R320). -/
def inArchive (o : Obj) : Bool := decide (position o = .archive)

/-- The object holds units of tier `t`, or has them reserved (R316, R324, R326). -/
def occupies (o : Obj) (t : Tier) : Bool :=
  decide (o.rest = t) || decide (o.present = t) || o.claims.any fun c => decide (c.tier = t)

/-- The move under way or queued for an object. -/
def moveOf (s : State) (k : Nat) (o : Obj) : Option Move := (platOf s o.home).moves.find? fun m => m.obj == k

/-! ### Bytes -/

def pageSize : Nat := 16384

/-- A logical page whose object is destroyed waits for its TRIM to be durable. -/
def trimming (c : Cad) (lpn : Nat) : Bool :=
  c.groups.any fun g => match g.use with
    | .trim l _ => l.contains lpn
    | _ => false

/-- The bytes of a logical page, zero where it was never written or is trimmed (Table 9.11); a page freed by one object reads
zero to the next although its TRIM is not durable yet (R333). -/
def pageMem (c : Cad) (lpn : Nat) : Mem :=
  match tget c.map lpn with
  | none => []
  | some p => if trimming c lpn then [] else ((tget c.pages p).map (·.data)).getD []

def shiftMem (m : Mem) (d : Nat) : Mem := m.map fun c => (c.1 + d, c.2)

/-- The Archive copy of an object. -/
def archMem (c : Cad) (lpns : List Nat) : Mem :=
  (enum lpns).flatMap fun e => shiftMem (pageMem c e.2) (e.1 * pageSize)

/-- The object is being promoted from the Archive tier, or its move up is under way: its complete copy is still there
(R320, R324). -/
def promoting (s : State) (k : Nat) (o : Obj) : Bool :=
  decide (o.present = .archive) && (!inArchive o || (moveOf s k o).any fun m => m.dest != .archive)

/-- Archive pages that a promotion under way has copied. -/
def copied (s : State) (k : Nat) (o : Obj) : Nat :=
  match moveOf s k o with
  | some m => if m.dest = .archive then 0 else m.done
  | none => 0

/-- The bytes of an object wherever its units lie (R310, R331). -/
def objMem (s : State) (k : Nat) (o : Obj) : Mem :=
  if o.present = .archive ∧ o.still = none then
    let up := copied s k o * pageSize
    let m := o.mem.filter (fun c => decide (c.1 < up)) ++
      (archMem (cadOf s o.home) o.lpns).filter (fun c => decide (up ≤ c.1))
    o.held.foldl (fun m w => wrBytes m w.1 w.2) m
  else o.mem

/-- How far the bytes from 0 reach in a list of ranges in rising order. -/
def reach : Nat → List (Nat × Nat) → Nat
  | n, [] => n
  | n, (a, l) :: r => if a ≤ n then reach (max n (a + l)) r else n

/-- Bytes of page `i` that lie within an object. -/
def pageBytes (o : Obj) (i : Nat) : Nat := min pageSize (o.length - i * pageSize)

/-- The ranges cover the first `n` bytes of a logical page (R319). -/
def coversPage (n : Nat) (l : List (Nat × Nat)) : Bool := decide (n ≤ reach 0 (sortBy (fun a b => decide (a.1 < b.1)) l))

/-- Page `i` of an object reads as lost (R319, Table 9.11). -/
def pageLost (s : State) (o : Obj) (i : Nat) : Bool :=
  match o.still, o.lpns[i]? with
  | some l, _ => l.contains i
  | none, none => false
  | none, some lpn =>
    (cadOf s o.home).lost.contains lpn && (decide (o.present = .archive) || !coversPage (pageBytes o i) (tgetD o.cover i []))

/-- The pages that `n` bytes at `off` touch. -/
def pagesOf (off n : Nat) : List Nat :=
  if n = 0 then [] else (List.range ((off + n - 1) / pageSize - off / pageSize + 1)).map (off / pageSize + ·)

/-- A range of an object touches a page that reads as lost. -/
def rangeLost (s : State) (o : Obj) (off n : Nat) : Bool := (pagesOf off n).any (pageLost s o)

/-- `n` bytes of an object at `off`: none when they meet a lost page or a Plat out of service (R319, R424). -/
def rdObj (s : State) (k off n : Nat) : Option Bytes :=
  match tget s.objs k with
  | none => none
  | some o =>
    if rangeLost s o off n || decide ((platOf s o.home).st = .out) then none
    else some (rdBytes (objMem s k o) off n)

/-- The slowest tier that serves `n` bytes at `off` of an object (R331). -/
def tierServing (s : State) (k : Nat) (o : Obj) (off n : Nat) : Nat :=
  match moveOf s k o with
  | some m =>
    if tierNum m.dest < tierNum o.present then
      let u := if o.present = .archive then pageSize else 4096
      if off + n ≤ m.done * u then tierNum m.dest else tierNum o.present
    else tierNum o.present
  | none => tierNum o.present

/-- Backing unit of an object's REST copy (R326). -/
def backUnit (o : Obj) : Nat := if o.rest = .main then 65536 else pageSize

/-- A write at `off` lands above the object's REST copy: the object lies above REST, or the unit has been copied there by a
move under way (R326, R329). -/
def landsAbove (s : State) (k : Nat) (o : Obj) (off : Nat) : Bool :=
  decide (o.present ≠ o.rest) || promoting s k o ||
  (moveOf s k o).any fun m => decide (tierNum m.dest < tierNum o.rest) && decide (off / 4096 < m.done)

/-- The backing units of an object that holds a byte in the Main tier take the bytes written at REST (R326). -/
def putBack (o : Obj) (w : Nat × Bytes) : Obj := if o.rest = .main then { o with back := wrBytes o.back w.1 w.2 } else o

/-- Write one piece, which lies in one Archive page, of an object: at once, or held while its page is still to be copied
(R329); it marks its backing unit dirty (R326) and counts toward covering a lost page (R319). No Leg writes to the Archive
tier: a piece that finds the object at rest there is discarded (R320). -/
def putPiece (s : State) (k : Nat) (o : Obj) (w : Nat × Bytes) : Obj :=
  if o.present = .archive ∧ ¬ promoting s k o then o
  else
  let above := landsAbove s k o w.1
  let o := if promoting s k o && decide (copied s k o ≤ w.1 / pageSize) then { o with held := o.held ++ [w] }
    else { o with mem := wrBytes o.mem w.1 w.2 }
  if !above then putBack o w
  else
    let u := w.1 / backUnit o
    let o := if o.dirty.contains u then o else { o with dirty := o.dirty ++ [u] }
    let i := w.1 / pageSize
    match o.lpns[i]? with
    | none => o
    | some lpn =>
      if (cadOf s o.home).lost.contains lpn then
        { o with cover := tput o.cover i (tgetD o.cover i [] ++ [(w.1 % pageSize, w.2.length)]) }
      else o

/-! ### Locations (R311, R312, R313, Tables 9.1, 9.3) -/

/-- Tier, Plat, Station and offset in its row of a window range; none where it lies in no row or passes its end. -/
def windowRow (a n : Nat) : Option (Tier × Nat × Option Nat × Nat) :=
  if a < 0x20000000 then
    let p := a / 0x4000000
    let o := a % 0x4000000
    if o < 0x2C00000 then
      if o % 0x80000 + n ≤ 0x80000 then some (.near, p, some (o / 0x80000), o % 0x80000) else none
    else if o < 0x3C00000 then if o + n ≤ 0x3C00000 then some (.near, p, none, o - 0x2C00000) else none
    else none
  else if 0x004000000000 ≤ a ∧ a < 0x008000000000 then
    let o := (a - 0x004000000000) % 0x800000000
    if o + n ≤ 31 * 0x40000000 then some (.main, (a - 0x004000000000) / 0x800000000, none, o) else none
  else if 0x100000000000 ≤ a ∧ a < 0x140000000000 then
    let o := (a - 0x100000000000) % 0x8000000000
    if o + n ≤ 384 * 0x40000000 then some (.archive, (a - 0x100000000000) / 0x8000000000, none, o) else none
  else none

/-- Bytes of a unit of a tier (Table 9.3). -/
def unitBytes : Tier → Nat
  | .near => 4096
  | .main => 65536
  | .archive => pageSize

/-- Allocatable units of a tier, for a site: none for the Plat Store (Table 9.3). -/
def tierUnits (site : Option Nat) : Tier → Nat
  | .near => if site.isNone then 4096 else 128
  | .main => 507904
  | .archive => 25165824

/-- Two objects draw Near units from one site: a Plat Store, or one Station of a Crew. -/
def sameSite (a b : Obj) : Bool :=
  match a.site, b.site with
  | none, none => true
  | some i, some j => a.ctx == b.ctx && i == j
  | _, _ => false

/-- An object's bytes lie in unit `n` of a tier, within its Plat and site. -/
def liesAt (o : Obj) (t : Tier) (n : Nat) : Bool :=
  (o.locs.any fun e => e.1 / 4294967296 == tierNum t && e.2 == n) ||
  match o.window.bind fun a => windowRow a o.length with
  | some (t', _, _, off) => t' == t && decide (off < (n + 1) * unitBytes t) && decide (n * unitBytes t < off + o.length)
  | none => false

/-- The first of `fuel` units, from `i` round a tier of `cap`, that is not taken. -/
def freeUnit : Nat → Nat → Nat → (Nat → Bool) → Nat
  | 0, _, i, _ => i
  | fuel + 1, cap, i, taken => if taken i then freeUnit fuel cap ((i + 1) % cap) taken else i

/-- Give one unit of an object a location in a tier, if it has none: the device's own choice among the units that nothing lies in, so
a free value (R311; log 31). -/
def locateUnit (s : State) (k : Nat) (t : Tier) (o : Obj) (u : Nat) : Obj :=
  let i := tierNum t * 4294967296 + u
  if (tget o.locs i).isSome then o
  else
    let cap := tierUnits o.site t
    let taken (n : Nat) : Bool := liesAt o t n ||
      s.objs.any fun e => e.1 != k && e.2.home == o.home && (decide (t ≠ .near) || sameSite e.2 o) && liesAt e.2 t n
    { o with locs := tput o.locs i (freeUnit cap cap (Config.unitPlace k i s.free % cap) taken) }

/-- The units of a tier that `n` bytes at `off` touch have a location; a Surveyor's object lies in its window, and an Archive copy in its
logical pages. -/
def locate (s : State) (k : Nat) (t : Tier) (off n : Nat) (o : Obj) : Obj :=
  if o.window.isSome ∨ t = .archive ∨ n = 0 then o
  else
    let u := unitBytes t
    ((List.range ((off + n - 1) / u - off / u + 1)).map (off / u + ·)).foldl (locateUnit s k t) o

/-- Write bytes at `off` of an object that is not in the Archive tier. -/
def wrObj (s : State) (k off : Nat) (d : Bytes) : State :=
  modObj s k fun o => locate s k o.present off d.length ((cut (d.length / pageSize + 1) pageSize off d).foldl (putPiece s k) o)

/-! ### Views (R163, R164, Table 4.3) -/

/-- What an Object ID of a context names when it is a view. -/
inductive View where
  | cam (k : Nat) (c : Cam)
  | pair (k : Nat) (p : Pair)

/-- The view of context `c` with Object ID `id`. -/
def viewNamed (s : State) (c id : Nat) : Option View :=
  match s.cams.find? fun e => e.2.ctx == c && e.2.view == id with
  | some e => some (.cam e.1 e.2)
  | none => (s.pairs.find? fun e => e.2.ctx == c && e.2.view == id).map fun e => .pair e.1 e.2

/-- BUFFER_BYTES of a camera (Table 4.5). -/
def bufferBytes (c : Cam) : Nat := fld c.desc 8 4

/-- Offset of a pair view's right pixels (Table 4.3). -/
def rightPlane (c : Cam) : Nat := 0x1000 + ceilDiv (bufferBytes c) 4096 * 4096

/-- Bytes a view presents. -/
def viewLength (s : State) : View → Nat
  | .cam _ c => 0x1000 + bufferBytes c
  | .pair _ p =>
    match tget s.cams (camKey p.ctx p.left) with
    | none => 0
    | some c => rightPlane c + bufferBytes c

/-- The pixels of a frame, as bytes from 0. -/
def framePixels (s : State) (c : Cam) (f : Frame) : Mem :=
  match c.buffers[f.buffer]? with
  | none => []
  | some id =>
    match objOf s c.ctx id with
    | none => []
    | some o => (objMem s (objKey c.ctx id) o).filter fun e => decide (e.1 < bufferBytes c)

/-- The four counts of the view status. -/
def viewStatus (a b c d : Nat) : Bytes := le 4 a ++ le 4 b ++ le 4 c ++ le 4 d

/-- A run or period of a Traverse, as its Legs act in it. -/
structure Who where
  ctx    : Nat
  handle : Nat
  k      : Nat := 0
  began  : Nat := 0
  deriving DecidableEq, Repr

/-- A view's binding is that of a run or period. -/
def bindOf (w : Who) (b : ViewBind) : Bool := b.handle == w.handle && b.k == w.k && b.began == w.began

/-- The bytes a view presents to a Leg of a run or period: none when the view is not bound for it. -/
def viewMem (s : State) (w : Who) : View → Option Mem
  | .cam _ c =>
    match c.binds.find? (bindOf w) with
    | none => none
    | some b =>
      match c.frames.find? fun f => f.index == b.left with
      | none => none
      | some f => some (memOf f.record ++ shiftMem (memOf f.stats) 0x100 ++
          shiftMem (memOf (viewStatus b.number c.superseded c.unpaired c.discarded)) 0x500 ++
          shiftMem (framePixels s c f) 0x1000)
  | .pair _ p =>
    match p.binds.find? (bindOf w), tget s.cams (camKey p.ctx p.left), tget s.cams (camKey p.ctx p.right) with
    | some b, some l, some r =>
      match l.frames.find? fun f => f.index == b.left, r.frames.find? fun f => f.index == b.right with
      | some f, some g => some (memOf f.record ++ shiftMem (memOf g.record) 0x80 ++ shiftMem (memOf f.stats) 0x100 ++
          shiftMem (memOf g.stats) 0x300 ++
          shiftMem (memOf (viewStatus b.number p.superseded p.unpaired (l.discarded - p.lbase + (r.discarded - p.rbase)))) 0x500 ++
          shiftMem (framePixels s l f) 0x1000 ++ shiftMem (framePixels s r g) (rightPlane l))
      | _, _ => none
    | _, _, _ => none

/-! ### Leg operands (Table 2.13) -/

/-- Attribute bit 15: the operand is an output. -/
def isOut (o : OpEnt) : Bool := bit o.attr 15

/-- The operand of a Leg at place `i`, absent when its Object ID is 0. -/
def opAt (l : Leg) (i : Nat) : Option OpEnt :=
  match l.ops[i]? with
  | some o => if o.obj = 0 then none else some o
  | none => none

/-- The object that a context's Object ID names, with its key. -/
def objNamed (s : State) (c id : Nat) : Option (Nat × Obj) :=
  match resolve s c id with
  | none => none
  | some (k, _) => (tget s.objs k).map fun b => (k, b)

/-- `n` bytes at `off` of what an Object ID names for a Leg: a view or an object. -/
def rdName (s : State) (w : Who) (id off n : Nat) : Option Bytes :=
  match viewNamed s w.ctx id with
  | some v => (viewMem s w v).map fun m => rdBytes m off n
  | none =>
    match resolve s w.ctx id with
    | none => none
    | some (k, _) => rdObj s k off n

/-- Bytes of what an Object ID names for a Leg. -/
def nameLength (s : State) (c id : Nat) : Nat :=
  match viewNamed s c id with
  | some v => viewLength s v
  | none => ((objNamed s c id).map fun e => e.2.length).getD 0

/-- `n` bytes at `off` beyond an operand's offset. -/
def rdOp (s : State) (w : Who) (o : OpEnt) (off n : Nat) : Option Bytes := rdName s w o.obj (o.off + off) n

/-- Write at `off` beyond an operand's offset; outputs to an object destroyed or revoked meanwhile, or beyond its end, are
discarded (R322). -/
def wrOp (s : State) (c : Nat) (o : OpEnt) (off : Nat) (d : Bytes) : State :=
  match resolve s c o.obj with
  | none => s
  | some (k, r) =>
    match tget s.objs k with
    | none => s
    | some b => if hasRight r 1 then wrObj s k (o.off + off) (d.take (b.length - (o.off + off))) else s

/-- Bytes from a Leg operand's offset to the end of what it names. -/
def opRoom (s : State) (c : Nat) (o : OpEnt) : Nat := nameLength s c o.obj - o.off

/-- The slowest tier that serves `n` bytes at an operand's offset; for a view, that of its cameras' buffers. -/
def opTier (s : State) (c : Nat) (o : OpEnt) (off n : Nat) : Nat :=
  let cam (x : Cam) : Nat := x.buffers.foldl (fun t id => max t ((objOf s c id).elim 0 fun o => tierNum o.present)) 0
  match viewNamed s c o.obj with
  | some (.cam _ x) => cam x
  | some (.pair _ p) =>
    max ((tget s.cams (camKey c p.left)).elim 0 cam) ((tget s.cams (camKey c p.right)).elim 0 cam)
  | none =>
    match objNamed s c o.obj with
    | none => 0
    | some (k, b) => tierServing s k b (o.off + off) n

/-! ### Crew-relative indices (R42) -/

def crewSlot (s : State) (c i : Nat) : Option CrewSlot := (ctxOf s c).bind fun x => x.crew[i]?

/-- Plat of a Crew index; it counts on its original Plat even when unmapped (R45). -/
def crewPlat (s : State) (c i : Nat) : Nat := ((crewSlot s c i).map (·.plat)).getD 0

/-- The Station sites at which an object lies Near for a Leg on Crew index `i`: its home Plat and Station are the Leg's. -/
def nearOn (s : State) (c i : Nat) (o : Obj) : Bool :=
  decide (position o = .near) && decide (o.home = crewPlat s c i) &&
  match o.site with
  | none => false
  | some j =>
    match crewSlot s o.ctx j, crewSlot s c i with
    | some a, some b => a.stn == b.stn
    | _, _ => false

end Sys2Proof.Machine
end

