-- ==== Sys2Proof/Machine/Flags.lean ====
section
/-!
DEFINITION. The flags of outcomes: status classes, WARN bits and severities (R77, R86, R108); Stakes and the readiness of
Legs (R85 to R88, R471); Hand-off Flags (R29).
-/
namespace Sys2Proof.Machine
open Sys2Proof

/-! ### Status classes (Table 2.19) -/

/-- 0x0000 to 0x00FF, warnings included. -/
def success (st : Nat) : Bool := decide (st < 0x100)

/-- 0x01xx: dropped or aborted. -/
def dropped (st : Nat) : Bool := decide (0x100 ≤ st) && decide (st < 0x200)

/-- 0x0300 to 0x03FF. -/
def isError (st : Nat) : Bool := decide (0x300 ≤ st) && decide (st < 0x400)

/-- The lowest warning code of WARN bits, 0 when none is set (R77). -/
def lowestWarn (w : Nat) : Nat := ((List.range 5).find? (bit w)).elim 0 (· + 1)

/-- STATUS of an outcome with its warnings: the most severe (R77). -/
def severest (st w : Nat) : Nat := if st < 0x100 then lowestWarn (w ||| (if st = 0 then 0 else 2 ^ (st - 1))) else st

/-- A signal's WHEN matches an outcome (R86, rule 3). -/
def whenMatches (w st : Nat) (cond : Bool) : Bool :=
  match w with
  | 0 => success st
  | 1 => isError st
  | 2 => success st || isError st
  | _ => success st && cond

/-! ### Stakes -/

/-- A Stake: one of a context's, or a local one of a resident Traverse. -/
inductive StakeId where
  | ctx (c n : Nat)
  | loc (c h n : Nat)
  deriving DecidableEq, Repr

/-- SPACE and NUMBER of a Stake reference (Table 2.14). -/
def refSpace (r : Nat) : Nat := r / 16384

def refNum (r : Nat) : Nat := r % 16384

/-- The Stake that a reference of context `c` names, for a wait or, when `sig`, for a signal: none where a grant slot
holds no grant with that right (R85, R88). `h` is the Traverse of a local Stake. -/
def stakeRef (s : State) (c : Nat) (h : Option Nat) (r : Nat) (sig : Bool) : Option StakeId :=
  match ctxOf s c with
  | none => none
  | some x =>
    match refSpace r with
    | 0 => if refNum r < x.stakes.length then some (.ctx c (refNum r)) else none
    | 1 => h.map fun h => .loc c h (refNum r)
    | 2 =>
      match tget x.grants (refNum r) with
      | none => none
      | some g => if (if sig then g.signal else g.wait) then some (.ctx g.ctx g.stake) else none
    | _ => none

/-- A Stake's value. -/
def stakeVal (s : State) : StakeId → Nat
  | .ctx c n => ((ctxOf s c).bind fun x => x.stakes[n]?).getD 0
  | .loc c h n => ((travOf s c h).bind fun t => t.locals[n]?.map (·.value)).getD 0

/-- Give a Stake a value. -/
def stakePut (s : State) (v : Nat) : StakeId → State
  | .ctx c n => modCtx s c fun x => { x with stakes := x.stakes.set n v }
  | .loc c h n => modTrav s c h fun t => { t with locals := setAt t.locals n fun l => { l with value := v } }

/-- The context that owns a Stake, the reference by which it names it, and the Traverse of a local Stake (Table 2.10). -/
def stakeName : StakeId → Nat × Nat × Nat
  | .ctx c n => (c, n, 0xFFFF)
  | .loc c h n => (c, 0x4000 + n, h)

/-- Add to a Stake, saturating; reaching 0xFFFF_FFFF from below writes STAKE_SATURATED to its owner (R86, rule 1). -/
def stakeAdd (s : State) (id : StakeId) (n : Nat) : State :=
  let v := stakeVal s id
  let w := satAdd max32 v n
  let s := stakePut s w id
  if v < max32 ∧ w = max32 then
    let (c, ref, h) := stakeName id
    event s c 0x0007 0 [(0x10, 2, ref), (0x12, 2, h)]
  else s

/-- Add through a reference; discarded when it names nothing that may be signalled (R88, R471). -/
def signalRef (s : State) (c : Nat) (h : Option Nat) (r n : Nat) : State :=
  match stakeRef s c h r true with
  | none => s
  | some id => stakeAdd s id n

/-- The checks of R471 on a Stake reference in a command: 0, CONFIG_REFUSED or ACCESS_DENIED. `none` as reference value is
the caller's. -/
def refField (x : Ctx) (r : Nat) : Nat :=
  match refSpace r with
  | 0 => if refNum r < x.stakes.length then 0 else CONFIG_REFUSED
  | 2 => if refNum r < 256 then 0 else CONFIG_REFUSED
  | _ => CONFIG_REFUSED

def refRight (x : Ctx) (r : Nat) (sig : Bool) : Nat :=
  match refSpace r with
  | 2 =>
    match tget x.grants (refNum r) with
    | none => ACCESS_DENIED
    | some g => if (if sig then g.signal else g.wait) then 0 else ACCESS_DENIED
  | _ => 0

/-! ### Readiness (R85, R86 rules 6 and 7) -/

/-- A wait entry is met in period `k` with the base taken for it. -/
def waitMet (s : State) (c h k : Nat) (w : WaitEnt) (base : Nat) : Bool :=
  match stakeRef s c (some h) w.ref false with
  | none => false
  | some id =>
    let v := stakeVal s id
    if w.mode = 0 then decide (w.thresh ≤ v)
    else decide (w.thresh * (k + 1) ≤ max32) && decide (w.thresh * (k + 1) ≤ sub32 v base)

/-- All waits of a Leg are met. -/
def waitsMet (s : State) (c h k : Nat) (l : Leg) (bases : List Nat) : Bool :=
  (enum l.waits).all fun e => waitMet s c h k e.2 (bases.getD e.1 0)

/-- A Leg's state once its waits have been evaluated. -/
def settle (s : State) (t : Trav) (k : Nat) (l : Leg) (r : LegRun) : LegRun :=
  match r.st with
  | .waiting => if waitsMet s t.ctx t.handle k l r.bases then { r with st := .ready s.sup.now } else r
  | .ready _ => if waitsMet s t.ctx t.handle k l r.bases then r else { r with st := .waiting }
  | _ => r

/-- Evaluate the waits of every instantiated Leg that has not been dispatched. -/
def rescan (s : State) : State :=
  { s with travs := s.travs.map fun e =>
      (e.1, { e.2 with run := e.2.run.map fun r =>
        { r with legs := (e.2.legs.zip r.legs).map fun p => settle s e.2 r.k p.1 p.2 } }) }

/-- Signal a reference for the device and let the waiting Legs see it. -/
def signal (s : State) (c : Nat) (h : Option Nat) (r n : Nat) : State := rescan (signalRef s c h r n)

/-- Signal an optional reference of a descriptor, where 0xFFFF means none. -/
def signalOpt (s : State) (c r n : Nat) : State := if r = 0xFFFF then s else signal s c none r n

/-! ### Hand-off Flags (R29): bit f of a Station's number is 1 while flag f is FULL -/

def flagsOf (s : State) (p stn : Nat) : Nat := tgetD (platOf s p).flags stn 0

def setFlags (s : State) (p stn v : Nat) : State := modPlat s p fun x => { x with flags := tput x.flags stn v }

end Sys2Proof.Machine
end

