-- ==== Sys2Proof/Machine/TieLink.lean ====
section
/-!
DEFINITION. Sending on the Tie Ports: routes, credits, link sequence numbers, the replay buffer (R369 to R372), and the
bulk transfers that the writes of Legs form (R375).
The model's own: log 21 (DEDUCED).
-/
namespace Sys2Proof.Machine
open Sys2Proof

/-- The package's Tie node number (R369). -/
def ownNode (s : State) : Nat := s.tpt.node.inForce

/-- Protocol Epoch that the Tie Ports show: that of Plat 0 (R411). -/
def tieEpoch (s : State) : Nat := (platOf s 0).epoch

/-- The 32-byte header of a frame (Table 10.10). -/
def tieHeader (f : TieFrame) : Bytes :=
  le 1 f.type ++ le 1 f.cls ++ le 1 f.dst ++ le 1 f.src ++ le 2 f.payload.length ++ le 1 f.hops ++ le 1 f.epoch ++ le 4 f.lseq ++
    le 4 f.lack ++ ((List.range 4).map fun i => BitVec.ofNat 8 (f.credit.getD i 0)) ++ (fldBytes 32 f.msg).drop 0x14

/-- The nonce of a frame: the direction's IV and the frame's LSEQ as a number of 96 bits, combined by exclusive-or (R394). -/
def tieNonce (iv : Bytes) (lseq : Nat) : Bytes := xorBytes iv (be 12 lseq)

/-- A frame on the link (R370): its header, its payload, encrypted and with a tag in classes 1 to 3, and a CRC-32C over all of it. The link
key of the direction is 32 bytes, its IV 12. -/
def tieBytes (key iv : Bytes) (f : TieFrame) : Bytes :=
  let h := tieHeader f
  let b := if f.cls = 0 then h ++ f.payload
    else
      let c := gcmStream key (tieNonce iv f.lseq) f.payload
      h ++ c ++ gcmTag key (tieNonce iv f.lseq) (h.take 12 ++ h.drop 0x14) c
  b ++ le 4 (crc32c b)

/-- A frame as a Tie Port sends it, under its own direction's key and IV. -/
def wireBytes (s : State) (t : Nat) (f : TieFrame) : Bytes := tieBytes (tieOf s t).txKey (tieOf s t).txIv f

/-- Bytes of a frame (R370). -/
def frameBytes (f : TieFrame) : Nat := 32 + f.payload.length + (if f.cls = 0 then 0 else 16) + 4

/-- Credit units of a frame (R371). -/
def frameUnits (f : TieFrame) : Nat := ceilDiv (frameBytes f) 64

/-- Units that a frame needs before it is sent: a package's own frame leaves 65 more (R371), but in class 0, whose buffer of 64
units could never hold them (log 21). -/
def unitsNeeded (s : State) (f : TieFrame) : Nat :=
  frameUnits f + (if f.cls ≠ 0 ∧ f.src = ownNode s then 65 else 0)

/-- Bytes of unacknowledged frames (R372). -/
def replayBytes (x : TiePort) : Nat := (x.replay.map frameBytes).foldl (· + ·) 0

/-- Put a frame on the link: its LSEQ, LACK and CREDIT are filled, it takes its units, and a frame of classes 1 to 3 is
kept for replay (R370 to R372). -/
def transmit (s : State) (t : Nat) (f : TieFrame) : State :=
  let x := tieOf s t
  let f := { f with epoch := tieEpoch s % 256, lseq := if f.cls = 0 then 0 else x.txSeq, lack := x.rxSeq, credit := x.owed.map (min 255) }
  let s := emit s (.tie t f)
  modTie s t fun x =>
    { x with owed := x.owed.map (· - 255),
             credits := setAt x.credits f.cls (· - frameUnits f),
             txSeq := if f.cls = 0 then x.txSeq else wrap32 (x.txSeq + 1),
             lackAt := if x.replay.isEmpty then s.sup.now else x.lackAt,
             replay := if f.cls = 0 then x.replay else x.replay ++ [f] }

/-- A frame can go now: its units are there and, in classes 1 to 3, room to keep it for replay (R371, R372). -/
def canSend (s : State) (t : Nat) (f : TieFrame) : Bool :=
  let x := tieOf s t
  decide (x.st = .active) && decide (unitsNeeded s f ≤ x.credits.getD f.cls 0) &&
    (f.cls == 0 || decide (replayBytes x + frameBytes f ≤ 524288))

/-- A frame waits behind one of its class that cannot go: behind a forwarded frame any, behind a frame of the package's own its own frames
alone, so that a forwarded frame never waits for the 65 units which those leave (R371). -/
def heldBy (s : State) (f g : TieFrame) : Bool := g.cls == f.cls && (g.src != ownNode s || f.src == ownNode s)

/-- The keys that a Tie link's session or its KEY_UPDATE yields: nothing fixes the secrets (R394). -/
def newLinkKeys (s : State) (t : Nat) (tx rx : Bool) : State :=
  let k := freeBytes s 44
  let n := freeBytes k.2 44
  modTie n.2 t fun x =>
    let x := if tx then { x with txKey := k.1.take 32, txIv := k.1.drop 32, keySeq := x.txSeq } else x
    if rx then { x with rxKey := n.1.take 32, rxIv := n.1.drop 32 } else x

/-- An AUTH frame of the package's own: an SPDM message. -/
def authFrame (s : State) (message : Bytes) : TieFrame :=
  { type := 0x04, cls := 0, dst := 0xFF, src := ownNode s, hops := 63, msg := [], payload := message }

/-- A KEY_UPDATE is due: LSEQ has advanced by 2^31 since the last key; while Plat 0 switches it is put off (R394, R410). -/
def rekeyDue (s : State) (t : Nat) : Bool :=
  let x := tieOf s t
  decide (x.st = .active) && x.session && decide (2147483648 ≤ (x.txSeq + 4294967296 - x.keySeq) % 4294967296) && !(platOf s 0).switching

/-- Run a KEY_UPDATE that is due, ahead of what waits. -/
def tieRekey (s : State) (t : Nat) : State :=
  if rekeyDue s t then
    let f := authFrame s (Config.spdmBytes s.free)
    let s := newLinkKeys { s with free := s.free + 1 } t true false
    if canSend s t f then transmit s t f else modTie s t fun x => { x with queue := f :: x.queue }
  else s

/-- Send the waiting frames of a port, those of a class in order (R371). -/
def drainTie (s : State) (t : Nat) : State :=
  let q := (tieOf s t).queue
  let r := q.foldl (fun (a : State × List TieFrame) f =>
    if canSend a.1 t f && !a.2.any (heldBy a.1 f) then (transmit a.1 t f, a.2) else (a.1, a.2 ++ [f])) (s, [])
  tieRekey (modTie r.1 t fun x => { x with queue := r.2 }) t

/-- Queue a frame on a Tie Port and send what can be sent. -/
def sendOn (s : State) (t : Nat) (f : TieFrame) : State :=
  drainTie (modTie s t fun x => { x with queue := x.queue ++ [f] }) t

/-- Send a control frame to the neighbour: class 0, not sequenced and not retried (R372). On an ACTIVE link it waits for its
units; before, no units are kept. -/
def sendControl (s : State) (t type : Nat) (msg : List Fld) (payload : Bytes) : State :=
  let f : TieFrame := { type := type, cls := 0, dst := 0xFF, src := ownNode s, hops := 63, msg := msg, payload := payload }
  if (tieOf s t).st = .active then sendOn s t f else transmit s t f

/-- The port by which frames for a node leave (R427). -/
def routeTo (s : State) (node : Nat) : Option Nat := tget s.tpt.routes node

/-- Count a frame that has no route (Table 12.2). -/
def noRoute (s : State) : State := { s with tpt := { s.tpt with noRoute := satAdd 65535 s.tpt.noRoute 1 } }

/-- Send the frames of one message to a node, or count them when there is no route. -/
def sendTo (s : State) (node : Nat) (l : List TieFrame) : State :=
  match routeTo s node with
  | some t => l.foldl (fun s f => sendOn s t f) s
  | none => l.foldl (fun s _ => noRoute s) s

/-- Cut a message into the payloads of its frames, with the offset of each; the first argument bounds their number. -/
def fragments : Nat → Nat → Bytes → List (Nat × Bytes)
  | 0, off, d => [(off, d)]
  | n + 1, off, d => if d.length ≤ 4096 then [(off, d)] else (off, d.take 4096) :: fragments n (off + 4096) (d.drop 4096)

/-- REMOTE_WRITE_FAILED to the context of the Leg that formed a transfer (R377). -/
def writeFailed (s : State) (w : Sent) (reason node : Nat) : State :=
  event s w.ctx 0x0005 REMOTE_WRITE_FAILED
    [(0x10, 2, w.tag), (0x12, 2, w.handle), (0x14, 2, w.leg), (0x16, 1, reason), (0x17, 1, node), (0x18, 4, w.period)]

/-- The BULK_WRITE frames of one transfer: its pieces in order, the first marked FIRST and the last LAST (R375). -/
def bulkFrames (s : State) (o : Outlet) (data : List (Nat × Bytes)) : List TieFrame :=
  let l := data.flatMap fun w => fragments (w.2.length / 4096 + 1) w.1 w.2
  (enum l).map fun e =>
    let m := b2n (e.1 == 0) + 2 * b2n (e.1 + 1 == l.length)
    { type := 0x10, cls := 1, dst := o.node, src := ownNode s, hops := 63,
      msg := [(0x14, 1, o.landing), (0x15, 1, m), (0x16, 2, o.tag), (0x18, 6, o.offset + e.2.1)], payload := e.2.2 }

/-- Form one transfer of an outlet: the outlet's next tag, its frames sent, its acknowledgement awaited; with no route it
fails with reason 6 (R375, R377, Table 12.2). -/
def formTransfer (s : State) (k : Nat) (l : LegRef) (period : Nat) (data : List (Nat × Bytes)) : State :=
  match tget s.outlets k with
  | none => s
  | some o =>
    let w : Sent := { tag := o.tag, ctx := l.ctx, handle := l.handle, leg := l.leg, period := period,
                      limit := s.sup.now + s.tpt.ackMs * 1000000 }
    let fs := bulkFrames s o data
    let s := modOutlet s k fun o => { o with tag := (o.tag + 1) % 65536 }
    match routeTo s o.node with
    | none => writeFailed (fs.foldl (fun s _ => noRoute s) s) w 6 o.node
    | some _ => sendTo (modOutlet s k fun o => { o with unacked := o.unacked ++ [w] }) o.node fs

/-- The outlets whose object is the one of key `k`. -/
def outletsOf (s : State) (k : Nat) : List Nat :=
  (s.outlets.filter fun e => objKey e.2.ctx e.2.obj == k).map (·.1)

/-- Form the transfers of a Leg's writes, one for each outlet it wrote into. -/
def formTransfers (s : State) (l : LegRef) (period : Nat) (data : List (Nat × Nat × Bytes)) : State :=
  (data.map (·.1)).eraseDups.foldl
    (fun s k => formTransfer s k l period ((data.filter fun e => e.1 == k).map (·.2))) s

/-- The ranges that a Leg's writes put into outlet objects, each with the outlet's key. -/
def outletWrites (s : State) (c : Nat) (writes : List (OpEnt × Nat × Bytes)) : List (Nat × Nat × Bytes) :=
  writes.flatMap fun w =>
    match objNamed s c w.1.obj with
    | none => []
    | some (k, _) => (outletsOf s k).map fun u => (u, w.1.off + w.2.1, w.2.2)

end Sys2Proof.Machine
end

