-- ==== Sys2Proof/Machine/Legs.lean ====
section
/-!
DEFINITION. Legs, runs and periods as shared operations: in-flight places (R89), completion of a Leg with its record and
signals (R86, R96), summaries (R77), the start of runs and periods, and boundary actions (R91 to R97).
The model's own: log 23 (DEDUCED).
-/
namespace Sys2Proof.Machine
open Sys2Proof

/-! ### Pacing (R49, R52) -/

/-- The effective Pace Ratio numerator of a Plat: the lower of the Governor's and the thermal one (R52). -/
def effectivePace (s : State) (p : Nat) : Nat := min s.glb.pace (platOf s p).thermal.ratio

/-- Issue cycles that a Plat's paced engines have had so far, in 64ths (R49, R83). -/
def issuedNow (s : State) (p : Nat) : Nat :=
  (platOf s p).issued + (s.sup.now - (platOf s p).issuedAt) * effectivePace s p

/-- Bring a Plat's issue count up to now, before its pace changes. -/
def settlePace (s : State) (p : Nat) : State :=
  modPlat s p fun x => { x with issued := issuedNow s p, issuedAt := s.sup.now }

/-! ### Looking at Legs -/

def legOf (s : State) (l : LegRef) : Option Leg := (travOf s l.ctx l.handle).bind fun t => t.legs[l.leg]?

/-- A Leg's place in its Traverse's run or current period. -/
def runOf (s : State) (l : LegRef) : Option LegRun :=
  (travOf s l.ctx l.handle).bind fun t => t.run.bind fun r => r.legs[l.leg]?

def modRun (s : State) (l : LegRef) (f : LegRun → LegRun) : State :=
  modTrav s l.ctx l.handle fun t => { t with run := t.run.map fun r => { r with legs := setAt r.legs l.leg f } }

/-- The run or period in which a Leg acts now. -/
def whoOf (s : State) (l : LegRef) : Who :=
  match (travOf s l.ctx l.handle).bind (·.run) with
  | some r => { ctx := l.ctx, handle := l.handle, k := r.k, began := r.began }
  | none => { ctx := l.ctx, handle := l.handle }

/-- A Leg is in flight: instantiated and not completed (R89). -/
def inFlight (r : LegRun) : Bool :=
  match r.st with
  | .uninst => false
  | .done _ => false
  | _ => true

/-- A Leg has completed. -/
def isDone (r : LegRun) : Bool :=
  match r.st with
  | .done _ => true
  | _ => false

/-- A Leg holds its engine: running, or aborting (R100). -/
def onEngine (r : LegRun) : Bool := decide (r.st = .running) || decide (r.st = .aborting)

/-- The runs of a Traverse: the current one and those whose boundary actions are under way. -/
def runsOf (t : Trav) : List Run := t.run.toList ++ t.ending.map (·.run)

/-- Every Leg of the package that has a place in a run, with that place. -/
def allLegs (s : State) : List (LegRef × Leg × LegRun) :=
  s.travs.flatMap fun e => (runsOf e.2).flatMap fun r =>
    (enum (e.2.legs.zip r.legs)).map fun p => (⟨e.2.ctx, e.2.handle, p.1⟩, p.2.1, p.2.2)

/-- Legs in flight on a Plat (R89). -/
def legsOn (s : State) (p : Nat) : Nat :=
  ((allLegs s).filter fun e => inFlight e.2.2 && crewPlat s e.1.ctx e.2.1.stn == p).length

/-! ### The end of a run or period (R92, R93) -/

/-- The end of a Leg's run or period: its Period Boundary, or the run's deadline (R268, R290). -/
def runEnd (t : Trav) (r : Run) : Option Nat :=
  if t.st = .periodic then some (t.b0 + (r.k + 1) * t.period) else if t.deadline = 0 then none else some t.deadline

/-- The end of a Leg's run or period has not come: from that instant on, which belongs to what follows, a Leg neither starts nor
finishes, and is left to the boundary actions (R92, R93, R98). -/
def inTime (s : State) (l : LegRef) : Bool :=
  match travOf s l.ctx l.handle with
  | none => true
  | some t =>
    match t.run.bind (runEnd t) with
    | some e => decide (s.sup.now < e)
    | none => true

/-! ### Instantiation (R89) -/

/-- The uninstantiated Legs of a Plat, in the order in which they enter: by the start of their run or period, then
Traverse handle, then (for contexts, which R89 does not order) context, then Leg index. -/
def waitingPlaces (s : State) (p : Nat) : List LegRef :=
  let l := s.travs.flatMap fun e =>
    match e.2.run with
    | none => []
    | some r => ((enum (e.2.legs.zip r.legs)).filter fun q =>
        decide (q.2.2.st = .uninst) && crewPlat s e.2.ctx q.2.1.stn == p).map fun q =>
          ([r.began, e.2.handle, e.2.ctx, q.1], (⟨e.2.ctx, e.2.handle, q.1⟩ : LegRef))
  (sortBy (fun a b => lexLt a.1 b.1) l).map (·.2)

/-- Instantiate Legs of a Plat while it has in-flight places, and evaluate their waits. -/
def instantiateOn (s : State) (p : Nat) : State :=
  let l := (waitingPlaces s p).take (2048 - legsOn s p)
  rescan (l.foldl (fun s r => modRun s r fun x => { x with st := .waiting }) s)

/-- Instantiate on every Plat. -/
def instantiateAll (s : State) : State := (List.range (nPlats s)).foldl instantiateOn s

/-! ### Flag rings (R174, R175) -/

/-- Role, first flag, slots and rows of a flag ring descriptor (Table 4.9). -/
structure RingDesc where
  role  : Nat
  flag0 : Nat
  slots : Nat
  rows  : Nat
  deriving DecidableEq, Repr

def ringDesc (b : Bytes) (o : Nat) : RingDesc := ⟨fld b o 1, fld b (o + 1) 1, fld b (o + 2) 1, fld b (o + 4) 2⟩

/-- The bits of a ring's flags. -/
def ringMask (r : RingDesc) : Nat := if r.role = 0 then 0 else (2 ^ r.slots - 1) * 2 ^ r.flag0

/-- The flag rings that a Leg's descriptor names: of the COSTQ Steps of a Tensor Program, or of a Parallax Descriptor. -/
def legRings (s : State) (w : Who) (l : Leg) : List RingDesc :=
  if l.kind = 0 then
    match rdName s w l.desc 0 64 with
    | none => []
    | some h =>
      (List.range (fld h 6 2)).filterMap fun i =>
        match rdName s w l.desc (fld h 0x14 4 + 64 * i) 64 with
        | none => none
        | some b => if fld b 0 1 = 0x09 then some (ringDesc b 0x14) else none
  else if l.kind = 1 then
    match rdName s w l.desc 0 128 with
    | none => []
    | some b => [ringDesc b 0x38]
  else []

/-- Set every flag that a Traverse's Legs name to EMPTY (R175). -/
def emptyFlags (s : State) (t : Trav) : State :=
  t.legs.foldl (fun s l =>
    match crewSlot s t.ctx l.stn with
    | some ⟨p, some stn, _⟩ =>
      (legRings s { ctx := t.ctx, handle := t.handle } l).foldl
        (fun s r => setFlags s p stn (flagsOf s p stn - (flagsOf s p stn &&& ringMask r))) s
    | _ => s) s

/-! ### Summaries (R77) -/

/-- Statuses of a run's Legs. -/
def statuses (r : Run) : List Nat := r.legs.filterMap fun x => match x.st with | .done st => some st | _ => none

/-- STATUS of a summary (R77). -/
def summaryStatus (l : List Nat) : Nat :=
  match l.filter isError with
  | e :: r => r.foldl min e
  | [] => if l.any dropped then DROPPED_LATE else 0

/-- A period summary or run summary (R77, Table 2.7). -/
def summary (t : Trav) (r : Run) (kind stamp : Nat) : CqRec :=
  let l := statuses r
  let d := (l.filter dropped).length
  { tag := t.tag, status := summaryStatus l, kind := kind,
    warn := r.legs.foldl (fun w x => w ||| x.warn) 0, stamp := stamp, trav := t.handle,
    leg := (l.filter success).length, period := if kind = 2 then r.k % 4294967296 else 0,
    tier := d % 256, plat := d / 256, aux := min 255 (l.filter isError).length, irq := bit t.flags 0 }

/-! ### Commands under way (R74) -/

/-- Completion of a context's command (Table 2.7, kind 0). -/
def cmdRec (s : State) (tag flags trav status result : Nat) : CqRec :=
  { tag := tag, status := status, kind := 0, stamp := s.sup.now, trav := trav, period := result, irq := bit flags 0 }

/-- Write the completion of the command under way and let the context's next command start. -/
def finishBusy (s : State) (c tag flags trav status result : Nat) : State :=
  modCtx (record s c (.cq (cmdRec s tag flags trav status result))) c fun x => { x with busy := none }

/-! ### Views (R164, R165) -/

/-- Take the bindings of a run or period off a list. -/
def dropBinds (w : Who) (l : List ViewBind) : List ViewBind := l.filter fun b => !bindOf w b

/-- A sequential camera view's frame is consumed and leaves its buffer. -/
def consumeCam (w : Who) (c : Cam) : Cam :=
  let gone := (c.binds.filter (bindOf w)).map (·.left)
  let still := (dropBinds w c.binds).map (·.left)
  { c with binds := dropBinds w c.binds,
           frames := if c.mode = 1 then c.frames.filter fun f => !(gone.contains f.index && !still.contains f.index)
                     else c.frames }

/-- The pairs of a sequential pair view that a run or period's binding consumes: those that no other binding holds. -/
def consumedPairs (w : Who) (p : Pair) : List ViewBind :=
  let still := (dropBinds w p.binds).map (·.number)
  if p.ctx = w.ctx ∧ p.mode = 1 then (p.binds.filter (bindOf w)).filter fun b => !still.contains b.number else []

/-- End the bindings of a run or period: its views are free, and what sequential views bound is consumed, unless the next period's
binding holds it (R164, R165). -/
def releaseViews (s : State) (w : Who) : State :=
  let gone := s.pairs.flatMap fun e => (consumedPairs w e.2).flatMap fun b =>
    [(camKey w.ctx e.2.left, b.left), (camKey w.ctx e.2.right, b.right)]
  let s := { s with
    cams := s.cams.map fun (e : Nat × Cam) => (e.1, if e.2.ctx = w.ctx then consumeCam w e.2 else e.2),
    pairs := s.pairs.map fun (e : Nat × Pair) =>
      (e.1, if e.2.ctx = w.ctx then
        { e.2 with binds := dropBinds w e.2.binds,
                   pairs := e.2.pairs.filter fun p => !((consumedPairs w e.2).map (·.number)).contains p.1 } else e.2) }
  gone.foldl (fun s g => modCam s g.1 fun c => { c with frames := c.frames.filter fun f => f.index != g.2 }) s

/-! ### Completion of a Leg -/

/-- A Leg writes its own completion (R96). -/
def writesOwn (l : Leg) (st : Nat) : Bool := decide (st = ABORTED_BOUNDARY) || isError st || bit l.lflags 0

/-- Completion record of a Leg (Table 2.7, kind 1; kind 4 for a Mark Leg). -/
def legRec (s : State) (t : Trav) (k : Nat) (l : LegRef) (g : Leg) (st warn tier stamp : Nat) : CqRec :=
  { tag := t.tag, status := severest st warn, kind := if g.kind = 6 then 4 else 1, warn := warn, stamp := stamp,
    trav := l.handle, leg := l.leg, period := if t.st = .periodic then k % 4294967296 else 0, tier := tier,
    plat := crewPlat s l.ctx g.stn, irq := bit g.lflags 1 }

/-- Apply the signals of a Leg whose WHEN matches (R86, rules 2 to 5). -/
def applySignals (s : State) (l : LegRef) (g : Leg) (st : Nat) (cond : Bool) : State :=
  rescan ((g.sigs.filter fun e => whenMatches e.when_ st cond).foldl
    (fun s e => signalRef s l.ctx (some l.handle) e.ref e.add) s)

/-- The run is over: all its Legs have completed and no boundary action is under way (Table 2.15). -/
def runOver (t : Trav) : Bool :=
  match t.run with
  | none => false
  | some r => decide (t.st = .running) && t.ending.isEmpty && r.legs.all isDone

/-- Write the run summary of a run that is over; its Traverse goes to RESIDENT and its views are released. -/
def closeRun (s : State) (c h : Nat) : State :=
  match travOf s c h with
  | none => s
  | some t =>
    match t.run with
    | none => s
    | some r =>
      if runOver t then
        let s := record s c (.cq (summary t r 3 s.sup.now))
        let s := modTrav s c h fun t => { t with st := .resident, run := none }
        releaseViews s { ctx := c, handle := h, k := r.k, began := r.began }
      else s

/-- Warnings of a Leg that completes: SUBSTITUTED where its index lies on a spare Station, one aborted there included; a Leg that is
dropped has not been on it (R44, R77). -/
def subWarn (s : State) (c : Nat) (g : Leg) (st warn : Nat) : Nat :=
  match crewSlot s c g.stn with
  | some x => if x.sub && decide (st ≠ DROPPED_LATE ∧ st ≠ DROPPED_FAULT) then warn ||| 8 else warn
  | none => warn

/-- Complete a Leg with a stamp, if its run or period has not ended (R93): its place is marked done, its record written where R96
says so, its signals applied; the last Leg of a run brings the run summary. A Mark Leg that succeeds writes its completion without
REPORT too, as R104 has it (log 22). -/
def completeLegAt (s : State) (l : LegRef) (st warn : Nat) (cond : Bool) (tier stamp : Nat) : State :=
  match travOf s l.ctx l.handle, legOf s l with
  | some t, some g =>
    if inTime s l then
      let w := subWarn s l.ctx g st warn
      let k := (t.run.map (·.k)).getD 0
      let s := modRun s l fun x => { x with st := .done st, warn := w }
      let s := if writesOwn g st || g.kind == 6 && decide (st = 0) then
        record s l.ctx (.cq (legRec s t k l g st w tier stamp)) else s
      let s := if dropped st then s else applySignals s l g st cond
      closeRun s l.ctx l.handle
    else s
  | _, _ => s

/-- Complete a Leg now. -/
def completeLeg (s : State) (l : LegRef) (st warn : Nat) (cond : Bool) (tier : Nat) : State :=
  completeLegAt s l st warn cond tier s.sup.now

/-- What an engine's run of a Leg gives: its outcome, its condition bit, the slowest tier it used, its outputs, each an operand with
a relative offset and bytes; `ran` is false where its start checks ended it before it touched anything. -/
structure EngOut where
  status : Nat := 0
  ran    : Bool := true
  warn   : Nat := 0
  cond   : Bool := false
  tier   : Nat := 0
  writes : List (OpEnt × Nat × Bytes) := []
  deriving DecidableEq, Repr

/-- An outlet has 64 unacknowledged transfers (R375). -/
def outletFull (s : State) (k : Nat) : Bool := ((tget s.outlets k).map fun o => decide (64 ≤ o.unacked.length)).getD false

/-- A Leg's outputs are visible: its transfers form and it completes, or it waits for an acknowledgement of the first of
its outlets that is full (R375). -/
def settleOutlets (s : State) (w : OutWait) : State :=
  match (w.data.map (·.1)).find? (outletFull s) with
  | some k => modOutlet s k fun o => { o with waiting := o.waiting ++ [w] }
  | none =>
    let s := formTransfers s w.leg ((whoOf s w.leg).k % 4294967296) w.data
    completeLeg s w.leg w.status w.warn w.cond w.tier

/-- Fill ranges with undefined bytes (R95, R216; log 10). -/
def freeRanges (s : State) (c : Nat) (l : List (OpEnt × Nat × Nat)) : State :=
  l.foldl (fun s e => let b := freeBytes s (min e.2.2 (opRoom s c e.1 - e.2.1)); wrOp b.2 c e.1 e.2.1 b.1) s

/-- The scratch operand of an engine's Leg, which its engine works in (Tables 5.1, 7.1, 8.11, R177). -/
def scratchOf (g : Leg) : Option OpEnt := if g.kind = 0 ∨ g.kind = 1 ∨ g.kind = 2 ∨ g.kind = 4 then opAt g 3 else none

/-- The bytes of a Leg's scratch after it has run are whatever its engine left there (log 10). -/
def useScratch (s : State) (l : LegRef) : State :=
  match (legOf s l).bind scratchOf with
  | some o => freeRanges s l.ctx [(o, 0, opRoom s l.ctx o)]
  | none => s

/-- The end of an engine's run of a Leg: its outputs become visible, then its transfers, its record and its signals
(R86 rule 2, R375). -/
def finishLeg (s : State) (l : LegRef) (o : EngOut) : State :=
  let data := outletWrites s l.ctx o.writes
  let s := if o.ran then useScratch s l else s
  let s := o.writes.foldl (fun s w => wrOp s l.ctx w.1 w.2.1 w.2.2) s
  settleOutlets s { leg := l, status := o.status, warn := o.warn, cond := o.cond, tier := o.tier, data := data }

/-- A Leg that its engine's start checks end: nothing has run, so its outputs and its scratch stay as they are. -/
def refuseLeg (s : State) (l : LegRef) (st : Nat) : State := finishLeg s l { status := st, ran := false }

/-- The Leg runs on its engine: it has been dispatched, has not completed, does not wait for an outlet, and its run or period has not
ended (R93). -/
def legRuns (s : State) (l : LegRef) : Bool :=
  match runOf s l with
  | some r => decide (r.st = .running) && !r.intr && inTime s l && !s.outlets.any fun e => e.2.waiting.any fun w => w.leg == l
  | none => false

/-! ### Objects that went while a Leg ran (R322) -/

/-- The snapshots that a Leg names, by key, the oldest of each. -/
def snapsOf (s : State) (l : LegRef) : List Snap :=
  (s.snaps.filter fun x => x.legs.contains l).foldl (fun a x => if a.any fun y => y.key == x.key then a else a ++ [x]) []

/-- The package as a Leg that is under way sees it: objects destroyed or revoked meanwhile as they stood (R322). -/
def snapsIn (s : State) (l : LegRef) : State := { s with objs := (snapsOf s l).foldl (fun t x => tput t x.key x.obj) s.objs }

/-- The package after a Leg has acted on what it saw: its outputs to those objects are discarded (R322). -/
def snapsOut (s : State) (l : LegRef) (t : State) : State :=
  { t with objs := (snapsOf s l).foldl (fun o x => match tget s.objs x.key with | some b => tput o x.key b | none => tdel o x.key) t.objs }

/-- A Leg that is under way acts. -/
def onSnaps (s : State) (l : LegRef) (f : State → State) : State := snapsOut s l (f (snapsIn s l))

/-- A Leg that starts or is over has no snapshots. -/
def dropSnaps (s : State) (l : LegRef) : State :=
  { s with snaps := (s.snaps.map fun x => { x with legs := x.legs.filter (· != l) }).filter fun x => !x.legs.isEmpty }

/-! ### Starting runs and periods -/

/-- The bases that a Traverse's waits take now (R85): the Stake's value, 0 through a slot without the wait right. -/
def takeBases (s : State) (t : Trav) : List (List Nat) :=
  t.legs.map fun l => l.waits.map fun w => ((stakeRef s t.ctx (some t.handle) w.ref false).map (stakeVal s)).getD 0

/-- Every local Stake back to its INIT value (R87). -/
def resetLocals (t : Trav) : Trav := { t with locals := t.locals.map fun l => { l with value := l.init } }

/-- The Legs of a run or period that begins, none instantiated. -/
def freshRun (t : Trav) (k began : Nat) : Run :=
  { k := k, began := began, legs := (enum t.legs).map fun e => { bases := t.bases.getD e.1 [] } }

/-- Begin run or period `k` of a Traverse at Datum Time `b`: flags EMPTY, local Stakes at INIT, Legs instantiated
(R87, R89, R175); a period whose low 32 bits are 0, other than period 0, writes PERIOD_WRAP (R92). -/
def beginRun (s : State) (c h k b : Nat) : State :=
  match travOf s c h with
  | none => s
  | some t =>
    let s := emptyFlags s t
    let s := modTrav s c h fun t => let t := resetLocals t; { t with run := some (freshRun t k b) }
    let s := if k % 4294967296 = 0 ∧ k ≠ 0 then event s c 0x0009 0 [(0x10, 2, h), (0x18, 8, k)] else s
    instantiateAll s

/-! ### Boundary actions (R94, R97) -/

/-- A Leg's place after the boundary: dropped, or starting to abort; a Mark Leg is aborted at once. -/
def atBoundary (s : State) (c : Nat) (g : Leg) (r : LegRun) : LegRun :=
  match r.st with
  | .done _ => r
  | .running =>
    if g.kind = 6 then { r with st := .done ABORTED_BOUNDARY, warn := subWarn s c g ABORTED_BOUNDARY 0 } else { r with st := .aborting }
  | .aborting => r
  | _ => { r with st := .done DROPPED_LATE }

/-- Write the completions that the boundary itself brings: dropped Legs that report, aborted Mark Legs (R94, R96). -/
def boundaryRecords (s : State) (t : Trav) (r : Run) (b : Nat) : State :=
  ((enum (t.legs.zip r.legs)).filter fun e => !isDone e.2.2).foldl (fun s e =>
    let x := atBoundary s t.ctx e.2.1 e.2.2
    match x.st with
    | .done st =>
      if writesOwn e.2.1 st then
        record s t.ctx (.cq (legRec s t r.k ⟨t.ctx, t.handle, e.1⟩ e.2.1 st x.warn 0 b))
      else s
    | _ => s) s

/-- Take a Traverse's Mark Legs off the Marks that wait (R94, item 2). -/
def dropMarks (s : State) (c h : Nat) : State :=
  modCtx s c fun x => { x with marks := x.marks.filter fun m => !(m.leg.any fun l => l.handle == h) }

/-- Boundary actions of the run or period under way, at `b`: Legs not started are dropped, running ones start to abort, the
summary is due; when `stop`, no run or period follows (R94, R97). -/
def boundary (s : State) (c h b : Nat) (stop : Bool) : State :=
  match travOf s c h with
  | none => s
  | some t =>
    match t.run with
    | none => s
    | some r =>
      let e : Ending := { run := { r with legs := (t.legs.zip r.legs).map fun p => atBoundary s c p.1 p.2 }, at_ := b, stop := stop }
      let s := dropMarks s c h
      let s := boundaryRecords s t r b
      let s := modTrav s c h fun t => let t := resetLocals t; { t with run := none, ending := t.ending ++ [e] }
      let s := { s with outlets := s.outlets.map fun (o : Nat × Outlet) =>
        (o.1, { o.2 with waiting := o.2.waiting.filter fun w => !(w.leg.ctx == c && w.leg.handle == h) }),
                        fans := s.fans.filter fun f => !(f.leg.ctx == c && f.leg.handle == h) }
      rescan s

/-- The Traverse's boundary actions will take it to RESIDENT. -/
def stopping (t : Trav) : Bool := t.ending.any (·.stop)

/-- Start a run now: state RUNNING, bases taken, Legs instantiated; a deadline already reached brings its boundary actions
at once (R87, R89, R91, R97). -/
def startRun (s : State) (c h tag flags start deadline : Nat) : State :=
  let s := match travOf s c h with
    | none => s
    | some t =>
      let t := resetLocals t
      let s := modTrav s c h fun _ => t
      modTrav s c h fun t => { t with bases := takeBases s t }
  let s := modTrav s c h fun t => { t with st := .running, tag := tag, flags := flags, start := start, deadline := deadline, next := 1 }
  let s := beginRun s c h 0 s.sup.now
  if deadline ≠ 0 ∧ deadline ≤ s.sup.now then boundary s c h s.sup.now true else s

end Sys2Proof.Machine
end

