-- ==== Sys2Proof/Machine/Cmd.lean ====
section
/-!
DEFINITION. How commands are taken and completed: context commands (R74, R75, R415), Admin commands (R54, R71), and the
reads that Marks wait for (R104).
The model's own: log 1 (DESIGN CHOICE), log 22 (DEDUCED).
-/
namespace Sys2Proof.Machine
open Sys2Proof

/-- What a command's own rules give: the package after it, its status and result; `later` when its completion is written by
a later step. `trav` is the Traverse handle of the completion (Table 2.7). -/
structure CmdRes where
  st     : State
  status : Nat := 0
  result : Nat := 0
  trav   : Nat := 0xFFFF
  later  : Bool := false

/-- A command completed at once with a status and no other effect. -/
def CmdRes.refuse (s : State) (status : Nat) : CmdRes := { st := s, status := status }

/-- The context takes its next command: it is open, none is under way (R74), it is not stopped by a full queue (R72), its
port's Plat is not held by an Update Reset (R409), and the package has not tripped (R446). -/
def takes (s : State) (x : Ctx) : Bool :=
  x.busy.isNone && !stalled x && !(platOf s (hostPlat s x.port)).hold && !s.sup.tripped

/-- The entry of the command leaves the entries fetched and not executed (R68). -/
def dropEntry (s : State) (c : Nat) : State :=
  modCtx s c fun x => { x with ring := { x.ring with fetched := x.ring.fetched.tail } }

/-- Write a command's completion, but for a quiet command that succeeds without REPORT (R75). -/
def finishCmd (h : CmdHdr) (quiet : Bool) (r : CmdRes) : State :=
  if r.later then r.st
  else if quiet && decide (r.status = 0) && !bit h.flags 1 then r.st
  else record r.st h.ctx (.cq (cmdRec r.st h.tag h.flags r.trav r.status r.result))

/-- Execute context command `i`, if the context takes one now and it is the next in its ring (R74); in the Terminal state it
completes 0x03FF, naming the Traverse that it names (R415, Table 2.7). -/
def ctxCmd (s : State) (i : Instr) (h : CmdHdr) (quiet : Bool) (body : State → Ctx → CmdRes) : State :=
  match ctxOf s h.ctx with
  | none => s
  | some x =>
    if takes s x && fronts x.ring i h.tag h.flags then
      let s := dropEntry s h.ctx
      if terminal s then finishCmd h false { st := s, status := TERMINAL, trav := namedTrav i } else finishCmd h quiet (body s x)
    else s

/-- As `ctxCmd`, for a command that the Terminal state carries out (R415). -/
def ctxCmdAlways (s : State) (i : Instr) (h : CmdHdr) (body : State → Ctx → CmdRes) : State :=
  match ctxOf s h.ctx with
  | none => s
  | some x => if takes s x && fronts x.ring i h.tag h.flags then finishCmd h false (body (dropEntry s h.ctx) x) else s

/-- A host read of the context waits until its port's link is back in L0 (R362). -/
def hostHeld (s : State) (c : Nat) : Bool := ((ctxOf s c).map fun x => !linkUp s x.port).getD false

/-- Let a command's completion wait: the context's next command waits too (R74). -/
def later (s : State) (c : Nat) (b : Busy) : CmdRes :=
  { st := modCtx s c fun x => { x with busy := some b }, later := true }

/-- The first status of a list of checks that is not 0. -/
def firstFail : List Nat → Nat
  | [] => 0
  | a :: r => if a = 0 then firstFail r else a

/-- A status when a condition fails. -/
def need (ok : Bool) (status : Nat) : Nat := if ok then 0 else status

/-- Admin command `i`, taken when the port's Admin Ring is on and it is the next in it; it always writes its completion (R54, R71,
R75). -/
def adminCmd (s : State) (i : Instr) (h : AdmHdr) (body : State → CmdRes) : State :=
  if adminOn (portOf s h.port) && decide (h.port < nHost s) && !s.sup.tripped && fronts (portOf s h.port).ring i h.tag h.flags then
    let s := modPort s h.port fun x => { x with ring := { x.ring with fetched := x.ring.fetched.tail } }
    let r := body s
    if r.later then r.st
    else adminRec r.st h.port (.cq (cmdRec r.st h.tag h.flags r.trav r.status r.result))
  else s

/-! ### Marks (R104) -/

/-- Every record stamped earlier than `m` has been written to its ring. -/
def earlierWritten (s : State) (m : Nat) : Bool :=
  s.ctxs.all (fun e => (e.2.held.all fun r => decide (m ≤ r.stamp)) && (e.2.queue.all fun r => decide (m ≤ recStamp r)) &&
    e.2.marks.all fun k => decide (m ≤ k.stamp)) &&
  s.ports.all fun e => e.2.aheld.all fun r => decide (m ≤ recStamp r)

/-- An earliest stamp lies before `m`. -/
def before (m : Nat) : Option Nat → Bool
  | none => false
  | some t => decide (t < m)

/-- A flush read counts on the port: its link is up, its PF in D0, its Admin Doorbell Page base set. -/
def canFlush (s : State) (p : Nat) : Bool := linkUp s p && !(fnOf s p .pf).d3 && adbBase (portOf s p) != 0

/-- The ports whose flush read a Mark stamped `m` still waits for. -/
def flushNeeded (s : State) (m : Nat) : List Nat :=
  (List.range (nHost s)).filter fun p =>
    canFlush s p && (before m (portOf s p).carried || before m (portOf s p).flushing)

/-- Issue a flush read on a port: what it has carried is covered by it. -/
def issueFlush (s : State) (p : Nat) : State :=
  let s := emit s (.hostRead p (adbBase (portOf s p)) 16 none)
  modPort s p fun x => { x with flushing := x.carried, carried := none }

/-- Issue the flush reads that the Marks of every context need and that are not under way. -/
def markScan (s : State) : State :=
  let ms := s.ctxs.flatMap fun e => e.2.marks.map (·.stamp)
  (ms.filter (earlierWritten s)).foldl (fun s m =>
    ((flushNeeded s m).filter fun p => (portOf s p).flushing.isNone).foldl issueFlush s) s

/-! ### Records on their way to the rings (R104, R105) -/

/-- The stamps at or after which records of context `c` are still to arise from boundaries that have come: a record is written only
once none can precede it (R94, R97, R105). -/
def recordFloors (s : State) (c : Nat) : List Nat :=
  (s.travs.filter fun e => e.2.ctx == c).flatMap fun e =>
    (e.2.ending.map fun x => x.at_ + 1000) ++ (e.2.run.bind (runEnd e.2)).toList

/-- A record may be written to its ring: Datum Time has passed its stamp, so that no record of an earlier or equal stamp is still to
arise, and no Mark holds it (R104, R105). -/
def canWrite (s : State) (c : Nat) (x : Ctx) (r : Rec) : Bool :=
  decide (recStamp r < s.sup.now) && (recordFloors s c).all (fun t => decide (recStamp r < t)) && !behindMark x r

/-- Write the records of a context whose turn has come, in their order. -/
def flushCtx (s : State) (c : Nat) : State :=
  match ctxOf s c with
  | none => s
  | some x =>
    let go := x.queue.filter (canWrite s c x)
    go.foldl (fun s r => pushRec s c r)
      (modCtx s c fun x => { x with queue := x.queue.filter fun r => !canWrite s c x r })

/-- Write the records of every context whose turn has come, and issue the flush reads that Marks then need. -/
def flushRecords (s : State) : State := markScan ((openCtxs s).foldl flushCtx s)

end Sys2Proof.Machine
end

