-- ==== Sys2Proof/Machine/Sched.lean ====
section
/-!
DEFINITION. The Traverse Scheduler and the Leg Dispatchers: LEG_INSTANTIATE (R89), LEG_DISPATCH with its access test and
view bindings (R84, R88, R90, R164), NULL_LEG (R82), and the start, boundaries and ends of runs and periods: RUN_START,
RUN_DEADLINE, PERIOD_BEGIN, PERIOD_BOUNDARY, PERIOD_SUMMARY (R91 to R97). LEG_ABORT_DONE and LEG_WATCHDOG_STOP, which need
every engine's output ranges, stand in Machine/Stops.lean.
The model's own: log 23 (DEDUCED).
-/
namespace Sys2Proof.Machine
open Sys2Proof

def execLegInstantiate (plat : Nat) (s : State) : Host.Outcome State Fault Refusal :=
  .next (if plat < nPlats s then instantiateOn s plat else s)

/-! ### Engines and their queues -/

/-- Two Legs are for one engine: same context, same Station index, same kind (R26, R27). -/
def sameEngine (l m : LegRef) (g f : Leg) : Bool := l.ctx == m.ctx && g.stn == f.stn && g.kind == f.kind

/-- The engine of a Leg is held by a Leg that runs or aborts (R27, R100); Mark and Null Legs take no engine. -/
def engineBusy (s : State) (l : LegRef) (g : Leg) : Bool :=
  decide (g.kind < 6) && (allLegs s).any fun e => sameEngine l e.1 g e.2.1 && onEngine e.2.2

/-- The Datum Time at which a Leg became ready. -/
def readySince (r : LegRun) : Option Nat :=
  match r.st with
  | .ready t => some t
  | _ => none

/-- A Leg is the first of those ready for its engine (R90). -/
def firstReady (s : State) (l : LegRef) (g : Leg) (since : Nat) : Bool :=
  (allLegs s).all fun e =>
    match readySince e.2.2 with
    | some t => !sameEngine l e.1 g e.2.1 || !lexLt [t, e.1.handle, e.1.leg] [since, l.handle, l.leg]
    | none => true

/-- The Plat's repair under way is a substitution of the Station: dispatch to it waits (R433, R434). -/
def stationHeld (s : State) (p stn : Nat) : Bool := ((platOf s p).repairs.head?.map fun r => r.stn == some stn).getD false

/-- Dispatch goes on for a context: neither stopped by a full queue (R72), nor in the Terminal state (R414), nor tripped
(R446). -/
def dispatchOn (s : State) (c : Nat) : Bool :=
  match ctxOf s c with
  | none => false
  | some x => !stalled x && !terminal s && !s.sup.tripped

/-! ### The access test (R84) -/

/-- The engine of a Leg also reads its output operand `i`: Filter State, Track Table, Solution, scratch, and the tensors
that a Tensor Program's Steps read (R84). -/
def readsOutput (s : State) (w : Who) (g : Leg) (i : Nat) : Bool :=
  match g.kind with
  | 0 =>
    match rdName s w g.desc 0 64 with
    | none => false
    | some h =>
      (List.range (fld h 6 2)).any fun n =>
        match rdName s w g.desc (fld h 0x14 4 + 64 * n) 64 with
        | none => false
        | some b => [fld b 4 2, fld b 6 2, fld b 8 2, fld b 0x14 2, fld b 0x16 2].any fun t =>
            decide (t < fld h 8 2) &&
              ((rdName s w g.desc (fld h 0x10 4 + 48 * t) 1).map fun e => fld e 0 1 == i).getD false
  | 3 => i == 0
  | 4 => i == 1 || i == 3
  | _ => i == 3

/-- The test of one named object for a role: 0, ACCESS_DENIED, or INTEGRITY where its Plat is out of service (R84, R424). An object in the
Archive tier is denied with it (R320), but for an engine whose own start checks place that test (`arch`). -/
def nameAccess (s : State) (c h id off : Nat) (rd wr arch : Bool) : Nat :=
  match viewNamed s c id with
  | some v =>
    let own := match v with
      | .cam _ x => x.paired.isNone && (x.mode == 0 || x.owner.isNone || x.owner == some h)
      | .pair _ p => p.mode == 0 || p.owner.isNone || p.owner == some h
    need (!wr && decide (off < viewLength s v) && own) ACCESS_DENIED
  | none =>
    match resolve s c id with
    | none => ACCESS_DENIED
    | some (k, r) =>
      match tget s.objs k with
      | none => ACCESS_DENIED
      | some o => firstFail [
          need (decide (off < o.length) && (!rd || hasRight r 0) && (!wr || hasRight r 1) && (arch || !inArchive o)) ACCESS_DENIED,
          need (decide ((platOf s o.home).st ≠ .out)) INTEGRITY]

/-- The access test of a Leg, and of the grant slots of its signals (R84, R88). -/
def accessTest (s : State) (w : Who) (g : Leg) : Nat :=
  let arch := g.kind == 4
  firstFail ([if g.desc = 0 then need (decide (4 < g.kind ∨ g.kind = 2)) ACCESS_DENIED
      else nameAccess s w.ctx w.handle g.desc 0 true false arch] ++
    ((enum g.ops).filter fun e => e.2.obj != 0).map (fun e =>
      nameAccess s w.ctx w.handle e.2.obj e.2.off (!isOut e.2 || readsOutput s w g e.1) (isOut e.2) arch) ++
    (g.sigs.filter fun e => refSpace e.ref == 2).map fun e =>
      need (stakeRef s w.ctx (some w.handle) e.ref true).isSome ACCESS_DENIED)

/-! ### View bindings (R164) -/

/-- The view's binding for a run or period, taken now if there is none: newest or oldest frame or pair by its mode. -/
def bindView (s : State) (w : Who) : View → Option State
  | .cam k c =>
    if c.binds.any (bindOf w) then some s
    else
      match if c.mode = 0 then c.frames.getLast? else c.frames.head? with
      | none => none
      | some f =>
        let b : ViewBind := { handle := w.handle, k := w.k, began := w.began, left := f.index, number := f.index }
        some (modCam s k fun c => { c with binds := c.binds ++ [b], owner := if c.mode = 1 then some w.handle else none })
  | .pair k p =>
    if p.binds.any (bindOf w) then some s
    else
      match if p.mode = 0 then p.pairs.getLast? else p.pairs.head? with
      | none => none
      | some (n, l, r) =>
        let b : ViewBind := { handle := w.handle, k := w.k, began := w.began, left := l, right := r, number := n }
        some (modPair s k fun p => { p with binds := p.binds ++ [b], owner := if p.mode = 1 then some w.handle else none })

/-- Bind every view that a Leg names, each once. -/
def bindViews (s : State) (w : Who) (g : Leg) : Option State :=
  ((g.desc :: g.ops.map (·.obj)).eraseDups.filterMap (viewNamed s w.ctx)).foldl (fun a v => a.bind fun s => bindView s w v) (some s)

/-! ### Cut-offs (R290, R302, R304) -/

/-- The service whose Inbox a context's Object ID names. -/
def serviceOf (s : State) (c id : Nat) : Option (Nat × Service) := s.services.find? fun e => e.2.ctx == c && e.2.inbox == id

/-- Bytes of an Inbox entry: an envelope and a Query Set of QCAP records (R301). -/
def inboxEntry (qcap dim : Nat) : Nat := 128 + qcap * (64 + 4 * dim)

/-- Offset of Inbox entry `j`, by the entry size of the Inbox header. -/
def inboxAt (s : State) (w : Who) (id depth j : Nat) : Nat :=
  64 + j % depth * ((rdName s w id 8 4).map leNat).getD 0

/-- HEAD and TAIL of an Inbox. -/
def inboxEnds (s : State) (w : Who) (id : Nat) : Nat × Nat :=
  (((rdName s w id 0 4).map leNat).getD 0, ((rdName s w id 4 4).map leNat).getD 0)

/-- LOCAL_DEADLINE of Inbox entry `j`. -/
def inboxLimit (s : State) (w : Who) (id depth j : Nat) : Nat :=
  ((rdName s w id (inboxAt s w id depth j + 16) 8).map leNat).getD 0

/-- The first entry from HEAD whose LOCAL_DEADLINE lies after `t` (R304). -/
def inboxTake (s : State) (w : Who) (id depth t : Nat) : Option Nat :=
  let (h, e) := inboxEnds s w id
  ((List.range (sub32 e h)).map fun i => wrap32 (h + i)).find? fun j => decide (t < inboxLimit s w id depth j)

/-- DEADLINE that a search Leg's queries carry, 0 for none. -/
def queryDeadline (s : State) (w : Who) (g : Leg) (inbox : Bool) (t : Nat) : Nat :=
  match opAt g 0 with
  | none => 0
  | some o =>
    if inbox then
      match serviceOf s w.ctx o.obj with
      | none => 0
      | some (_, v) => ((inboxTake s w o.obj v.depth t).map (inboxLimit s w o.obj v.depth)).getD 0
    else ((rdOp s w o 8 8).map leNat).getD 0

/-- The cut-off that a SEARCH or FAN_OUT fixes at dispatch (R290, R302). -/
def cutOff (s : State) (w : Who) (t : Trav) (r : Run) (g : Leg) (pace : Nat) : Option Nat :=
  if g.kind = 2 ∧ (g.subop = 0 ∨ g.subop = 2) then
    match rdName s w g.desc 0 128 with
    | none => none
    | some d =>
      let q := queryDeadline s w g (decide (g.subop = 0) && bit (fld d 9 1) 1) s.sup.now
      let ends := (runEnd t r).toList ++ (if q = 0 then [] else [q])
      match ends with
      | [] => none
      | e :: l => some (l.foldl min e - ceilDiv (fld d 0x0C 4 * 64) pace)
  else none

/-! ### LEG_DISPATCH -/

/-- The Chain Group that a take names: bound by the context with that Chain Descriptor (R143). -/
def takeGroup (s : State) (c desc : Nat) : Option (Nat × Chain) := s.groups.find? fun e => e.2.ctx == c && e.2.desc == desc

/-- Start a Leg that has passed its tests: what its dispatch fixes is kept with it; a Mark Leg's stamp is taken (R104). -/
def startLeg (s : State) (l : LegRef) (t : Trav) (r : Run) (g : Leg) (w : Who) : State :=
  let pace := effectivePace s (crewPlat s l.ctx g.stn)
  let cut := cutOff s w t r g pace
  let q := takeGroup s l.ctx g.desc
  let s := modRun (dropSnaps { s with fans := s.fans.filter fun f => f.leg != l } l) l fun x =>
    { x with st := .running, at_ := s.sup.now, from_ := s.sup.now, pace := pace, iss := issuedNow s (crewPlat s l.ctx g.stn),
             tcut := cut, cut := none,
             taken := [], sent := [],
             quota := (q.map fun e => e.2.queue.length).getD 0, lost := (q.map fun e => decide (e.2.st = .lost)).getD false }
  if g.kind = 6 then
    let m : MarkWait := { stamp := s.sup.now, tag := t.tag, irq := bit g.lflags 1, leg := some l }
    markScan (modCtx s l.ctx fun x => { x with marks := x.marks ++ [m] })
  else s

/-- Dispatch a ready Leg (R90): with its index unmapped it completes DROPPED_FAULT (R45); else, once its engine is free and
it is first in line, it is tested and started, or completes with what its test gives. -/
def legDispatch (s : State) (l : LegRef) : State :=
  match travOf s l.ctx l.handle, legOf s l, runOf s l with
  | some t, some g, some x =>
    match t.run, readySince x, crewSlot s l.ctx g.stn with
    | some r, some since, some slot =>
      if dispatchOn s l.ctx && inTime s l then
        match slot.stn with
        | none => completeLeg s l DROPPED_FAULT 0 false 0
        | some stn =>
          if ready s slot.plat && !(platOf s slot.plat).hold && !stationHeld s slot.plat stn && !engineBusy s l g &&
              firstReady s l g since then
            let w := whoOf s l
            match accessTest s w g with
            | 0 =>
              match bindViews s w g with
              | some s => startLeg s l t r g w
              | none => completeLeg s l ACCESS_DENIED 0 false 0
            | st => completeLeg s l st 0 false 0
          else s
      else s
    | _, _, _ => s
  | _, _, _ => s

def execLegDispatch (l : LegRef) (s : State) : Host.Outcome State Fault Refusal := .next (legDispatch s l)

/-- A Null Leg completes: it only applies its signals (R82). -/
def nullLeg (s : State) (l : LegRef) : State :=
  match legOf s l with
  | some g => if g.kind = 7 ∧ legRuns s l then completeLeg s l 0 0 false 0 else s
  | none => s

def execNullLeg (l : LegRef) (s : State) : Host.Outcome State Fault Refusal := .next (nullLeg s l)

/-! ### Runs -/

/-- A context is stopped by its full queue (R72). -/
def ctxStalled (s : State) (c : Nat) : Bool := ((ctxOf s c).map stalled).getD false

/-- The start time of the run that a context's command under way asks for is reached (R91, R72). -/
def runStart (s : State) (c h : Nat) : State :=
  match (ctxOf s c).bind (·.busy), travOf s c h with
  | some (.run n tag flags), some t =>
    if n = h ∧ t.st = .resident ∧ t.start ≤ s.sup.now ∧ ¬ ctxStalled s c then
      finishBusy (startRun s c h tag flags t.start t.deadline) c tag flags h 0 0
    else s
  | _, _ => s

def execRunStart (ctx handle : Nat) (s : State) : Host.Outcome State Fault Refusal := .next (runStart s ctx handle)

/-- A run's deadline is reached: its boundary actions begin (R97). -/
def runDeadline (s : State) (c h : Nat) : State :=
  match travOf s c h with
  | none => s
  | some t =>
    if t.st = .running ∧ t.run.isSome ∧ t.deadline ≠ 0 ∧ t.deadline ≤ s.sup.now then boundary s c h t.deadline true else s

def execRunDeadline (ctx handle : Nat) (s : State) : Host.Outcome State Fault Refusal := .next (runDeadline s ctx handle)

/-! ### Periods -/

/-- Period `next` of a Traverse begins at `b`, or is skipped while its context is stopped (R72, R92). -/
def nextPeriod (s : State) (c h b : Nat) : State :=
  match travOf s c h with
  | none => s
  | some t =>
    let k := t.next
    if ctxStalled s c then
      modTrav s c h fun t => { t with next := k + 1, run := none, skipped := t.skipped + 1,
                                      firstSkip := if t.skipped = 0 then k else t.firstSkip }
    else beginRun (modTrav s c h fun t => { t with next := k + 1 }) c h k b

/-- An armed Traverse reaches B0: period 0 begins (R91). -/
def periodBegin (s : State) (c h : Nat) : State :=
  match travOf s c h with
  | none => s
  | some t =>
    if t.st = .armed ∧ t.b0 ≤ s.sup.now then
      nextPeriod (modTrav (emptyFlags s t) c h fun t => { t with st := .periodic }) c h t.b0
    else s

def execPeriodBegin (ctx handle : Nat) (s : State) : Host.Outcome State Fault Refusal := .next (periodBegin s ctx handle)

/-- The command that a context has under way on a Traverse until its boundary actions are done. -/
def endBusy (s : State) (c h : Nat) : State :=
  match (ctxOf s c).bind (·.busy) with
  | some (.disarm n tag flags) => if n = h then finishBusy s c tag flags h 0 0 else s
  | some (.cancel n tag flags) => if n = h then finishBusy s c tag flags h 0 0 else s
  | _ => s

/-- A Period Boundary: the flags of the Traverse EMPTY (R175), the ending period's boundary actions, then the next period, or the end of the
Traverse's periods when the count is exhausted or a DISARM pends (R91, R92, R94). -/
def periodBoundary (s : State) (c h : Nat) : State :=
  match travOf s c h with
  | none => s
  | some t =>
    let b := t.b0 + t.next * t.period
    if t.st = .periodic ∧ ¬ stopping t ∧ b ≤ s.sup.now then
      let s := emptyFlags s t
      let stop := t.disarm || (t.count != 0 && decide (t.count ≤ t.next))
      if t.run.isSome then
        let s := boundary s c h b stop
        if stop then s else nextPeriod s c h b
      else if stop then
        if t.ending.isEmpty then endBusy (modTrav s c h fun t => { t with st := .resident, disarm := false }) c h
        else modTrav s c h fun t => { t with ending := t.ending.map fun e => { e with stop := true } }
      else nextPeriod s c h b
    else s

def execPeriodBoundary (ctx handle : Nat) (s : State) : Host.Outcome State Fault Refusal :=
  .next (periodBoundary s ctx handle)

/-- The summary of a period, or of a run that its deadline or a CANCEL ended, 1,000 ns after its boundary (R94, R97); the
Traverse's views are released, and where nothing follows it is RESIDENT (R91). -/
def periodSummary (s : State) (c h : Nat) : State :=
  match travOf s c h with
  | none => s
  | some t =>
    match t.ending with
    | [] => s
    | e :: rest =>
      if e.at_ + 1000 ≤ s.sup.now ∧ e.run.legs.all isDone then
        let kind := if t.st = .periodic then 2 else 3
        let s := record s c (.cq (summary t e.run kind (e.at_ + 1000)))
        let s := modTrav s c h fun t =>
          if e.stop then { t with ending := rest, st := .resident, disarm := false } else { t with ending := rest }
        let s := releaseViews s { ctx := c, handle := h, k := e.run.k, began := e.run.began }
        if e.stop then endBusy s c h else s
      else s

def execPeriodSummary (ctx handle : Nat) (s : State) : Host.Outcome State Fault Refusal :=
  .next (periodSummary s ctx handle)

end Sys2Proof.Machine
end

