-- ==== Sys2Proof/Machine/Chain.lean ====
section
/-!
DEFINITION. The Chain Unit (chapter 3): stream slots and intake checks (R120 to R125), Chain Groups and their commands
(R126 to R129), CIC decimation, resampling, Time of Validity, output entries, comparators, clears, broken lines (R130 to
R154).
The model's own: log 6 (DESIGN CHOICE), log 27 (DEDUCED), log 28 (DEDUCED).
-/
namespace Sys2Proof.Machine
open Sys2Proof

/-- An effect of sample processing on the rest of the package: an event to the owner, one added to a Stake, or an entry written at
an offset of the group's Chain Output Queue. -/
inductive Fx where
  | ev (type status : Nat) (payload : List Fld)
  | sig (ref : Nat)
  | put (off : Nat) (entry : Bytes)
  deriving DecidableEq, Repr

/-- A group while samples pass through it, its effects newest first, and the next free value. -/
structure ChainAcc where
  g    : Chain
  fx   : List Fx := []
  free : Nat := 0
  deriving DecidableEq, Repr

/-- An event of Table 3.10 with the group's handle. -/
def chainEv (g : Chain) (type status : Nat) (payload : List Fld) : Fx := .ev type status ((0x10, 2, g.handle) :: payload)

/-- Integer part of a ToV, toward minus infinity, as 8 bytes (Table 3.6). -/
def tovInt (t : Int) : Nat := unsigned 64 (t / 4294967296)

/-- Fraction of a ToV. -/
def tovFrac (t : Int) : Nat := (t % 4294967296).toNat

/-- Entry size (R141). -/
def entrySize (nch : Nat) : Nat := 8 * ceilDiv (24 + 4 * nch) 8

/-- An output entry as bytes (Table 3.6). -/
def chainEntryBytes (nch : Nat) (e : Entry) : Bytes :=
  let b := le 8 (tovInt e.tov) ++ le 4 (tovFrac e.tov) ++ le 4 e.comp ++ le 1 e.flags ++ le 1 nch ++ le 2 e.seq ++ le 4 0 ++
    e.values.flatMap fun v => le 4 (unsigned 32 v)
  b ++ List.replicate (entrySize nch - b.length) 0

/-! ### Restart (R140) -/

/-- Registers of a channel zeroed; comparator counts zeroed, states kept (R146). The rail detector's run goes on: a restart does
three things, and ending a run is none of them (R140, R152). -/
def restartChan (g : Chain) (c : Chan) : Chan :=
  { integ := List.replicate g.order 0, comb := List.replicate g.order (List.replicate g.diff 0), hist := [],
    rail := c.rail, comps := c.comps.map fun k => { k with count := 0 } }

/-- Start of the resampler, p_0 = N * M + 11 (R136). -/
def resampleStart (g : Chain) : Nat := (g.order * g.diff + 11) * 4294967296

/-- Restart a group (R130, R140). -/
def restartGroup (g : Chain) : Chain :=
  { g with chans := g.chans.map (restartChan g), index := 0, outs := 0, tovs := [], rpos := resampleStart g, disc := true,
           susp := [] }

/-- State of a started group that is not lost: suspect until the event that clears it (R152). -/
def startedState (g : Chain) : ChainSt := if g.suspect then .suspect else .running

/-! ### Comparators (R145, R146) -/

/-- A comparator after a value, and whether it has changed state. -/
def compStep (v : Int) (k : Comp) : Comp × Bool :=
  if k.dwell = 0 then (k, false)
  else
    let hit := if k.high then decide (v ≤ k.level - k.hyst) else decide (k.level ≤ v)
    let n := if hit then k.count + 1 else 0
    if n = k.dwell then ({ k with high := !k.high, count := 0 }, true) else ({ k with count := n }, false)

/-- What a comparator's change of state does: its Stake signal and its event. -/
def compFx (g : Chain) (c j : Nat) (k : Comp) (tov : Int) : List Fx :=
  (if bit k.action (if k.high then 0 else 1) then [.sig g.compStake] else []) ++
  (if bit k.action 2 then
    [chainEv g 0x0115 0 [(0x12, 1, c), (0x13, 1, j), (0x14, 1, b2n k.high), (0x18, 8, tovInt tov)]] else [])

/-! ### Output entries (R141, R142) -/

/-- Queue an entry, or discard it when the queue is full; `susp` and `sat` are its flags 0 and 2. The model's own (log 28): SEQ counts
the entry itself, so the first is 1; the queue's bytes lie in the QUEUE object as a ring of QDEPTH entries, the first at offset 0; one
DISCONTINUITY event with reason 4 stands for a spell of discarded entries. -/
def queueEntry (a : ChainAcc) (tov : Int) (susp sat : Bool) (vals : List Int) : ChainAcc :=
  let g := a.g
  if g.qdepth ≤ g.queue.length then
    { a with g := { g with lostN := satAdd max32 g.lostN 1, full := true },
             fx := if g.full then a.fx else chainEv g 0x0114 0 [(0x12, 1, 4)] :: a.fx }
  else
    let r := (enum (g.chans.zip vals)).map fun e =>
      (e.1, e.2.1, (enum e.2.1.comps).map fun k => (k.1, compStep e.2.2 k.2))
    let chans := r.map fun e => { e.2.1 with comps := e.2.2.map (·.2.1) }
    let fx := r.flatMap fun e => e.2.2.flatMap fun k => if k.2.2 then compFx g e.1 k.1 k.2.1 tov else []
    let state := ofBits (chans.flatMap fun c => c.comps.map (·.high))
    let changed := r.any fun e => e.2.2.any (·.2.2)
    let n := wrap32 (g.seq + 1)
    let e : Entry :=
      { tov := tov, comp := state, flags := b2n susp + 2 * b2n (g.disc || g.full) + 4 * b2n sat + 8 * b2n changed,
        seq := n % 65536, values := vals }
    let back := if g.recovering then [chainEv g 0x0112 0 [(0x14, 8, tovInt tov)]] else []
    { a with g := { g with chans := chans, queue := g.queue ++ [e], seq := n, disc := false, full := false, good := tov,
                           recovering := false },
             fx := (.put (g.seq % g.qdepth * entrySize g.nch) (chainEntryBytes g.nch e) :: .sig g.emit :: (back ++ fx)).reverse ++ a.fx }

/-! ### Rail detector (R152) -/

/-- A channel's run after a sample of ToV `t`. -/
def railStep (ext : Option (Int × Int)) (t x : Int) (r : Rail) : Rail :=
  let extreme (v : Int) : Bool := match ext with
    | some (lo, hi) => v == lo || v == hi
    | none => false
  if 0 < r.run ∧ (x = r.last ∨ (extreme x ∧ extreme r.last)) then { r with last := x, run := r.run + 1 }
  else { last := x, run := 1, from_ := t }

/-- The rail detector on one sample of every channel: runs, spans of runs that have ended, and the group's suspect state. -/
def rails (a : ChainAcc) (ext : Option (Int × Int)) (t : Int) (xs : List Int) : ChainAcc :=
  let g := a.g
  let z := (g.chans.zip xs).map fun e => (e.1, railStep ext t e.2 e.1.rail)
  let ended := (enum z).filter fun e => decide (g.railK ≤ e.2.1.rail.run ∧ e.2.2.run = 1)
  let spans := ended.map fun e => ((g.index : Int) - (e.2.1.rail.run : Int), (g.index : Int) - 1)
  let keep := g.susp.filter fun p => decide ((g.index : Int) ≤ p.2 + (25 * g.factor + g.order * g.factor * g.diff : Nat))
  let g := { g with chans := z.map fun e => { e.1 with rail := e.2 }, susp := keep ++ spans,
                    railCh := (ended.head?.map (·.1)).getD g.railCh }
  match (enum g.chans).find? fun e => decide (g.railK ≤ e.2.rail.run) with
  | some (c, k) =>
    if !g.suspect then
      { a with g := { g with suspect := true, st := if g.st = .running then .suspect else g.st },
               fx := chainEv g 0x0111 5 [(0x12, 1, c), (0x13, 1, 1), (0x14, 8, tovInt k.rail.from_)] :: a.fx }
    else { a with g := g }
  | none =>
    if g.suspect then
      { a with g := { g with suspect := false, st := if g.st = .suspect then .running else g.st },
               fx := chainEv g 0x0111 0 [(0x12, 1, g.railCh), (0x13, 1, 0), (0x14, 8, tovInt t)] :: a.fx }
    else { a with g := g }

/-- A window of input indices holds a sample of a run that reached K. -/
def suspectIn (g : Chain) (lo hi : Int) : Bool :=
  (g.susp.any fun p => decide (p.1 ≤ hi ∧ lo ≤ p.2)) || g.chans.any fun c => decide (g.railK ≤ c.rail.run)

/-! ### CIC (R130 to R132, R138) -/

/-- The integrators after an input: each adds the one before it. -/
def integrate (x : BitVec 96) : List (BitVec 96) → List (BitVec 96)
  | [] => []
  | i :: r => (i + x) :: integrate (i + x) r

/-- The combs on an input: the output and the delays after it. -/
def combs (x : BitVec 96) : List (List (BitVec 96)) → BitVec 96 × List (List (BitVec 96))
  | [] => (x, [])
  | d :: r =>
    let y := combs (x - d.getLast?.getD 0) r
    (y.1, (x :: d.dropLast) :: y.2)

def clamp32 (v : Int) : Int := max (-2147483648) (min 2147483647 v)

/-- A comb output scaled to a channel value, before the clamp (R132). -/
def chainScaled (shift : Nat) (y : BitVec 96) : Int :=
  if shift = 0 then y.toInt else (y.toInt + (2 ^ (shift - 1) : Nat)) / (2 ^ shift : Nat)

/-- A product of halves of 2^-32 ns rounded to 2^-32 ns, ties to even (R138). -/
def halfEven (z : Nat) : Nat := if z % 2 = 0 then z / 2 else z / 2 + z / 2 % 2

/-- Group delay of a CIC output in units of 2^-32 ns (R138). -/
def groupDelay (g : Chain) (interval : Nat) : Nat := halfEven (g.order * (g.factor * g.diff - 1) * interval)

/-! ### Resampler (R133 to R136, R138) -/

/-- Integer part and phase of a position (R134). -/
def resamplePhase (p : Nat) : Nat × Nat :=
  let q := (p % 4294967296 + 16777216) / 33554432
  if q = 128 then (p / 4294967296 + 1, 0) else (p / 4294967296, q)

/-- A resampled value before the clamp: `h` are the taps of its phase, `y` the values from y[i - 11] on (R135). -/
def resampled (h y : List Int) : Int := (((h.zip y).map fun e => e.1 * e.2).foldl (· + ·) 0 + 262144) / 524288

/-- Queue the resampled outputs that the newest CIC output completes; the first argument bounds their number (at most 4
per CIC output, R136). -/
def resample : Nat → ChainAcc → ChainAcc
  | 0, a => a
  | n + 1, a =>
    let g := a.g
    let (i, q) := resamplePhase g.rpos
    if i + 13 ≤ g.outs then
      match g.tovs[12]? with
      | none => a
      | some (t, iv, _) =>
        let h := g.coeff.getD q []
        let raw := g.chans.map fun c => resampled h c.hist.reverse
        let z := q * (g.factor * iv)
        let up := if z % 128 = 0 then 0 else Config.freeNat a.free % 2
        let sat := g.tovs.any (·.2.2) || raw.any fun v => decide (clamp32 v ≠ v)
        let lo := (g.index : Int) - ((23 * g.factor + g.order * (g.factor * g.diff - 1) : Nat) : Int)
        let a := { a with g := { g with rpos := g.rpos + 18446744073709551616 / g.ratio },
                          free := if z % 128 = 0 then a.free else a.free + 1 }
        resample n (queueEntry a (t + ((z / 128 + up : Nat) : Int)) (suspectIn g lo g.index) sat (raw.map clamp32))
    else a

/-- Form CIC output k at its closing sample (R130, R138), which R154 suppresses while k < N * M. -/
def closeOutput (a : ChainAcc) (t : Int) (interval : Nat) : ChainAcc :=
  let g := a.g
  let z := g.chans.map fun c => (c, combs (c.integ.getLast?.getD 0) c.comb)
  let vals := z.map fun e => chainScaled g.shift e.2.1
  let sat := vals.any fun v => decide (clamp32 v ≠ v)
  let tov := t - (groupDelay g interval : Int)
  let chans := (z.zip vals).map fun e =>
    { e.1.1 with comb := e.1.2.2, hist := if g.resample then (clamp32 e.2 :: e.1.1.hist).take 24 else [] }
  let g' := { g with chans := chans, outs := g.outs + 1,
                     tovs := if g.resample then ((tov, interval, sat) :: g.tovs).take 24 else [] }
  let a := { a with g := g' }
  if g.resample then resample 6 a
  else if g.outs < g.order * g.diff then a
  else
    let lo := (g.index : Int) - ((g.order * (g.factor * g.diff - 1) : Nat) : Int)
    queueEntry a tov (suspectIn g' lo g.index) sat (vals.map clamp32)

/-! ### Samples -/

/-- One input sample of every channel, of ToV `t` (R137): clears and restarts first (R140, R147), then the rail detector,
the integrators, and the CIC output that it closes. -/
def sampleStep (b : Block) (a : ChainAcc) (n : Nat) (xs : List Int) : ChainAcc :=
  let t := b.tov + ((n * b.interval : Nat) : Int)
  let a :=
    if a.g.late || a.g.clears.any fun c => decide (c ≤ t) then
      let g := restartGroup { a.g with late := false, clears := a.g.clears.filter fun c => decide (t < c) }
      { a with g := g, fx := chainEv g 0x0114 0 [(0x12, 1, 5)] :: a.fx }
    else if n = 0 ∧ b.restart then { a with g := restartGroup a.g }
    else a
  let a := rails a b.ext t xs
  let g : Chain := { a.g with
    maxTov := some (max t (a.g.maxTov.getD t)),
    chans := (a.g.chans.zip xs).map fun e => { e.1 with integ := integrate (BitVec.ofInt 96 e.2) e.1.integ } }
  let a := { a with g := g }
  let a := if (g.index + 1) % g.factor = 0 then closeOutput a t b.interval else a
  { a with g := { a.g with index := a.g.index + 1 } }

/-- Apply the effects of sample processing of a group of context `c` with output queue `q` to the package. -/
def applyFx (s : State) (c q : Nat) (l : List Fx) : State :=
  rescan (l.foldl (fun s f => match f with
    | .ev ty st p => event s c ty st p
    | .sig r => signalRef s c none r 1
    | .put off d =>
      match objNamed s c q with
      | some (k, o) => wrObj s k off (d.take (o.length - off))
      | none => s) s)

/-- The block at the head of a group's buffer passes through the group (R125). -/
def chainBlockProcess (s : State) (c h : Nat) : State :=
  match tget s.groups (groupKey c h) with
  | none => s
  | some g =>
    match g.blocks with
    | [] => s
    | b :: r =>
      let a := (enum b.frames).foldl (fun a e => sampleStep b a e.1 e.2) { g := { g with blocks := r }, free := s.free }
      applyFx { modGroup s (groupKey c h) fun _ => a.g with free := a.free } c g.queueObj a.fx.reverse

def execChainBlockProcess (ctx group : Nat) (s : State) : Host.Outcome State Fault Refusal :=
  .next (chainBlockProcess s ctx group)

/-! ### Partner time (R115) -/

/-- Nearest integer of a quotient, halves away from zero. -/
def roundAway (n : Int) (d : Nat) : Int := if 0 ≤ n then (2 * n + d) / (2 * d) else -((2 * (-n) + d) / (2 * d))

/-- Convert a partner time of a port to Datum Time; none outside the range of R115. -/
def toDatum (m : Ptm) (h : Nat) : Option Int :=
  let dh := signed 64 (unsigned 64 ((h : Int) - m.h0))
  if m.valid ∧ dh ≤ 4294967296 ∧ -4294967296 ≤ dh then
    some (signed 64 (unsigned 64 (m.d0 + dh - roundAway (dh * m.rate) 1099511627776)))
  else none

/-! ### Sample Blocks (R120 to R124) -/

/-- Bits of an item (Table 3.1 FORMAT). -/
def itemBits : Nat → Nat
  | 0 => 1
  | 1 => 16
  | 2 => 24
  | _ => 32

/-- Item `i` of a payload (R122, R131). -/
def itemOf (fmt : Nat) (p : Mem) (i : Nat) : Int :=
  match fmt with
  | 0 => if bit (rdByte p (i / 8)).toNat (i % 8) then 1 else -1
  | 1 => signed 16 (rdNat p (2 * i) 2)
  | 2 => signed 24 (rdNat p (3 * i) 3)
  | _ => signed 24 (rdNat p (4 * i) 3)

/-- Payload length (R122). -/
def payloadLength (hd : Bytes) : Nat := ceilDiv (fld hd 0x18 2 * fld hd 0x1B 1 * itemBits (fld hd 0x1A 1)) 8

/-- The frames of a block. -/
def blockFrames (hd : Bytes) (p : Mem) : List (List Int) :=
  let n := fld hd 0x1B 1
  (List.range (fld hd 0x18 2)).map fun k => (List.range n).map fun c => itemOf (fld hd 0x1A 1) p (k * n + c)

/-- The extreme codes of a format (R152). -/
def extremes : Nat → Option (Int × Int)
  | 0 => none
  | 1 => some (-32768, 32767)
  | _ => some (-8388608, 8388607)

/-- T_FIRST in Datum Time, in units of 2^-32 ns, unsigned as Datum Time is (R109): none where it cannot be converted (R115, R124). -/
def blockTime (s : State) (port : Nat) (hd : Bytes) : Option Int :=
  if fld hd 0x1C 1 = 0 then some ((fld hd 8 8 * 4294967296 : Nat) : Int)
  else (toDatum (portOf s port).ptm (fld hd 8 8)).map (· * 4294967296)

/-- The group of a port's stream slot. -/
def slotGroup (s : State) (port slot : Nat) : Option (Nat × Chain) :=
  s.groups.find? fun e => e.2.port == port && e.2.slot == slot

/-- The discarding checks of Table 3.2 that precede the group's own, in order: the reason, 0 for none. -/
def blockReason (s : State) (g : Chain) (whole : Bool) (hd : Bytes) (p : Mem) : Nat :=
  let len := payloadLength hd
  firstFail [
    need (whole && decide (fld hd 0 4 = g.stream)) 1,
    need (decide (fld hd 0x1A 1 ≤ 3 ∧ fld hd 0x1B 1 = g.nch ∧ 1 ≤ fld hd 0x18 2 ∧ len ≤ 4096 ∧
      80 * 4294967296 ≤ fld hd 0x10 8 ∧ fld hd 0x1C 1 ≤ 1)) 2,
    need (decide (crc32c (rdBytes p 0 len) = fld hd 0x20 4)) 3,
    need (blockTime s g.port hd).isSome 4,
    need (decide (g.blocks.length < 4)) 5]

/-- Why an accepted block restarts its group: 1 SEQ, 2 DISCONT, 3 time, 0 for none (Table 3.2, R139). -/
def blockBreak (g : Chain) (hd : Bytes) (tov : Int) : Nat :=
  match g.lastSeq, g.predict with
  | some q, some p =>
    let tol2 := if g.tol = 0 then g.interval else 2 * g.tol * 4294967296
    if fld hd 4 4 ≠ wrap32 (q + 1) then 1
    else if bit (fld hd 0x1D 1) 0 then 2
    else if tol2 < 2 * (tov - p).natAbs then 3 else 0
  | _, _ => if bit (fld hd 0x1D 1) 0 then 2 else 0

/-- When a starvation timer that restarts at `now` expires, for a block period in 2^-32 ns (R151). -/
def starvesAt (g : Chain) (now period : Nat) : Nat := now + ceilDiv (g.starve * period) 4294967296

/-- Accept a block: it joins the buffer, the starvation timer restarts, the arrival Stake counts it; a lost group recovers
(R123, R124, R139, R151, R153). -/
def acceptBlock (s : State) (k : Nat) (g : Chain) (hd : Bytes) (p : Mem) (tov : Int) : State :=
  let brk := blockBreak g hd tov
  let iv := fld hd 0x10 8
  let n := fld hd 0x18 2
  let b : Block := { tov := tov, interval := iv, frames := blockFrames hd p,
                     restart := brk != 0 || g.again || decide (g.st = .lost), ext := extremes (fld hd 0x1A 1) }
  let g' := { g with blocks := g.blocks ++ [b], lastSeq := some (fld hd 4 4), predict := some (tov + ((n * iv : Nat) : Int)),
                     interval := iv, blockNs := n * iv, again := false,
                     starveAt := some (starvesAt g s.sup.now (n * iv)),
                     st := if g.st = .lost then startedState g else g.st, recovering := g.recovering || decide (g.st = .lost) }
  let s := modGroup s k fun _ => g'
  let s := if brk = 0 then s else event s g.ctx 0x0114 0 [(0x10, 2, g.handle), (0x12, 1, brk)]
  signal s g.ctx none g.arrive 1

/-- Check a committed block and accept or discard it (Table 3.2). -/
def checkBlock (s : State) (k : Nat) (g : Chain) (whole : Bool) (hd : Bytes) (p : Mem) : State :=
  match blockReason s g whole hd p, blockTime s g.port hd with
  | 0, some t => if g.st = .stopped then s else acceptBlock s k g hd p t
  | 0, none => s
  | r, _ => event s g.ctx 0x0113 (if r = 3 then INTEGRITY else CONFIG_REFUSED)
      [(0x10, 2, g.handle), (0x12, 1, r), (0x14, 4, fld hd 4 4)]

def modSlot (s : State) (port slot : Nat) (f : Slot → Slot) : State :=
  modPort s port fun x => { x with slots := tmod x.slots slot f }

/-- A write within a slot that no copy holds up: payload bytes are stored; header bytes are stored behind them; the write
that carries the header's last byte commits the block, and a header that came in pieces is marked (R120, R121). -/
def slotStore (x : Slot) (off : Nat) (d : Bytes) : Slot :=
  let m := wrBytes x.bytes off (d.take (0x1040 - off))
  let e := off + d.length
  if 0x1040 ≤ off ∨ e ≤ 0x1000 then { x with bytes := m }
  else if e < 0x1040 then { x with bytes := m, split := true }
  else
    let whole := off == 0x1000 && d.length == 64 && !x.split
    { x with bytes := m, split := !whole,
             staged := some (m.filter fun c => decide (c.1 < 0x1000), rdBytes m 0x1000 64) }

/-- A write into a slot: held while the staging copy of an earlier commit is under way (R121). -/
def slotWrite (x : Slot) (off : Nat) (d : Bytes) : Slot :=
  if x.staged.isSome then { x with held := x.held ++ [(off, d)] } else slotStore x off d

/-- A header write commits a block (R121). -/
def sampleBlockCommit (s : State) (port slot : Nat) (hd : Bytes) : State :=
  let x := portOf s port
  if !linkUp s port then s
  else if x.ctrl.enable && bit x.cfg.inForce 1 && (tget x.slots slot).isSome then
    modSlot s port slot fun x => slotWrite x 0x1000 (hd.take 64)
  else modPort s port fun x => { x with drops := satAdd max32 x.drops 1 }

def execSampleBlockCommit (port slot : Nat) (header : Bytes) (s : State) : Host.Outcome State Fault Refusal :=
  .next (sampleBlockCommit s port slot header)

/-- The staging copy ends: the writes held for it are applied in order, and the block is checked (R121). -/
def stagingCopyDone (s : State) (port slot : Nat) : State :=
  match (tget (portOf s port).slots slot).bind (·.staged), slotGroup s port slot with
  | some (p, hd), some (k, g) =>
    let whole := !((tget (portOf s port).slots slot).map (·.split)).getD false
    let s := modSlot s port slot fun x =>
      x.held.foldl (fun y w => slotWrite y w.1 w.2) { x with staged := none, split := false, held := [] }
    checkBlock s k g whole hd p
  | _, _ => s

def execStagingCopyDone (port slot : Nat) (s : State) : Host.Outcome State Fault Refusal := .next (stagingCopyDone s port slot)

/-- The starvation timer expires: the group is lost, its partial accumulation discarded, STREAM_LOST written (R151). -/
def starvationTimeout (s : State) (c h : Nat) : State :=
  match tget s.groups (groupKey c h) with
  | none => s
  | some g =>
    match g.starveAt with
    | none => s
    | some t =>
      if t ≤ s.sup.now ∧ (g.st = .running ∨ g.st = .suspect) then
        let s := modGroup s (groupKey c h) fun g => { restartGroup g with st := .lost, starveAt := none, blocks := [] }
        event s c 0x0110 STREAM_LOST [(0x10, 2, h), (0x14, 8, tovInt g.good), (0x1C, 4, tovFrac g.good)]
      else s

def execStarvationTimeout (ctx group : Nat) (s : State) : Host.Outcome State Fault Refusal :=
  .next (starvationTimeout s ctx group)

/-! ### Commands (R127, R128) -/

/-- A Chain Descriptor's fields are in range (Table 3.4). -/
def chainDescOk (d : Bytes) : Bool :=
  let q := fld d 0x18 4
  decide (3 ≤ fld d 0 1 ∧ fld d 0 1 ≤ 5 ∧ 1 ≤ fld d 1 1 ∧ fld d 1 1 ≤ 2 ∧ 2 ≤ fld d 2 2 ∧ fld d 2 2 ≤ 8192 ∧
    fld d 4 1 ≤ 72 ∧ fld d 5 1 ≤ 1 ∧ 16 ≤ q ∧ q ≤ 65536 ∧ 2 ^ Nat.log2 q = q ∧
    (fld d 5 1 = 0 ∨ (16777216 ≤ fld d 8 8 ∧ fld d 8 8 ≤ 17179869184)) ∧
    (fld d 0x20 2 = 0 ∨ (2 ≤ fld d 0x20 2 ∧ fld d 0x20 2 ≤ 1024)) ∧ (fld d 0x22 2 = 0 ∨ 16 ≤ fld d 0x22 2))

/-- The comparator entry at an offset of the descriptor (Table 3.8). -/
def compOf (d : Bytes) (o : Nat) : Comp :=
  { level := ifld d o 4, hyst := fld d (o + 4) 4, dwell := fld d (o + 8) 2, action := fld d (o + 10) 1 }

/-- The coefficient table: 128 phases of 24 signed 20-bit taps (R133). -/
def coeffTable (b : Bytes) : List (List Int) :=
  (List.range 128).map fun q => (List.range 24).map fun t => signed 20 (fld b (4 * (24 * q + t)) 4 % 1048576)

/-- `n` bytes from the start of an object that a command reads for a context with the read right: none when it names none,
or its position is Archive (R320). -/
def cmdRead (s : State) (c id n : Nat) : Option Bytes :=
  match resolve s c id with
  | none => none
  | some (k, r) =>
    match tget s.objs k with
    | none => none
    | some o => if hasRight r 0 ∧ n ≤ o.length ∧ ¬ inArchive o then rdObj s k 0 n else none

/-- An Object ID names an object whose home Plat is out of service: a command that names it is NOT_READY (R424). -/
def namesOut (s : State) (c id : Nat) : Bool :=
  match objNamed s c id with
  | some (_, o) => decide ((platOf s o.home).st = .out)
  | none => false

/-- The coefficient table that a Chain Descriptor names, none when it cannot be read (R133). -/
def chainCoeff (s : State) (c : Nat) (d : Bytes) : Option Bytes :=
  if fld d 5 1 = 0 then some [] else cmdRead s c (fld d 0x10 4) 12288

/-- A channel that CHAIN_BIND names is already bound (R126, R127). -/
def chainTaken (s : State) (c : Nat) (b : ChainBindBody) : Bool :=
  s.groups.any fun e => e.2.ctx == c && e.2.stn == b.station &&
    decide (b.first < e.2.first + e.2.nch) && decide (e.2.first < b.first + b.count)

/-- The checks of CHAIN_BIND on its entry's own fields: the channels, the port, the sync group, the Station (R127). A Crew index that
is unmapped counts as a field out of range (log 28). -/
def chainBindFields (s : State) (c : Nat) (b : ChainBindBody) : Bool :=
  let x := portOf s b.port
  decide (1 ≤ b.count ∧ b.first + b.count ≤ 16 ∧ b.port < nHost s ∧ (b.sync < 16 ∨ b.sync = 255)) &&
    ((crewSlot s c b.station).bind (·.stn)).isSome && !chainTaken s c b && (x.ctrl.enable && bit x.cfg.inForce 1)

/-- The checks of CHAIN_BIND on a descriptor that it has read: its fields, the references, readiness (R127, R423, R424, R471). -/
def chainBindStatus (s : State) (c : Nat) (x : Ctx) (b : ChainBindBody) (d : Bytes) : Nat :=
  let refs := [fld d 0x1C 2, fld d 0x1E 2, fld d 0x28 2]
  let q := objNamed s c (fld d 0x14 4)
  let coeffOut := fld d 5 1 != 0 && namesOut s c (fld d 0x10 4)
  firstFail (
    need (chainDescOk d && q.any (fun e => decide (position e.2 = .near)) && ((chainCoeff s c d).isSome || coeffOut)) CONFIG_REFUSED ::
    refs.map (refField x) ++ refs.map (fun r => refRight x r true) ++
    [need (inL0 s b.port && !namesOut s c (fld d 0x14 4) && !coeffOut) NOT_READY])

/-- The group that CHAIN_BIND makes of a descriptor: stopped, under a handle and a stream slot (R120, R126 to R128, R146). Channel c of
a descriptor, an entry or an event is the group's channel c, as it is in a payload (R122; log 28). -/
def chainOf (c : Nat) (b : ChainBindBody) (d : Bytes) (coeff : List (List Int)) (n slot : Nat) : Chain :=
  let chan (i : Nat) : Chan := { integ := [], comb := [], comps := [compOf d (0x40 + 24 * i), compOf d (0x4C + 24 * i)] }
  restartGroup
    { ctx := c, handle := n, stn := b.station, first := b.first, nch := b.count, desc := b.desc,
      stream := b.stream, port := b.port, slot := slot, sync := b.sync, order := fld d 0 1, diff := fld d 1 1,
      factor := fld d 2 2, shift := fld d 4 1, resample := fld d 5 1 == 1, ratio := fld d 8 8, coeff := coeff,
      queueObj := fld d 0x14 4, qdepth := fld d 0x18 4, arrive := fld d 0x1C 2, emit := fld d 0x1E 2,
      compStake := fld d 0x28 2, starve := if fld d 0x20 2 = 0 then 16 else fld d 0x20 2,
      railK := if fld d 0x22 2 = 0 then 256 else fld d 0x22 2, tol := fld d 0x24 4,
      chans := (List.range b.count).map chan }

/-- CHAIN_BIND: the checks, then the group, stopped, with the lowest free handle and stream slot (R120, R126 to R128); a descriptor
on a Plat out of service is NOT_READY after the entry's own fields (R423, R424). -/
def chainBind (h : CmdHdr) (b : ChainBindBody) (s : State) (x : Ctx) : CmdRes :=
  if !chainBindFields s h.ctx b then .refuse s CONFIG_REFUSED
  else if namesOut s h.ctx b.desc then .refuse s NOT_READY
  else
    match cmdRead s h.ctx b.desc 512 with
    | some d =>
      match chainBindStatus s h.ctx x b d with
      | 0 =>
        match lowestFree s.groups (groupKey h.ctx 0) 4096, lowestFree (portOf s b.port).slots 0 1024 with
        | some n, some slot =>
          let coeff := if fld d 5 1 = 0 then [] else coeffTable ((chainCoeff s h.ctx d).getD [])
          let s := { s with groups := tput s.groups (groupKey h.ctx n) (chainOf h.ctx b d coeff n slot) }
          { st := modPort s b.port fun y => { y with slots := tput y.slots slot {} }, result := n + 4096 * slot }
        | _, _ => .refuse s RESOURCE_FULL
      | st => .refuse s st
    | none => .refuse s CONFIG_REFUSED

def execChainBind (h : CmdHdr) (b : ChainBindBody) (s : State) : Host.Outcome State Fault Refusal :=
  .next (ctxCmd s (.chainBind h b) h false (chainBind h b))

/-- A command on a bound group of its context; another handle is refused. -/
def groupCmd (h : CmdHdr) (n : Nat) (f : State → Chain → State) (s : State) (_ : Ctx) : CmdRes :=
  match if n < 4096 then tget s.groups (groupKey h.ctx n) else none with
  | some g => { st := f s g }
  | none => .refuse s CONFIG_REFUSED

/-- Acceptance begins with a restart; no earlier block is held against the first one (R128, R140). The starvation timer of a group that
has accepted a block before runs from here; before any block a block period is not defined and no timer runs (R151). A group whose Crew
index is unmapped starts as any other (log 28). -/
def chainStart (s : State) (g : Chain) : State :=
  modGroup s (groupKey g.ctx g.handle) fun g =>
    { restartGroup g with st := startedState g, lastSeq := none, predict := none, again := true,
                          starveAt := if g.blockNs = 0 then none else some (starvesAt g s.sup.now g.blockNs), blocks := [],
                          recovering := false }

def execChainStart (h : CmdHdr) (group : Nat) (s : State) : Host.Outcome State Fault Refusal :=
  .next (ctxCmd s (.chainStart h group) h true (groupCmd h group chainStart))

/-- Acceptance ends; partial accumulations and blocks not processed are discarded, queued entries stay (R128). -/
def chainStop (s : State) (g : Chain) : State :=
  modGroup s (groupKey g.ctx g.handle) fun g => { restartGroup g with st := .stopped, blocks := [], starveAt := none }

def execChainStop (h : CmdHdr) (group : Nat) (s : State) : Host.Outcome State Fault Refusal :=
  .next (ctxCmd s (.chainStop h group) h true (groupCmd h group chainStop))

/-- Free a group's channels and stream slot, and discard its queued entries (R128). -/
def endGroup (s : State) (g : Chain) : State :=
  let s := { s with groups := tdel s.groups (groupKey g.ctx g.handle) }
  modPort s g.port fun x => { x with slots := tdel x.slots g.slot }

def execChainUnbind (h : CmdHdr) (group : Nat) (s : State) : Host.Outcome State Fault Refusal :=
  .next (ctxCmd s (.chainUnbind h group) h true (groupCmd h group endGroup))

/-! ### Clears (R147 to R150) -/

/-- A group has processed an input sample whose ToV is at least `t`. -/
def past (g : Chain) (t : Int) : Bool := g.maxTov.any fun m => decide (t ≤ m)

/-- TIMED_CLEAR: the context's members of a sync group, unless one of them is past the clear time (R149). -/
def timedClear (h : CmdHdr) (sync tc : Nat) (s : State) (_ : Ctx) : CmdRes :=
  let t : Int := ((tc * 4294967296 : Nat) : Int)
  let mine := (s.groups.filter fun e => e.2.ctx == h.ctx && e.2.sync == sync).map (·.1)
  if 15 < sync ∨ (mine.any fun k => ((tget s.groups k).map fun g => past g t).getD false) then .refuse s CONFIG_REFUSED
  else { st := mine.foldl (fun s k => modGroup s k fun g => { g with clears := g.clears ++ [t] }) s }

def execTimedClear (h : CmdHdr) (sync tc : Nat) (s : State) : Host.Outcome State Fault Refusal :=
  .next (ctxCmd s (.timedClear h sync tc) h true (timedClear h sync tc))

/-- The clear of a SYNC_IN edge is applied to one member at its clear time: it restarts at the first sample that reaches
that time, or, if it is past it, at its next sample, with SYNC_LATE (R148, R150). -/
def syncGroupClear (s : State) (c h : Nat) : State :=
  match tget s.groups (groupKey c h) with
  | none => s
  | some g =>
    match g.syncDue with
    | [] => s
    | tc :: r =>
      if tc ≤ s.sup.now then
        let t : Int := ((tc * 4294967296 : Nat) : Int)
        if past g t then
          event (modGroup s (groupKey c h) fun g => { g with late := true, syncDue := r }) c 0x0117 0
            [(0x10, 2, h), (0x12, 1, g.sync), (0x18, 8, tc)]
        else modGroup s (groupKey c h) fun g => { g with clears := g.clears ++ [t], syncDue := r }
      else s

def execSyncGroupClear (ctx group : Nat) (s : State) : Host.Outcome State Fault Refusal :=
  .next (syncGroupClear s ctx group)

/-! ### TAKE (R143, R144) -/

/-- STATE of a take header (Table 3.7). -/
def chainStNum : ChainSt → Nat
  | .running => 0
  | .suspect => 1
  | .lost => 2
  | .stopped => 3

/-- Take header (Table 3.7). -/
def takeHeader (taken remain lost st : Nat) (good : Int) : Bytes :=
  le 4 taken ++ le 4 remain ++ le 4 lost ++ le 1 st ++ List.replicate 3 0 ++ le 8 (tovInt good) ++ le 4 (tovFrac good) ++ le 4 0

/-- Entries that a TAKE copies: at most its capacity, and those queued before it started. -/
def takeCount (g : Leg) (x : LegRun) (q : Chain) : Nat := min (min (g.subop % 4096) x.quota) q.queue.length

/-- What a TAKE writes and completes with (R143, R144). -/
def takeOut (s : State) (l : LegRef) (g : Leg) (x : LegRun) (q : Chain) (o : OpEnt) : EngOut :=
  let n := takeCount g x q
  let got := q.queue.take n
  let out := takeHeader n (q.queue.length - n) q.lostN (chainStNum q.st) q.good ++ got.flatMap (chainEntryBytes q.nch) ++
    List.replicate ((g.subop % 4096 - n) * entrySize q.nch) 0
  let susp := decide (q.st = .suspect) || got.any fun e => bit e.flags 0
  { status := if x.lost then STREAM_LOST else if susp then 5 else 0, warn := if x.lost then 0 else if susp then 16 else 0,
    cond := got.any fun e => bit e.flags 3, tier := max 1 (opTier s l.ctx o 0 out.length), writes := [(o, 0, out)] }

/-- A Chain Unit Leg completes: up to its capacity of the entries queued before it started go to its output. -/
def take (s : State) (l : LegRef) : State :=
  match legOf s l, runOf s l with
  | some g, some x =>
    if legRuns s l && decide (g.kind = 5) then
      match takeGroup s l.ctx g.desc, opAt g 0 with
      | some (k, q), some o =>
        if g.subop / 4096 = 1 ∧ g.subop % 4096 ≠ 0 ∧ isOut o ∧ 32 + g.subop % 4096 * entrySize q.nch ≤ opRoom s l.ctx o then
          finishLeg (modGroup s k fun q => { q with queue := q.queue.drop (takeCount g x q), lostN := 0 }) l
            (takeOut s l g x q o)
        else refuseLeg s l INTEGRITY
      | _, _ => refuseLeg s l INTEGRITY
    else s
  | _, _ => s

def execTake (l : LegRef) (r : EngineRun) (s : State) : Host.Outcome State Fault Refusal :=
  .next (onSnaps s l fun s =>
    if r.bad && legRuns s l && ((legOf s l).any fun g => g.kind == 5) then finishLeg s l { status := INTEGRITY } else take s l)

end Sys2Proof.Machine
end

