-- ==== Sys2Proof/Machine/Time.lean ====
section
/-!
DEFINITION. Partner time and SYNC_IN (R112 to R119, R148, R358): PTM dialogues, the Time Map and its events, the capture of
SYNC_IN edges.
The model's own: log 29 (DEDUCED).
-/
namespace Sys2Proof.Machine
open Sys2Proof

/-! ### PTM (R112 to R114, R358) -/

/-- A port runs PTM dialogues: enabled in the HPT block and the DTM block, with its link in L0. -/
def ptmOn (s : State) (p : Nat) : Bool :=
  let x := portOf s p
  decide (p < nHost s) && s.sup.running && s.dtm.ctrl.enable && x.ctrl.enable && bit x.cfg.inForce 0 && inL0 s p

/-- One PTM interval after the last dialogue's start, the next PTM Request leaves (R112). -/
def ptmDialogueStart (s : State) (p : Nat) : State :=
  let m := (portOf s p).ptm
  let due := match m.startAt with
    | none => true
    | some t => decide (t + s.dtm.ptmInterval.inForce ≤ s.sup.now)
  if ptmOn s p && m.asked.isNone && due then
    modPort (emit s (.ptmRequest p)) p fun x =>
      { x with ptm := { x.ptm with asked := some s.sup.now, startAt := some s.sup.now } }
  else s

def execPtmDialogueStart (port : Nat) (s : State) : Host.Outcome State Fault Refusal := .next (ptmDialogueStart s port)

/-- D0, H0 and U of a dialogue t1, t4, t2, t3 (R113). -/
def dialogueD0 (d : Nat × Nat × Nat × Nat) : Int := ((d.1 + d.2.1) / 2 : Nat)

def dialogueH0 (d : Nat × Nat × Nat × Nat) : Int := ((d.2.2.1 + d.2.2.2) / 2 : Nat)

def dialogueU (d : Nat × Nat × Nat × Nat) : Int :=
  (((d.2.1 : Int) - (d.1 : Int)) - ((d.2.2.2 : Int) - (d.2.2.1 : Int))) / 2

def sumInt (l : List Int) : Int := l.foldl (· + ·) 0

/-- Least-squares slope of (H0 - D0) against D0, as numerator and denominator (R113). -/
def slope (l : List (Nat × Nat × Nat × Nat)) : Int × Int :=
  let n : Int := l.length
  let xs := l.map dialogueD0
  let ys := l.map fun d => dialogueH0 d - dialogueD0 d
  let xy := (xs.zip ys).map fun e => e.1 * e.2
  (n * sumInt xy - sumInt xs * sumInt ys, n * sumInt (xs.map fun x => x * x) - sumInt xs * sumInt xs)

/-- RATE in units of 2^-40: R113 states no rounding, no slope of one dialogue and none outside 32 bits, so those are free
(log 10). -/
def rateOf (l : List (Nat × Nat × Nat × Nat)) (free : Nat) : Int :=
  let (a, b) := slope l
  let q := a * 1099511627776
  let r := q / b + (if q % b = 0 then 0 else ((Config.freeNat free % 2 : Nat) : Int))
  if b = 0 ∨ r < -2147483648 ∨ 2147483647 < r then signed 32 (Config.freeNat free % 4294967296) else r

/-- Payload of a TIME_MAP event (Table 3.10). -/
def timeMapPayload (s : State) (p : Nat) : List Fld :=
  let m := (portOf s p).ptm
  [(0x10, 1, p), (0x11, 1, b2n m.valid), (0x14, 4, unsigned 32 m.rate), (0x18, 8, unsigned 64 m.d0),
   (0x20, 8, unsigned 64 m.h0), (0x28, 4, unsigned 32 m.u)]

/-- Write TIME_MAP to every open context bound to a port (R116). -/
def timeMapAll (s : State) (p : Nat) : State := eventTo s (ctxsOn s p) 0x0118 0 (timeMapPayload s p)

/-- Give a port's map a validity; a change writes TIME_MAP (R114, R116). -/
def setMapValid (s : State) (p : Nat) (v : Bool) : State :=
  let old := (portOf s p).ptm.valid
  let s := modPort s p fun x => { x with ptm := { x.ptm with valid := v } }
  if old = v then s else timeMapAll s p

/-- A PTM Response that reports Master Time `t2` and Propagation Delay `d` (R113, R114). -/
def ptmResponse (s : State) (p t2 d : Nat) : State :=
  match (portOf s p).ptm.asked with
  | none => s
  | some t1 =>
    if s.sup.now ≤ t1 + 10000 ∧ linkUp s p then
      let held := ((t1, s.sup.now, t2, t2 + d) :: (portOf s p).ptm.held).take 16
      let new := (t1, s.sup.now, t2, t2 + d)
      let ok := (portOf s p).ptm.okRow + 1
      let s' := modPort s p fun x =>
        { x with ptm := { x.ptm with held := held, asked := none, okRow := ok, failRow := 0, d0 := dialogueD0 new,
                                     h0 := dialogueH0 new, u := dialogueU new, rate := rateOf held s.free } }
      setMapValid { s' with free := s.free + 1 } p ((portOf s p).ptm.valid || decide (4 ≤ ok))
    else s

def execPtmResponse (port t2 delay : Nat) (s : State) : Host.Outcome State Fault Refusal := .next (ptmResponse s port t2 delay)

/-- A dialogue without its response 10,000 ns after its Request has failed; three in a row make the map invalid (R114,
R358). -/
def ptmTimeout (s : State) (p : Nat) : State :=
  match (portOf s p).ptm.asked with
  | none => s
  | some t1 =>
    if t1 + 10000 ≤ s.sup.now then
      let n := (portOf s p).ptm.failRow + 1
      let s := modPort s p fun x => { x with ptm := { x.ptm with asked := none, okRow := 0, failRow := n } }
      if 3 ≤ n then setMapValid s p false else s
    else s

def execPtmTimeout (port : Nat) (s : State) : Host.Outcome State Fault Refusal := .next (ptmTimeout s port)

/-- TIME_MAP of the Time Map interval; an interval of 0 never writes it (R116). -/
def timeMap (s : State) (p : Nat) : State :=
  let t := s.dtm.mapInterval.inForce
  if p < nHost s ∧ s.sup.running ∧ t ≠ 0 ∧ (portOf s p).ptm.mapAt + t * 1000000 ≤ s.sup.now then
    timeMapAll (modPort s p fun x => { x with ptm := { x.ptm with mapAt := s.sup.now } }) p
  else s

def execTimeMap (port : Nat) (s : State) : Host.Outcome State Fault Refusal := .next (timeMap s port)

/-- TIME_MAP_READ writes the event of the port named to the issuing context alone (R116). -/
def timeMapRead (h : CmdHdr) (p : Nat) (s : State) (_ : Ctx) : CmdRes :=
  if nHost s ≤ p then .refuse s CONFIG_REFUSED
  else if !inL0 s p then .refuse s NOT_READY
  else { st := event s h.ctx 0x0118 0 (timeMapPayload s p) }

def execTimeMapRead (h : CmdHdr) (port : Nat) (s : State) : Host.Outcome State Fault Refusal :=
  .next (ctxCmd s (.timeMapRead h port) h true (timeMapRead h port))

/-! ### SYNC_IN (R117 to R119, R148) -/

/-- The sync groups whose SYNC_IN action is enabled. -/
def syncActions (s : State) : List Nat := (List.range 16).filter fun g => bit s.dtm.syncCfg.inForce (16 + g)

/-- The contexts with a Chain Group in a sync group, in ascending number. -/
def syncCtxs (s : State) (g : Nat) : List Nat :=
  (openCtxs s).filter fun c => s.groups.any fun e => e.2.ctx == c && e.2.sync == g

/-- An accepted edge: its time is kept, SYNC_CAPTURE is written, and the clear of every member of an enabled sync group is
due at t_e + 24. A context with groups in several enabled sync groups gets one SYNC_CAPTURE for each (log 28). -/
def acceptEdge (s : State) (te : Nat) : State :=
  let s := { s with dtm := { s.dtm with syncTe := te, lastEdge := some te, accepted := (s.dtm.accepted + 1) % 65536 } }
  let s := (syncActions s).foldl (fun s g => eventTo s (syncCtxs s g) 0x0116 0 [(0x12, 1, g), (0x18, 8, te)]) s
  { s with groups := s.groups.map fun (e : Nat × Chain) =>
      (e.1, if (syncActions s).contains e.2.sync then { e.2 with syncDue := e.2.syncDue ++ [te + 24] } else e.2) }

/-- A SYNC_IN edge of a pulse of `width` ns, first seen synchronised now: an inactive edge and a pulse under 10 ns are
ignored; one less than 1,000 ns after the last accepted one is counted and ignored. -/
def syncInEdge (s : State) (rising : Bool) (width : Nat) : State :=
  let active := rising == !bit s.dtm.syncCfg.inForce 0
  if s.sup.running && s.dtm.ctrl.enable && active && decide (10 ≤ width) then
    let te := s.sup.now - 2
    if s.dtm.lastEdge.any fun l => decide (te < l + 1000) then
      { s with dtm := { s.dtm with rejected := satAdd 65535 s.dtm.rejected 1 } }
    else acceptEdge s te
  else s

def execSyncInEdge (rising : Bool) (width : Nat) (s : State) : Host.Outcome State Fault Refusal :=
  .next (syncInEdge s rising width)

end Sys2Proof.Machine
end

