-- ==== Sys2Proof/Machine/Frames.lean ====
section
/-!
DEFINITION. Frame intake (R156 to R173): frame windows and their fill buffers, intake checks, frame statistics, pairs, the
frame commands, Exposure Recommendations; and memory writes into the Intake Aperture (R356, R357).
The model's own: log 6 (DESIGN CHOICE), log 30 (DEDUCED).
-/
namespace Sys2Proof.Machine
open Sys2Proof

/-! ### Buffers (R158, R165) -/

/-- The pair that a camera belongs to, with its key. -/
def pairOf (s : State) (c : Cam) : Option (Nat × Pair) :=
  c.paired.bind fun h => (tget s.pairs (pairKey c.ctx h)).map fun p => (pairKey c.ctx h, p)

/-- The mode that governs a camera's buffers: its pair's, or its own. -/
def bufferMode (s : State) (c : Cam) : Nat :=
  match pairOf s c with
  | some (_, p) => p.mode
  | none => c.mode

/-- The frames of a camera that a binding pins (R164). -/
def pinnedFrames (s : State) (c : Cam) : List Nat :=
  c.binds.map (·.left) ++
  match pairOf s c with
  | some (_, p) => if p.left = c.handle then p.binds.map (·.left) else p.binds.map (·.right)
  | none => []

/-- Buffers that hold a committed frame whose check pass is under way. -/
def stagedBuffers (c : Cam) : List Nat :=
  c.staged.filterMap fun e => match e.2.2 with
    | .buffer i => some i
    | _ => none

/-- The frame of a camera in a buffer. -/
def frameIn (c : Cam) (i : Nat) : Option Frame := c.frames.find? fun f => f.buffer == i

/-- The buffers free for filling, the first to be taken in front (R165): those that hold no frame, and, in newest mode,
then those whose frame is neither pinned nor newest, oldest frame first. -/
def freeBuffers (s : State) (c : Cam) : List Nat :=
  let all := (List.range c.buffers.length).filter fun i => !(stagedBuffers c).contains i
  let empty := all.filter fun i => (frameIn c i).isNone
  if bufferMode s c = 1 then empty
  else
    let newest := (c.frames.getLast?.map (·.index)).toList
    empty ++ (c.frames.filter fun f => all.contains f.buffer && !(pinnedFrames s c).contains f.index &&
      !newest.contains f.index).map (·.buffer)

def dropFrame (s : State) (k index : Nat) : State :=
  modCam s k fun c => { c with frames := c.frames.filter fun f => f.index != index }

/-- A frame loses its buffer in newest mode: it is superseded, and so is a complete pair it belongs to, whose other buffer
becomes free (R165). -/
def supersede (s : State) (k index : Nat) : State :=
  match tget s.cams k with
  | none => s
  | some c =>
    let s := modCam (dropFrame s k index) k fun c => { c with superseded := satAdd max32 c.superseded 1 }
    match pairOf s c with
    | none => s
    | some (pk, p) =>
      let left := p.left == c.handle
      let s := modPair s pk fun p =>
        if left then { p with lq := p.lq.filter (· != index) } else { p with rq := p.rq.filter (· != index) }
      match p.pairs.find? fun e => (if left then e.2.1 else e.2.2) == index with
      | none => s
      | some e =>
        let s := modPair s pk fun p =>
          { p with pairs := p.pairs.filter (fun x => x.1 != e.1), superseded := satAdd max32 p.superseded 1 }
        dropFrame s (camKey c.ctx (if left then p.right else p.left)) (if left then e.2.2 else e.2.1)

/-- The first free buffer of a camera becomes a fill buffer, what it held superseded; none when none is free. -/
def takeBuffer (s : State) (k : Nat) (c : Cam) : Option (State × Nat) :=
  (freeBuffers s c).head?.map fun i =>
    (match frameIn c i with
      | some f => supersede s k f.index
      | none => s, i)

/-- Choose the fill buffer at the first write into the window after the camera starts or after a commit; where none is free, the
choice stands open until its nanosecond is over (R158). -/
def chooseFill (s : State) (k : Nat) : State :=
  match tget s.cams k with
  | none => s
  | some c =>
    if c.running ∧ c.fill = .none then
      match takeBuffer s k c with
      | some (s, i) => modCam s k fun c => { c with fill := .buffer i }
      | none => modCam s k fun c => { c with fill := .wait [] }
    else s

/-- Bytes written into buffer `i` of a camera, those beyond BUFFER_BYTES ignored (R159). -/
def bufferWrite (s : State) (c : Cam) (i off : Nat) (d : Bytes) : State :=
  match c.buffers[i]? with
  | some id => wrObj s (objKey c.ctx id) off (d.take (bufferBytes c - off))
  | none => s

/-- Write into a window's pixel space: into the fill buffer, or held while its choice stands open. -/
def pixelWrite (s : State) (k off : Nat) (d : Bytes) : State :=
  let s := chooseFill s k
  match tget s.cams k with
  | none => s
  | some c =>
    match c.fill with
    | .buffer i => bufferWrite s c i off d
    | .wait l => modCam s k fun c => { c with fill := .wait (l ++ [(off, d)]) }
    | _ => s

/-- An open choice at the end of its nanosecond: a buffer that has become free in it counts, else the window maps to the sink
(R158). -/
def settleFill (s : State) (k : Nat) : Fill → State × Fill
  | .wait l =>
    match tget s.cams k with
    | none => (s, .sink)
    | some c =>
      match takeBuffer s k c with
      | some (s, i) => (l.foldl (fun s w => bufferWrite s c i w.1 w.2) s, .buffer i)
      | none => (s, .sink)
  | f => (s, f)

/-- Place `i` among a camera's committed frames: its open choice settled. -/
def settleStaged (k : Nat) (s : State) (i : Nat) : State :=
  match (tget s.cams k).bind fun c => c.staged[i]? with
  | some (_, _, f) =>
    let r := settleFill s k f
    modCam r.1 k fun c => { c with staged := setAt c.staged i fun e => (e.1, e.2.1, r.2) }
  | none => s

/-- A camera's open choices settled, the frames already committed first. -/
def settleCam (s : State) (k : Nat) : State :=
  match tget s.cams k with
  | none => s
  | some c =>
    let s := (List.range c.staged.length).foldl (settleStaged k) s
    let r := settleFill s k c.fill
    modCam r.1 k fun c => { c with fill := r.2 }

/-- A camera has an open choice. -/
def fillOpen (c : Cam) : Bool :=
  let wait : Fill → Bool := fun f => match f with | .wait _ => true | _ => false
  wait c.fill || c.staged.any fun e => wait e.2.2

/-- What the end of a nanosecond settles (R158). -/
def settleFills (s : State) : State := ((s.cams.filter fun e => fillOpen e.2).map (·.1)).foldl settleCam s

/-! ### Commit (R159) -/

/-- Write into a window's record page: its first 128 bytes take the record; the write that carries their last byte commits
the frame, and a record that came in pieces is marked. A first write anywhere in the window chooses the fill buffer (R158). -/
def pageWrite (s : State) (k off : Nat) (d : Bytes) : State :=
  let s := chooseFill s k
  if 128 ≤ off then s
  else
    modCam s k fun c =>
      let m := wrBytes c.page off (d.take (128 - off))
      if off + d.length < 128 then { c with page := m, split := true }
      else
        let whole := off == 0 && d.length == 128 && !c.split
        { c with page := m, split := false, fill := .none, staged := c.staged ++ [(rdBytes m 0 128, whole, c.fill)] }

/-- The camera of a port's frame window. -/
def windowCam (s : State) (port window : Nat) : Option (Nat × Cam) :=
  s.cams.find? fun e => e.2.port == port && e.2.window == window

/-- A port takes intake writes: its link is up and its HPT block enabled and allowing intake (R357, R451). -/
def intakeOn (s : State) (port : Nat) : Bool :=
  let x := portOf s port
  decide (port < nHost s) && x.ctrl.enable && bit x.cfg.inForce 1

/-- Count a discarded intake write (R357). -/
def intakeDrop (s : State) (port : Nat) : State := modPort s port fun x => { x with drops := satAdd max32 x.drops 1 }

/-- A Frame Record written as one aligned 128-byte write (R159). -/
def frameRecordCommit (s : State) (port window : Nat) (r : Bytes) : State :=
  if linkUp s port then
    match windowCam s port window with
    | some (k, _) => if intakeOn s port then pageWrite s k 0 ((r ++ List.replicate 128 0).take 128) else intakeDrop s port
    | none => intakeDrop s port
  else s

def execFrameRecordCommit (port window : Nat) (record : Bytes) (s : State) : Host.Outcome State Fault Refusal :=
  .next (frameRecordCommit s port window record)

/-! ### Intake Aperture (R356, R357) -/

/-- A write within frame window `w`: what lies in the pixel space and in the record page is kept, the rest discarded. -/
def windowWrite (s : State) (port w off : Nat) (d : Bytes) : State :=
  match windowCam s port w with
  | none => intakeDrop s port
  | some (k, _) =>
    if 0x4001000 ≤ off then intakeDrop s port
    else
      let px := d.take (0x4000000 - off)
      let rest := if off < 0x4000000 then d.drop (0x4000000 - off) else d
      let po := if off < 0x4000000 then 0 else off - 0x4000000
      let s := if px.isEmpty then s else pixelWrite s k off px
      let s := if rest.isEmpty then s else pageWrite s k po (rest.take (0x1000 - po))
      if 0x1000 - po < rest.length then intakeDrop s port else s

/-- A write within the stream slots. -/
def slotsWrite (s : State) (port off : Nat) (d : Bytes) : State :=
  let n := off / 0x2000
  let o := off % 0x2000
  if n < 1024 ∧ (tget (portOf s port).slots n).isSome then
    let s := modSlot s port n fun x => slotWrite x o (d.take (0x2000 - o))
    if 0x2000 - o < d.length then intakeDrop s port else s
  else intakeDrop s port

/-- A memory write into a port's Intake Aperture, offsets within BAR4 (Table 10.3). -/
def intakeApertureWrite (s : State) (port off : Nat) (d : Bytes) : State :=
  if !linkUp s port || d.isEmpty then s
  else if !intakeOn s port then intakeDrop s port
  else if off < 0x800000000 then windowWrite s port (off / 0x8000000) (off % 0x8000000) d
  else slotsWrite s port (off - 0x800000000) d

def execIntakeApertureWrite (port offset : Nat) (data : Bytes) (s : State) : Host.Outcome State Fault Refusal :=
  .next (intakeApertureWrite s port offset data)

/-! ### Frame Record (Tables 4.1, 4.2, R162) -/

def pixelSize (fmt : Nat) : Nat := if fmt % 2 = 0 then 1 else 2

/-- The record's fields are in range and allowed by the Camera Descriptor. -/
def recordOk (c : Cam) (r : Bytes) : Bool :=
  let w := fld r 0x18 2
  let hgt := fld r 0x1A 2
  let fmt := fld r 0x24 1
  let depth := fld r 0x25 1
  let cfa := fld r 0x26 1
  decide (1 ≤ fld r 0x10 4 ∧ 16 ≤ w ∧ w ≤ 8192 ∧ 16 ≤ hgt ∧ hgt ≤ 8192 ∧ fld r 0x1C 4 % 64 = 0 ∧
    w * pixelSize fmt ≤ fld r 0x1C 4 ∧ fld r 0x20 4 = fld r 0x1C 4 * hgt ∧ fmt ≤ 3 ∧
    (if fmt % 2 = 0 then depth = 8 else depth ∈ [10, 12, 14, 16]) ∧ (if fmt < 2 then cfa = 255 else cfa ≤ 3) ∧
    fld r 0x27 1 ≤ 1 ∧ fmt = fld c.desc 1 1 ∧ w ≤ fld c.desc 4 2 ∧ hgt ≤ fld c.desc 6 2 ∧ fld r 0x20 4 ≤ bufferBytes c)

/-- T_START in Datum Time, in units of 2^-32 ns; unsigned as Datum Time is (R109). -/
def startTime (s : State) (port : Nat) (r : Bytes) : Option Int :=
  if fld r 0x27 1 = 0 then some ((fld r 8 8 * 4294967296 : Nat) : Int)
  else (toDatum (portOf s port).ptm (fld r 8 8)).map (· * 4294967296)

/-- Frame ToV in units of 2^-32 ns (R162). -/
def frameTov (t : Int) (r : Bytes) : Int :=
  t + ((fld r 0x10 4 * 2147483648 + fld r 0x14 4 * (fld r 0x1A 2 - 1) * 8388608 : Nat) : Int)

/-! ### Statistics (R169, Table 4.6) -/

/-- A pixel of a frame scaled to 16 bits. -/
def scaledPixel (m : Mem) (r : Bytes) (x y : Nat) : Nat :=
  let fmt := fld r 0x24 1
  let a := y * fld r 0x1C 4 + x * pixelSize fmt
  if fmt % 2 = 0 then (rdByte m a).toNat * 257 else rdNat m a 2 * 2 ^ (16 - fld r 0x25 1)

/-- A pixel is measured: every pixel of a mono frame, the green sites of a Bayer frame. -/
def measuredAt (r : Bytes) (x y : Nat) : Bool :=
  if fld r 0x24 1 < 2 then true
  else if fld r 0x26 1 = 0 ∨ fld r 0x26 1 = 3 then (x + y) % 2 == 1 else (x + y) % 2 == 0

/-- Sum and count of the measured pixels of zone `z`. -/
def zoneSum (m : Mem) (r : Bytes) (z : Nat) : Nat × Nat :=
  let w := fld r 0x18 2
  let hgt := fld r 0x1A 2
  let x0 := z % 4 * w / 4
  let y0 := z / 4 * hgt / 4
  (List.range ((z / 4 + 1) * hgt / 4 - y0)).foldl (fun a j =>
    (List.range ((z % 4 + 1) * w / 4 - x0)).foldl (fun a i =>
      if measuredAt r (x0 + i) (y0 + j) then (a.1 + scaledPixel m r (x0 + i) (y0 + j), a.2 + 1) else a) a) (0, 0)

/-- Quotient rounded to nearest; R169 does not say how a half rounds, so that is free (log 10). -/
def roundFree (n d free : Nat) : Nat :=
  if 2 * (n % d) = d then n / d + Config.freeNat free % 2 else if d < 2 * (n % d) then n / d + 1 else n / d

/-- Statistics of a frame, but for what its acceptance decides. -/
structure FrameStats where
  mean  : Nat
  sat   : Nat
  count : Nat
  zones : List Nat
  hist  : List Nat
  deriving DecidableEq, Repr

/-- Measure a frame. The rounding of a zone mean is free, for Table 4.6 states none (log 10). -/
def measure (c : Cam) (m : Mem) (r : Bytes) (free : Nat) : FrameStats :=
  let z := (List.range 16).map (zoneSum m r)
  let ws := (List.range 16).map fun i => fld c.desc (0x30 + i) 1
  let total := ws.foldl (· + ·) 0
  let all := z.foldl (fun a e => (a.1 + e.1, a.2 + e.2)) (0, 0)
  let den := (z.map (·.2)).foldl (· * ·) 1
  let num := ((ws.zip z).map fun e => e.1 * e.2.1 * (den / e.2.2)).foldl (· + ·) 0
  let px := (List.range (fld r 0x1A 2)).flatMap fun y =>
    ((List.range (fld r 0x18 2)).filter fun x => measuredAt r x y).map fun x => scaledPixel m r x y
  { mean := if total = 0 then roundFree all.1 all.2 free else roundFree num (total * den) free,
    sat := (px.filter fun v => decide (fld c.desc 0x22 2 ≤ v)).length, count := all.2,
    zones := z.map fun e => e.1 / e.2 + (if e.1 % e.2 = 0 then 0 else Config.freeNat (free + 1) % 2),
    hist := (List.range 64).map fun b => (px.filter fun v => v / 1024 == b).length }

/-- Frame statistics as bytes. -/
def statsBytes (t : FrameStats) (r : Bytes) (tov : Int) (sflags : Nat) : Bytes :=
  r.take 8 ++ le 8 (tovInt tov) ++ le 2 (fld r 0x28 2) ++ le 2 sflags ++ le 4 (fld r 0x10 4) ++ le 2 (fld r 0x2A 2) ++ le 2 0 ++
  le 2 t.mean ++ le 2 0 ++ le 4 t.sat ++ le 4 t.count ++ List.replicate 24 0 ++ t.zones.flatMap (le 2) ++
  List.replicate 32 0 ++ t.hist.flatMap (le 4) ++ List.replicate 128 0

/-! ### Exposure Recommendations (R171 to R173) -/

/-- The last ID issued to a camera, 0 if none. -/
def lastId (c : Cam) : Nat := (c.recs.head?.map (·.id)).getD 0

/-- A frame's Exposure ID is neither 0 nor one of the last 16 issued. -/
def unknownId (c : Cam) (id : Nat) : Bool := id != 0 && !c.recs.any fun e => e.id == id

/-- What R172 does with an accepted frame. -/
inductive ExpAct where
  | none
  | use
  | stale
  | late
  deriving DecidableEq, Repr

def expAct (c : Cam) (id seq : Nat) : ExpAct :=
  if !c.loop || unknownId c id then .none
  else if id = lastId c then .use
  else
    match c.recs.head? with
    | some e =>
      let d := signed 32 (sub32 seq e.basisSeq)
      if (c.lag : Int) + 2 ≤ d then .stale else if (c.lag : Int) ≤ d then .late else .none
    | none => .none

/-- An FP64 clamp. -/
def clamp64 (x lo hi : Val) : Val := (x.max lo).min hi

/-- The nearest integer of a value that is not negative, halves away from zero. -/
def nearestAway (x : Val) : Nat := (x.add (.num false 1 (-1))).floor.toNat

/-- The recommendation that a frame used for control gives, if any (R172). An exposure of 0 leaves product / exp without a
value, so the gain is then free (log 10). -/
def recommend (c : Cam) (r : Bytes) (mean free : Nat) (stale : Bool) : Option ExpRec :=
  let target := fld c.desc 0x12 2
  if (max mean target) - (min mean target) ≤ fld c.desc 0x14 2 then none
  else
    let step := fp64.round (.num false (fld c.desc 0x20 1) (-4))
    let ratio := if mean = 0 then step else fp64.div (.ofNat target) (.ofNat mean)
    let ratio := clamp64 ratio (fp64.div (.ofNat 1) step) step
    let product := mul64 (mul64 (.ofNat (fld r 0x10 4)) (.num false (fld r 0x2A 2) (-8))) ratio
    let lo := fld c.desc 0x18 4
    let hi := fld c.desc 0x1C 4
    let gmax := fld c.desc 0x16 2
    let e := clamp64 product (.ofNat lo) (.ofNat hi)
    let exposure := nearestAway e
    let gain := if e.isZero then 256 + Config.freeNat free % (gmax - 255)
      else nearestAway ((clamp64 (fp64.div product e) (.ofNat 1) (.num false gmax (-8))).mul (.ofNat 256))
    let seq := fld r 4 4
    some { id := if lastId c = 65535 then 1 else lastId c + 1, basisId := fld r 0x28 2, basisSeq := seq,
           expect := wrap32 (seq + c.lag), exposure := exposure, gain := gain,
           rflags := b2n (exposure == hi && gain == gmax) + 2 * b2n (exposure == lo && gain == 256) + 4 * b2n stale }

/-- A recommendation as bytes (Table 4.7). -/
def expRecBytes (camera stamp : Nat) (e : ExpRec) : Bytes :=
  le 4 camera ++ le 2 e.id ++ le 2 e.basisId ++ le 4 e.basisSeq ++ le 4 e.expect ++ le 4 e.exposure ++ le 2 e.gain ++
  le 2 e.rflags ++ le 8 stamp

/-- Issue the recommendation due: the event, the mailbox write through the window's port, the last 16 IDs (R171, R173). -/
def exposureRec (s : State) (c h : Nat) : State :=
  match tget s.cams (camKey c h) with
  | none => s
  | some x =>
    match x.due with
    | none => s
    | some e =>
      let b := expRecBytes x.camera s.sup.now e
      let s := modCam s (camKey c h) fun x => { x with due := none, recs := (e :: x.recs).take 16 }
      let s := event s c 0x0122 0 [(0x10, 2, h), (0x14, 32, leNat b)]
      let box := fld x.desc 0x28 8
      let f : Fn := match ctxOf s c with
        | some y => if y.port = x.port then .vf y.vf else .pf
        | none => .pf
      if box = 0 then s else postData s x.port f box b

def execExposureRec (ctx cam : Nat) (s : State) : Host.Outcome State Fault Refusal := .next (exposureRec s ctx cam)

/-! ### Pairs (R166) -/

/-- ToV of a camera's frame. -/
def tovOf (s : State) (k index : Nat) : Int :=
  (((tget s.cams k).bind fun c => c.frames.find? fun f => f.index == index).map (·.tov)).getD 0

/-- Form pairs from the two queues of unpaired frames; the first argument bounds the comparisons. -/
def formPairs : Nat → State → Nat → State
  | 0, s, _ => s
  | n + 1, s, pk =>
    match tget s.pairs pk with
    | none => s
    | some p =>
      match p.lq, p.rq with
      | l :: lq, r :: rq =>
        let lk := camKey p.ctx p.left
        let rk := camKey p.ctx p.right
        let d := tovOf s lk l - tovOf s rk r
        if d.natAbs ≤ p.tol * 4294967296 then
          let s := modPair s pk fun p =>
            { p with lq := lq, rq := rq, pairs := p.pairs ++ [(p.formed, l, r)], formed := wrap32 (p.formed + 1) }
          formPairs n (signal s p.ctx none p.stake 1) pk
        else
          let left := decide (d < 0)
          let k := if left then lk else rk
          let i := if left then l else r
          let seq := (((tget s.cams k).bind fun c => c.frames.find? fun f => f.index == i).map (·.seq)).getD 0
          let t := tovOf s k i
          let s := modPair s pk fun p =>
            { p with lq := if left then lq else p.lq, rq := if left then p.rq else rq, unpaired := satAdd max32 p.unpaired 1 }
          let s := modCam (dropFrame s k i) k fun c => { c with unpaired := satAdd max32 c.unpaired 1 }
          let s := event s p.ctx 0x0121 0 [(0x10, 2, p.handle), (0x12, 1, b2n (!left)), (0x14, 4, seq), (0x18, 8, tovInt t)]
          formPairs n s pk
      | _, _ => s

/-- An accepted frame joins its camera's pair. -/
def joinPair (s : State) (k index : Nat) : State :=
  match (tget s.cams k).bind fun c => (pairOf s c).map fun p => (c, p) with
  | none => s
  | some (c, pk, p) =>
    let s := modPair s pk fun p =>
      if p.left = c.handle then { p with lq := p.lq ++ [index] } else { p with rq := p.rq ++ [index] }
    formPairs (p.lq.length + p.rq.length + 1) s pk

/-! ### The end of a frame's pass (Table 4.2, R161) -/

/-- Discard a frame: its buffer is free; FRAME_DISCARDED but for a stopped camera. -/
def discardFrame (s : State) (k : Nat) (c : Cam) (r : Bytes) (reason : Nat) : State :=
  let s := modCam s k fun c => { c with discarded := satAdd max32 c.discarded 1 }
  if reason = 6 then s
  else event s c.ctx 0x0120 (if reason = 3 then INTEGRITY else CONFIG_REFUSED)
    [(0x10, 2, c.handle), (0x12, 1, reason), (0x14, 4, fld r 4 4)]

/-- The events and the recommendation that an accepted frame brings (R171, R172). -/
def exposureStep (s : State) (k : Nat) (c : Cam) (r : Bytes) (mean : Nat) : State :=
  let id := fld r 0x28 2
  let seq := fld r 4 4
  let s := if unknownId c id then event s c.ctx 0x0125 0 [(0x10, 2, c.handle), (0x12, 2, id), (0x14, 4, seq)] else s
  match expAct c id seq with
  | .none => s
  | .late =>
    if c.lateFor = some (lastId c) then s
    else
      let s := modCam s k fun c => { c with lateFor := some (lastId c) }
      event s c.ctx 0x0123 0
        [(0x10, 2, c.handle), (0x12, 2, lastId c), (0x14, 4, (c.recs.head?.map (·.expect)).getD 0), (0x18, 4, seq)]
  | .use => { modCam s k fun x => { x with due := (recommend c r mean s.free false).or x.due } with free := s.free + 1 }
  | .stale =>
    let s := event s c.ctx 0x0124 0 [(0x10, 2, c.handle), (0x12, 2, lastId c), (0x14, 4, seq)]
    { modCam s k fun x => { x with due := (recommend c r mean s.free true).or x.due } with free := s.free + 1 }

/-- Accept a frame: the device fields of its record, its place in the views, the COUNT Stake, its pair (R161). Of a partner's T_START only
the converted value is kept: it stands in the record with TIMEBASE 0, Datum Time (R162; log 30). -/
def acceptFrame (s : State) (k : Nat) (c : Cam) (r : Bytes) (buf : Nat) (t : FrameStats) (start : Int) : State :=
  let seq := fld r 4 4
  let id := fld r 0x28 2
  let disc := bit (fld r 0x2C 1) 0 || c.lastSeq != some (wrap32 (seq + 4294967295))
  let unk := unknownId c id
  let late := decide (expAct c id seq = .late)
  let tov := frameTov start r
  let rec_ := overlay (if fld r 0x27 1 = 0 then r else overlay (overlay r 8 (le 8 (tovInt start))) 0x27 [0]) 0x60
    (le 8 (tovInt tov) ++ le 4 (tovFrac tov) ++ le 4 (c.accepted - c.base) ++ le 1 buf ++
    le 1 (b2n disc + 2 * b2n unk + 4 * b2n late) ++ (r.drop 0x72).take 6 ++ le 8 s.sup.now)
  let f : Frame := { index := c.accepted, seq := seq, tov := tov, buffer := buf, record := rec_,
                     stats := statsBytes t r tov (b2n unk + 2 * b2n disc + 4 * b2n late) }
  let s := modCam s k fun c => { c with frames := c.frames ++ [f], accepted := c.accepted + 1, lastSeq := some seq }
  let s := signal s c.ctx none (fld c.desc 0x10 2) 1
  let s := joinPair s k c.accepted
  exposureStep s k c r t.mean

/-- The pass over the oldest committed frame of a camera ends (R160). -/
def frameCheckDone (s : State) (c h : Nat) : State :=
  let k := camKey c h
  match tget s.cams k with
  | none => s
  | some x =>
    match x.staged with
    | [] => s
    | (r, whole, fill) :: rest =>
      let s := modCam s k fun x => { x with staged := rest }
      if ¬ whole ∨ fld r 0 4 ≠ x.camera then discardFrame s k x r 1
      else if !recordOk x r then discardFrame s k x r 2
      else if !x.running then discardFrame s k x r 6
      else
        match fill with
        | .buffer i =>
          let m := framePixels s x { index := 0, seq := 0, tov := 0, buffer := i, record := [], stats := [] }
          if crc32c (rdBytes m 0 (fld r 0x20 4)) ≠ fld r 0x30 4 then discardFrame s k x r 3
          else
            let t := measure x m r s.free
            let s := { s with free := s.free + 2 }
            match startTime s x.port r with
            | none => discardFrame s k x r 4
            | some start => acceptFrame s k x r i t start
        | _ => discardFrame s k x r 5

def execFrameCheckDone (ctx cam : Nat) (s : State) : Host.Outcome State Fault Refusal := .next (frameCheckDone s ctx cam)

/-! ### Commands (R168) -/

/-- An Object ID that a context may give to a new object or view: one of its own range and not in use (R163, R314). -/
def idFree (s : State) (c id : Nat) : Bool :=
  decide (1 ≤ id ∧ id ≤ 0xFFFFFEFF) && (objOf s c id).isNone && (viewNamed s c id).isNone

/-- A Camera Descriptor's fields are in range (Table 4.5). -/
def camDescOk (d : Bytes) : Bool :=
  decide (2 ≤ fld d 0 1 ∧ fld d 0 1 ≤ 16 ∧ fld d 1 1 ≤ 3 ∧ fld d 8 4 % 4096 = 0 ∧ 0 < fld d 8 4 ∧ fld d 8 4 ≤ 67108864 ∧
    256 ≤ fld d 0x16 2 ∧ 17 ≤ fld d 0x20 1 ∧ fld d 0x21 1 ≤ 4)

/-- An Object ID is a Frame Buffer of at least `n` bytes: an object of the context in the Near or Main tier (R157). -/
def bufferOk (s : State) (c n id : Nat) : Bool :=
  (objOf s c id).any fun o => !inArchive o && decide (n ≤ o.length)

/-- Object IDs of the Frame Buffers that a Camera Descriptor names. -/
def camBuffers (d : Bytes) : List Nat := (List.range (fld d 0 1)).map fun i => fld d (0x40 + 4 * i) 4

/-- The checks of FRAME_BIND on its entry's own fields: the port, which allows intake, and the mode (R168). -/
def frameBindFields (s : State) (port mode : Nat) : Bool :=
  let y := portOf s port
  decide (port < nHost s ∧ mode ≤ 1) && (y.ctrl.enable && bit y.cfg.inForce 1)

/-- The checks of FRAME_BIND on a descriptor that it has read: its fields, the buffers, the view, the COUNT Stake, readiness (R168,
R423, R471). -/
def frameBindStatus (s : State) (c : Nat) (x : Ctx) (port : Nat) (d : Bytes) : Nat :=
  firstFail [
    need (camDescOk d) CONFIG_REFUSED,
    need ((camBuffers d).all (bufferOk s c (fld d 8 4))) CONFIG_REFUSED,
    need (idFree s c (fld d 0xC 4)) CONFIG_REFUSED, refField x (fld d 0x10 2),
    refRight x (fld d 0x10 2) true,
    need (inL0 s port && !(camBuffers d).any (namesOut s c)) NOT_READY]

/-- The lowest frame window of a port that no camera has. -/
def freeWindow (s : State) (port : Nat) : Option Nat :=
  (List.range 256).find? fun w => !((s.cams.filter fun e => e.2.port == port).map (·.2.window)).contains w

/-- The camera that FRAME_BIND makes of a descriptor: stopped, under a handle and a frame window (R156, R168). -/
def camOf (c n w camera port mode : Nat) (d : Bytes) : Cam :=
  { ctx := c, handle := n, window := w, port := port, camera := camera, desc := d, mode := mode, view := fld d 0xC 4,
    buffers := camBuffers d, lag := if fld d 0x21 1 = 0 then 2 else fld d 0x21 1 }

/-- FRAME_BIND: the checks, then the camera, bound stopped, with the lowest free handle and frame window; a descriptor on a Plat out
of service is NOT_READY after the entry's own fields (R423, R424). -/
def frameBind (h : CmdHdr) (desc camera port mode : Nat) (s : State) (x : Ctx) : CmdRes :=
  if !frameBindFields s port mode then .refuse s CONFIG_REFUSED
  else if namesOut s h.ctx desc then .refuse s NOT_READY
  else
    match cmdRead s h.ctx desc 256 with
    | none => .refuse s CONFIG_REFUSED
    | some d =>
      match frameBindStatus s h.ctx x port d with
      | 0 =>
        match lowestFree s.cams (camKey h.ctx 0) 256, freeWindow s port with
        | some n, some w =>
          { st := { s with cams := tput s.cams (camKey h.ctx n) (camOf h.ctx n w camera port mode d) }, result := n + 4096 * w }
        | _, _ => .refuse s RESOURCE_FULL
      | st => .refuse s st

def execFrameBind (h : CmdHdr) (desc camera port mode : Nat) (s : State) : Host.Outcome State Fault Refusal :=
  .next (ctxCmd s (.frameBind h desc camera port mode) h false (frameBind h desc camera port mode))

/-- A command on a bound camera of its context; another handle is refused. -/
def camCmd (h : CmdHdr) (n : Nat) (f : State → Nat → Cam → CmdRes) (s : State) (_ : Ctx) : CmdRes :=
  match if n < 256 then tget s.cams (camKey h.ctx n) else none with
  | some c => f s (camKey h.ctx n) c
  | none => .refuse s CONFIG_REFUSED

/-- Acceptance begins: FRAME_INDEX counts from 0, and the next write chooses a fill buffer. -/
def frameStart (s : State) (k : Nat) (_ : Cam) : CmdRes :=
  { st := modCam s k fun c => { c with running := true, lastSeq := none, fill := .none, base := c.accepted } }

def execFrameStart (h : CmdHdr) (cam : Nat) (s : State) : Host.Outcome State Fault Refusal :=
  .next (ctxCmd s (.frameStart h cam) h true (camCmd h cam frameStart))

/-- Acceptance ends; frames already accepted stay. -/
def frameStop (s : State) (k : Nat) (_ : Cam) : CmdRes := { st := modCam s k fun c => { c with running := false } }

def execFrameStop (h : CmdHdr) (cam : Nat) (s : State) : Host.Outcome State Fault Refusal :=
  .next (ctxCmd s (.frameStop h cam) h true (camCmd h cam frameStop))

/-- A Leg of a context that holds its engine names an Object ID, and the view is bound for it. -/
def viewBusy (s : State) (c view : Nat) : Bool :=
  (allLegs s).any fun e => e.1.ctx == c && onEngine e.2.2 && (e.2.1.desc == view || e.2.1.ops.any fun o => o.obj == view)

/-- Remove a pair: its cameras are unpaired. -/
def endPair (s : State) (pk : Nat) : State :=
  match tget s.pairs pk with
  | none => s
  | some p =>
    let free (c : Cam) : Cam := { c with paired := none }
    let s := modCam (modCam s (camKey p.ctx p.left) free) (camKey p.ctx p.right) free
    { s with pairs := tdel s.pairs pk }

/-- Remove a camera, and the pair it belongs to. -/
def endCam (s : State) (k : Nat) : State :=
  match tget s.cams k with
  | none => s
  | some c =>
    let s := match pairOf s c with
      | some (pk, _) => endPair s pk
      | none => s
    { s with cams := tdel s.cams k }

/-- FRAME_UNBIND, refused while a running Leg has the view, or the pair's view, bound. -/
def frameUnbind (s : State) (k : Nat) (c : Cam) : CmdRes :=
  let busy := viewBusy s c.ctx c.view || (pairOf s c).any fun p => viewBusy s c.ctx p.2.view
  if busy then .refuse s CONFIG_REFUSED else { st := endCam s k }

def execFrameUnbind (h : CmdHdr) (cam : Nat) (s : State) : Host.Outcome State Fault Refusal :=
  .next (ctxCmd s (.frameUnbind h cam) h true (camCmd h cam frameUnbind))

/-- EXPOSURE_CONTROL: the loop on or off, LAG 1 to 4 or unchanged. -/
def exposureControl (on lag : Nat) (s : State) (k : Nat) (_ : Cam) : CmdRes :=
  if 1 < on ∨ 4 < lag then .refuse s CONFIG_REFUSED
  else { st := modCam s k fun c => { c with loop := on == 1, lag := if lag = 0 then c.lag else lag } }

def execExposureControl (h : CmdHdr) (cam on lag : Nat) (s : State) : Host.Outcome State Fault Refusal :=
  .next (ctxCmd s (.exposureControl h cam on lag) h true (camCmd h cam (exposureControl on lag)))

/-- The checks of PAIR_BIND (R168, R471). -/
def pairBindStatus (s : State) (c : Nat) (x : Ctx) (b : PairBindBody) (l r : Cam) : Nat :=
  firstFail [
    need (decide (b.left < 256 ∧ b.right < 256 ∧ b.left ≠ b.right ∧ b.tol ≤ 10000000 ∧ b.mode ≤ 1) && idFree s c b.view)
      CONFIG_REFUSED,
    refField x b.pairs, need (l.paired.isNone && r.paired.isNone) CONFIG_REFUSED, refRight x b.pairs true]

/-- The pair that PAIR_BIND makes of two cameras: the frames they hold are its first unpaired ones (R166). -/
def pairOfCams (c n : Nat) (b : PairBindBody) (l r : Cam) : Pair :=
  { ctx := c, handle := n, left := b.left, right := b.right, tol := b.tol, view := b.view, stake := b.pairs, mode := b.mode,
    lq := l.frames.map (·.index), rq := r.frames.map (·.index), lbase := l.discarded, rbase := r.discarded }

/-- PAIR_BIND: two unpaired cameras of the context become a pair. -/
def pairBind (h : CmdHdr) (b : PairBindBody) (s : State) (x : Ctx) : CmdRes :=
  match tget s.cams (camKey h.ctx b.left), tget s.cams (camKey h.ctx b.right) with
  | some l, some r =>
    match pairBindStatus s h.ctx x b l r with
    | 0 =>
      match lowestFree s.pairs (pairKey h.ctx 0) 128 with
      | none => .refuse s RESOURCE_FULL
      | some n =>
        let join (c : Cam) : Cam := { c with paired := some n }
        let s := { s with pairs := tput s.pairs (pairKey h.ctx n) (pairOfCams h.ctx n b l r) }
        let s := modCam (modCam s (camKey h.ctx b.left) join) (camKey h.ctx b.right) join
        { st := formPairs (l.frames.length + r.frames.length) s (pairKey h.ctx n), result := n }
    | st => .refuse s st
  | _, _ => .refuse s CONFIG_REFUSED

def execPairBind (h : CmdHdr) (b : PairBindBody) (s : State) : Host.Outcome State Fault Refusal :=
  .next (ctxCmd s (.pairBind h b) h false (pairBind h b))

/-- PAIR_UNBIND, refused while a running Leg has the view bound. -/
def pairUnbind (h : CmdHdr) (n : Nat) (s : State) (_ : Ctx) : CmdRes :=
  match if n < 128 then tget s.pairs (pairKey h.ctx n) else none with
  | some p => if viewBusy s h.ctx p.view then .refuse s CONFIG_REFUSED else { st := endPair s (pairKey h.ctx n) }
  | none => .refuse s CONFIG_REFUSED

def execPairUnbind (h : CmdHdr) (pair : Nat) (s : State) : Host.Outcome State Fault Refusal :=
  .next (ctxCmd s (.pairUnbind h pair) h true (pairUnbind h pair))

end Sys2Proof.Machine
end

