-- ==== Sys2Proof/Machine/Real.lean ====
section
/-!
DEFINITION. The functions that R218, R252 and R254 name beside arithmetic (sine, cosine, arc tangent, natural logarithm,
square root), as integers of units 2^-1300: no FP64 number is cut in them, and what they round away lies far below every
bound of the spec.
The model's own: log 12 (DESIGN CHOICE).
-/
namespace Sys2Proof.Machine
open Sys2Proof

/-- A number of units 2^-1300. -/
abbrev Fixed := Int

def fixedBits : Nat := 1300

/-- The unit. -/
def fixedOne : Fixed := ((2 ^ fixedBits : Nat) : Int)

/-- A finite value in units; 0 otherwise. -/
def fixedOf : Val → Fixed
  | .num s m e => let n : Int := (shiftInt m (e + fixedBits) : Nat); if s then -n else n
  | _ => 0

/-- The number as a value, exact. -/
def fixedVal (n : Fixed) : Val := .num (decide (n < 0)) n.natAbs (-(fixedBits : Int))

/-- The FP64 number nearest. -/
def fixedNear (n : Fixed) : Val := fp64.round (fixedVal n)

def fixedMul (a b : Fixed) : Fixed := a * b / fixedOne

def fixedDiv (a b : Fixed) : Fixed := a * fixedOne / b

def fixedSqrt (n : Fixed) : Fixed :=
  let m := n.toNat * 2 ^ fixedBits
  (isqrt (Nat.log2 m / 2 + 1) 0 m : Nat)

/-- Sum of a series, `next i t` being the term after the `i`th, `t`. -/
def fixedSeries (terms : Nat) (first : Int) (next : Nat → Int → Int) : Int :=
  ((List.range terms).foldl (fun (a : Int × Int) i => let t := next i a.1; (t, a.2 + t)) (first, first)).2

/-- arctan (1 / k) in units of 2^-n. -/
def arcInverse (n k : Nat) : Int :=
  (List.range (n / 4)).foldl (fun s i =>
    let t : Int := (2 ^ n / (k ^ (2 * i + 1) * (2 * i + 1)) : Nat)
    if i % 2 = 0 then s + t else s - t) 0

/-- π in units of 2^-n, by Machin's formula. -/
def piUnits (n : Nat) : Int := 16 * arcInverse n 5 - 4 * arcInverse n 239

def fixedPi : Fixed := piUnits (fixedBits + 64) / 2 ^ 64

/-- An angle less the whole turns in it; the widest FP64 angle has 1,024 bits before the point. -/
def reduceTurn (x : Fixed) : Fixed :=
  let turn := 2 * piUnits (fixedBits + 1100)
  (x * 2 ^ 1100 % turn) / 2 ^ 1100

def fixedSin (x : Fixed) : Fixed :=
  let r := reduceTurn x
  let r2 := fixedMul r r
  fixedSeries 200 r fun i t => -(fixedMul t r2) / ((2 * i + 2) * (2 * i + 3) : Nat)

def fixedCos (x : Fixed) : Fixed :=
  let r := reduceTurn x
  let r2 := fixedMul r r
  fixedSeries 200 fixedOne fun i t => -(fixedMul t r2) / ((2 * i + 1) * (2 * i + 2) : Nat)

/-- arctan t, 0 ≤ t ≤ 1: the angle is halved four times, and its series taken. -/
def fixedArc (t : Fixed) : Fixed :=
  let half (t : Fixed) : Fixed := fixedDiv t (fixedOne + fixedSqrt (fixedOne + fixedMul t t))
  let u := half (half (half (half t)))
  let u2 := fixedMul u u
  let s := (List.range 180).foldl (fun (a : Int × Int) i =>
    let p := -(fixedMul a.1 u2)
    (p, a.2 + p / (2 * i + 3 : Nat))) (u, u)
  16 * s.2

/-- The angle of the point (x, y), in (-π, π]; 0 at the origin. -/
def fixedAtan2 (y x : Fixed) : Fixed :=
  let a : Int := y.natAbs
  let b : Int := x.natAbs
  let first := if a = 0 ∧ b = 0 then 0 else if a ≤ b then fixedArc (fixedDiv a b) else fixedPi / 2 - fixedArc (fixedDiv b a)
  let above := if x < 0 then fixedPi - first else first
  if y < 0 then -above else above

/-- ln m, 1 ≤ m ≤ 2. -/
def fixedLnNear (m : Fixed) : Fixed :=
  let z := fixedDiv (m - fixedOne) (m + fixedOne)
  let z2 := fixedMul z z
  let s := (List.range 450).foldl (fun (a : Int × Int) i =>
    let p := fixedMul a.1 z2
    (p, a.2 + p / (2 * i + 3 : Nat))) (z, z)
  2 * s.2

/-- ln of a positive finite value. -/
def fixedLn : Val → Fixed
  | .num _ m e =>
    let k := Nat.log2 m
    fixedLnNear (fixedOf (.num false m (-(k : Int)))) + ((k : Int) + e) * fixedLnNear (2 * fixedOne)
  | _ => 0

/-! ### FP64 results, to nearest (log 12) -/

def sin64 (x : Val) : Val := if x.isFinite then fixedNear (fixedSin (fixedOf x)) else .nan

def cos64 (x : Val) : Val := if x.isFinite then fixedNear (fixedCos (fixedOf x)) else .nan

def atan64 (y x : Val) : Val :=
  if y.isFinite && x.isFinite then fixedNear (fixedAtan2 (fixedOf y) (fixedOf x)) else .nan

def ln64 (x : Val) : Val :=
  match x with
  | .num s m _ => if m = 0 then .inf true else if s then .nan else fixedNear (fixedLn x)
  | .inf s => if s then .nan else .inf false
  | .nan => .nan

end Sys2Proof.Machine
end

