-- ==== Sys2Proof/Machine/Linear.lean ====
section
/-!
DEFINITION. FP64 vectors, matrices, factorisation, and numbers that carry their derivatives; quaternions and the SE(3) unit
(R217, R218). Formulas are evaluated as the spec writes them, left to right, products fused into the sums that follow them
(log 12).
-/
namespace Sys2Proof.Machine
open Sys2Proof

/-! ### Matrices -/

abbrev Vec := List Val
abbrev Mat := List (List Val)

def dot64 (a b : Vec) : Val := (a.zip b).foldl (fun s p => fma64 p.1 p.2 s) .zero

def vecAdd (a b : Vec) : Vec := List.zipWith add64 a b

def vecSub (a b : Vec) : Vec := List.zipWith sub64 a b

def vecScale (k : Val) (a : Vec) : Vec := a.map (mul64 k)

def zeroVec (n : Nat) : Vec := List.replicate n .zero

def entry (m : Mat) (i j : Nat) : Val := (m.getD i []).getD j .zero

/-- Columns of a matrix that has `n` of them. -/
def matT (n : Nat) (m : Mat) : Mat := (List.range n).map fun j => m.map fun r => r.getD j .zero

/-- Product; the second matrix has `n` columns. -/
def matMul (n : Nat) (a b : Mat) : Mat :=
  let t := matT n b
  a.map fun r => t.map (dot64 r)

def matVec (a : Mat) (v : Vec) : Vec := a.map fun r => dot64 r v

def matAdd (a b : Mat) : Mat := List.zipWith vecAdd a b

def matSub (a b : Mat) : Mat := List.zipWith vecSub a b

def one64 : Val := .ofNat 1

def matId (n : Nat) : Mat := (List.range n).map fun i => (List.range n).map fun j => if i = j then one64 else .zero

def diagMat (d : Vec) : Mat := (List.range d.length).map fun i => (List.range d.length).map fun j => if i = j then d.getD i .zero else .zero

/-- Put a block at row `r` and column `c`. -/
def putBlock (m : Mat) (r c : Nat) (b : Mat) : Mat :=
  (List.range m.length).map fun i =>
    if i < r ∨ r + b.length ≤ i then m.getD i []
    else
      let row := m.getD i []
      let new := b.getD (i - r) []
      (List.range row.length).map fun j => if j < c ∨ c + new.length ≤ j then row.getD j .zero else new.getD (j - c) .zero

/-- The block of `h` rows and `w` columns at row `r` and column `c`. -/
def subBlock (m : Mat) (r c h w : Nat) : Mat := ((m.drop r).take h).map fun row => (row.drop c).take w

def skew (v : Vec) : Mat :=
  let x := v.getD 0 .zero
  let y := v.getD 1 .zero
  let z := v.getD 2 .zero
  [[.zero, z.neg, y], [z, .zero, x.neg], [y.neg, x, .zero]]

/-- (m + m^T) / 2, element by element (R230). -/
def symmetrise (m : Mat) : Mat :=
  (List.range m.length).map fun i => (List.range m.length).map fun j => mul64 (add64 (entry m i j) (entry m j i)) (pow2 (-1))

/-- Upper triangle, row-major. -/
def upperTri (m : Mat) : Vec := (List.range m.length).flatMap fun i => (m.getD i []).drop i

/-- The symmetric matrix of dimension `n` of a row-major upper triangle. -/
def fromUpper (n : Nat) (v : Vec) : Mat :=
  (List.range n).map fun i => (List.range n).map fun j =>
    let a := min i j
    let b := max i j
    v.getD (a * n - a * (a + 1) / 2 + b) .zero

/-- The upper triangular matrix of dimension `n` of a row-major upper triangle. -/
def triangular (n : Nat) (v : Vec) : Mat :=
  (List.range n).map fun i => (List.range n).map fun j => if j < i then .zero else v.getD (i * n - i * (i + 1) / 2 + j) .zero

/-- Every element is finite. -/
def finiteVec (v : Vec) : Bool := v.all Val.isFinite

def finiteMat (m : Mat) : Bool := m.all finiteVec

/-! ### Cholesky factorisation -/

/-- Row `i` of the factor of `a`, after the rows `l`, and the square of its diagonal element. -/
def cholRow (a l : Mat) (i : Nat) : Vec × Val :=
  let row := (List.range i).foldl (fun (row : Vec) j =>
    let s := (List.range j).foldl (fun s k => fma64 (row.getD k .zero).neg (entry l j k) s) (entry a i j)
    row ++ [div64 s (entry l j j)]) []
  let p := row.foldl (fun s x => fma64 x.neg x s) (entry a i i)
  (row ++ [fp64.sqrt p], p)

/-- The lower factor of a matrix, and its squared pivots. -/
def cholesky (a : Mat) : Mat × Vec :=
  (List.range a.length).foldl (fun (s : Mat × Vec) i => let r := cholRow a s.1 i; (s.1 ++ [r.1], s.2 ++ [r.2])) ([], [])

/-- Solve L y = b. -/
def forward (l : Mat) (b : Vec) : Vec :=
  (List.range b.length).foldl (fun y i =>
    y ++ [div64 ((List.range i).foldl (fun s k => fma64 (entry l i k).neg (y.getD k .zero) s) (b.getD i .zero)) (entry l i i)]) []

/-- Solve L^T x = y. -/
def backward (l : Mat) (y : Vec) : Vec :=
  let n := y.length
  (List.range n).reverse.foldl (fun x i =>
    div64 ((List.range (n - 1 - i)).foldl (fun s k => fma64 (entry l (i + 1 + k) i).neg (x.getD k .zero) s) (y.getD i .zero))
      (entry l i i) :: x) []

def cholSolve (l : Mat) (b : Vec) : Vec := backward l (forward l b)

/-! ### Numbers with derivatives -/

/-- A number and its derivatives with respect to a list of error-state components; an empty list is a constant. The derivatives are formed
in FP64, or in FP32 (R258). -/
structure Du where
  v    : Val
  d    : Vec := []
  fp32 : Bool := false
  deriving DecidableEq, Repr, Inhabited

/-- a × b + c in the format of the derivatives; FP32 takes its operands at FP32. -/
def slopeFma (single : Bool) (a b c : Val) : Val :=
  if single then fp32.round (((fp32.round a).mul (fp32.round b)).add (fp32.round c)) else fma64 a b c

def slopeMul (single : Bool) (a b : Val) : Val := if single then fp32.round ((fp32.round a).mul (fp32.round b)) else mul64 a b

def slopeAdd (single : Bool) (a b : Val) : Val := if single then fp32.round ((fp32.round a).add (fp32.round b)) else add64 a b

def slopeDiv (single : Bool) (a b : Val) : Val := if single then fp32.div (fp32.round a) (fp32.round b) else div64 a b

def duVec (f : Val → Val → Val) (a b : Vec) : Vec :=
  if a.isEmpty then b.map (f .zero) else if b.isEmpty then a.map fun x => f x .zero else List.zipWith f a b

def Du.add (a b : Du) : Du := let s := a.fp32 || b.fp32; ⟨add64 a.v b.v, duVec (slopeAdd s) a.d b.d, s⟩

def Du.sub (a b : Du) : Du := let s := a.fp32 || b.fp32; ⟨sub64 a.v b.v, duVec (fun x y => slopeAdd s x y.neg) a.d b.d, s⟩

def Du.neg (a : Du) : Du := ⟨a.v.neg, a.d.map Val.neg, a.fp32⟩

/-- Slopes of a product. -/
def Du.mulSlope (a b : Du) : Vec :=
  let s := a.fp32 || b.fp32
  duVec (fun x y => slopeFma s x b.v (slopeMul s y a.v)) a.d b.d

def Du.mul (a b : Du) : Du := ⟨mul64 a.v b.v, Du.mulSlope a b, a.fp32 || b.fp32⟩

/-- a × b + c with a single rounding. -/
def Du.fma (a b c : Du) : Du :=
  let s := a.fp32 || b.fp32 || c.fp32
  ⟨fma64 a.v b.v c.v, duVec (slopeAdd s) (Du.mulSlope a b) c.d, s⟩

def Du.div (a b : Du) : Du :=
  let s := a.fp32 || b.fp32
  let q := div64 a.v b.v
  ⟨q, duVec (fun x y => slopeDiv s (slopeFma s q.neg y x) b.v) a.d b.d, s⟩

/-- A function of one number, from its value and its derivative there. -/
def Du.chain (a : Du) (v slope : Val) : Du := ⟨v, a.d.map (slopeMul a.fp32 slope), a.fp32⟩

def Du.sqrt (a : Du) : Du := let r := fp64.sqrt a.v; a.chain r (div64 (pow2 (-1)) r)

def Du.sin (a : Du) : Du := a.chain (sin64 a.v) (cos64 a.v)

def Du.cos (a : Du) : Du := a.chain (cos64 a.v) (sin64 a.v).neg

def Du.atan (y x : Du) : Du :=
  let s := y.fp32 || x.fp32
  let n := fma64 y.v y.v (mul64 x.v x.v)
  ⟨atan64 y.v x.v, duVec (fun p q => slopeDiv s (slopeFma s p x.v (slopeMul s q y.v).neg) n) y.d x.d, s⟩

def du (v : Val) : Du := { v := v }

def duNat (n : Nat) : Du := du (.ofNat n)

def duPow2 (e : Int) : Du := du (pow2 e)

/-! ### Vectors, quaternions (w, x, y, z), SE(3) (R218) -/

abbrev DVec := List Du

def dAt (v : DVec) (i : Nat) : Du := v.getD i (du .zero)

def dvec (v : Vec) : DVec := v.map du

def dvals (v : DVec) : Vec := v.map (·.v)

def DVec.add (a b : DVec) : DVec := List.zipWith Du.add a b

def DVec.sub (a b : DVec) : DVec := List.zipWith Du.sub a b

def DVec.neg (a : DVec) : DVec := a.map Du.neg

def DVec.scale (k : Du) (a : DVec) : DVec := a.map (Du.mul k)

def DVec.dot (a b : DVec) : Du := (a.zip b).foldl (fun s p => Du.fma p.1 p.2 s) (du .zero)

def DVec.cross (a b : DVec) : DVec :=
  let c (i j : Nat) : Du := Du.fma (dAt a i) (dAt b j) (Du.mul (dAt a j) (dAt b i)).neg
  [c 1 2, c 2 0, c 0 1]

def DVec.norm (a : DVec) : Du := (DVec.dot a a).sqrt

def qConj (q : DVec) : DVec := dAt q 0 :: [(dAt q 1).neg, (dAt q 2).neg, (dAt q 3).neg]

/-- A quaternion divided by its norm. -/
def qUnit (q : DVec) : DVec := let n := DVec.norm q; q.map fun x => x.div n

/-- Hamilton product. -/
def qProd (a b : DVec) : DVec :=
  let t (l : List (Bool × Nat × Nat)) : Du :=
    l.foldl (fun s e => Du.fma (if e.1 then (dAt a e.2.1).neg else dAt a e.2.1) (dAt b e.2.2) s) (du .zero)
  [t [(false, 0, 0), (true, 1, 1), (true, 2, 2), (true, 3, 3)],
   t [(false, 0, 1), (false, 1, 0), (false, 2, 3), (true, 3, 2)],
   t [(false, 0, 2), (true, 1, 3), (false, 2, 0), (false, 3, 1)],
   t [(false, 0, 3), (false, 1, 2), (true, 2, 1), (false, 3, 0)]]

/-- A composition of rotations, renormalised (R218). -/
def qMul (a b : DVec) : DVec := qUnit (qProd a b)

/-- A quaternion with w not negative. -/
def qPos (q : DVec) : DVec := if (dAt q 0).v.lt .zero then q.map Du.neg else q

/-- The vector R(q) x. -/
def qRot (q x : DVec) : DVec :=
  let v := q.drop 1
  let t := DVec.scale (duNat 2) (DVec.cross v x)
  DVec.add (DVec.add x (DVec.scale (dAt q 0) t)) (DVec.cross v t)

/-- R(q)^T x. -/
def qRotT (q x : DVec) : DVec := qRot (qConj q) x

/-- The matrix R(q). -/
def qMat (q : Vec) : Mat :=
  let c (i : Nat) : Vec := dvals (qRot (dvec q) (dvec ((matId 3).getD i [])))
  matT 3 [c 0, c 1, c 2]

/-- Two vectors' cross product. -/
def fixedCross (a b : List Fixed) : List Fixed :=
  let c (i j : Nat) : Fixed := fixedMul (a.getD i 0) (b.getD j 0) - fixedMul (a.getD j 0) (b.getD i 0)
  [c 1 2, c 2 0, c 0 1]

/-- Exact sum of squares. -/
def squareSum (v : Vec) : Val := Val.sum (v.map fun x => x.mul x)

/-- The exponential of (ρ, φ): rotation and translation, by the formulas of R218. -/
def exactExp (rho phi : Vec) : List Fixed × List Fixed :=
  let small := (squareSum phi).lt (pow2 (-20))
  let t2 := fixedOf (squareSum phi)
  let th := fixedSqrt t2
  let p := phi.map fixedOf
  let r := rho.map fixedOf
  let c0 := if small then fixedOne / 2 - t2 / 48 else fixedDiv (fixedSin (th / 2)) th
  let c1 := if small then fixedOne / 2 - t2 / 24 else fixedDiv (fixedOne - fixedCos th) t2
  let c2 := if small then fixedOne / 6 - t2 / 120 else fixedDiv (th - fixedSin th) (fixedMul th t2)
  let x := fixedCross p r
  let y := fixedCross p x
  (fixedCos (th / 2) :: p.map (fixedMul c0),
    (List.range 3).map fun i => r.getD i 0 + fixedMul c1 (x.getD i 0) + fixedMul c2 (y.getD i 0))

/-- The logarithm of a quaternion, by the formula and the series of R218. -/
def exactLog (q : Vec) : List Fixed :=
  let q := if (q.getD 0 .zero).lt .zero then q.map Val.neg else q
  let n2 := squareSum (q.drop 1)
  let v := (q.drop 1).map fixedOf
  if n2.lt (pow2 (-22)) then v.map fun x => 2 * (x + fixedMul x (fixedOf n2 / 6))
  else
    let n := fixedSqrt (fixedOf n2)
    let a := fixedAtan2 n (fixedOf (q.getD 0 .zero))
    v.map fun x => fixedDiv (2 * fixedMul a x) n

/-- What the SE(3) unit answers where the exact result is `x`: FP64 numbers within 2^-50 of it, relative to its norm; which of them is free
(R218, log 12). Operands that are not finite give NaNs. -/
def se3Answer (op : Nat) (operands : Vec) (x : List Fixed) : Vec :=
  let c := (List.range x.length).map fun i => fp64.decode (Config.se3Result op (operands.map fp64.encode) i)
  let off := (c.zip x).foldl (fun s p => s + (fixedOf p.1 - p.2) ^ 2) 0
  let norm := x.foldl (fun s v => s + v ^ 2) 0
  if !finiteVec operands then x.map fun _ => Val.nan
  else if finiteVec c && decide (off * 2 ^ 100 ≤ norm) then c else x.map fixedNear

/-- Numbers with their derivatives, the numbers themselves as the SE(3) unit gives them. -/
def withValues (a : DVec) (v : Vec) : DVec := List.zipWith (fun x y => { x with v := y }) a v

/-- The exponential of ξ = (ρ, φ) (R218); its derivatives are those of the formulas in FP64. -/
def se3Exp (rho phi : DVec) : DVec × DVec :=
  let t2 := DVec.dot phi phi
  let th := t2.sqrt
  let small := th.v.lt (pow2 (-10))
  let half := Du.mul th (duPow2 (-1))
  let series (a b : Val) : Du := Du.sub (du a) (t2.div (du b))
  let c0 := if small then series (pow2 (-1)) (.ofNat 48) else half.sin.div th
  let c1 := if small then series (pow2 (-1)) (.ofNat 24) else (Du.sub (duNat 1) th.cos).div t2
  let c2 := if small then series (div64 one64 (.ofNat 6)) (.ofNat 120) else (Du.sub th th.sin).div (Du.mul th t2)
  let w := t2.chain (cos64 half.v) (mul64 c0.v (pow2 (-2))).neg
  let x := DVec.cross phi rho
  let q := w :: DVec.scale c0 phi
  let t := DVec.add (DVec.add rho (DVec.scale c1 x)) (DVec.scale c2 (DVec.cross phi x))
  let e := exactExp (dvals rho) (dvals phi)
  let ins := dvals rho ++ dvals phi
  (withValues q (se3Answer 0 ins e.1), withValues t (se3Answer 1 ins e.2))

/-- The quaternion of a rotation vector. -/
def qExp (phi : DVec) : DVec := (se3Exp (dvec (zeroVec 3)) phi).1

/-- The rotation vector of a quaternion (R218); its derivatives are those of the formula in FP64. -/
def qLog (q0 : DVec) : DVec :=
  let q := qPos q0
  let v := q.drop 1
  let n2 := DVec.dot v v
  let out := if (fp64.sqrt n2.v).lt (pow2 (-11)) then DVec.scale (Du.mul (duNat 2) (Du.add (duNat 1) (n2.div (duNat 6)))) v
    else
      let n := n2.sqrt
      DVec.scale ((Du.mul (duNat 2) (Du.atan n (dAt q 0))).div n) v
  withValues out (se3Answer 2 (dvals q0) (exactLog (dvals q0)))

/-- Seeds: constants `v` that vary with components `at_` onward of `n`, at slope `k`. -/
def seed (n at_ : Nat) (v : Vec) : DVec :=
  (List.range v.length).map fun i => { v := v.getD i .zero, d := (List.range n).map fun j => if j = at_ + i then one64 else .zero }

/-- A rotation under a right-applied error of value zero: q ⊗ Exp(δθ) is q, and varies with the error as q ⊗ (1, δθ / 2) does (R222). -/
def qTurned (q : Vec) (err : DVec) : DVec := qProd (dvec q) (duNat 1 :: DVec.scale (duPow2 (-1)) err)

/-- The same, the error being components `at_` onward of `n`. -/
def seedRot (n at_ : Nat) (q : Vec) : DVec := qTurned q (seed n at_ (zeroVec 3))

/-! ### Bytes -/

def f64At (b : Bytes) (o : Nat) : Val := fp64.decode (fld b o 8)

def f32At (b : Bytes) (o : Nat) : Val := fp32.decode (fld b o 4)

def vec64 (b : Bytes) (o n : Nat) : Vec := (List.range n).map fun i => f64At b (o + 8 * i)

def vec32 (b : Bytes) (o n : Nat) : Vec := (List.range n).map fun i => f32At b (o + 4 * i)

def bytes64 (v : Vec) : Bytes := v.flatMap fun x => le 8 (fp64.encode x)

def bytes32 (v : Vec) : Bytes := v.flatMap fun x => le 4 (fp32.encode x)

/-- A 64.32 time from its 12 bytes, in units of 2^-32 ns. -/
def tovAt (b : Bytes) (o : Nat) : Int := ((fld b o 8 * 4294967296 + fld b (o + 8) 4 : Nat) : Int)

/-- A difference of times in seconds. -/
def seconds (d : Int) : Val := div64 (.num (decide (d < 0)) d.natAbs (-32)) (.ofNat 1000000000)

end Sys2Proof.Machine
end

