-- ==== Sys2Proof/Machine/Handoff.lean ====
section
/-!
DEFINITION. Hand-off Flags between a producer and a consumer Leg of one Station (R174 to R176, R180, R209): the Parallax Descriptor,
by which a consumer reads its ring, the bands that a consumer takes, and the bands that a producer puts into its slots.
The model's own: log 23 (DEDUCED).
-/
namespace Sys2Proof.Machine
open Sys2Proof

/-- A Parallax Descriptor (Table 4.10). -/
structure PxDesc where
  eight : Bool
  lr    : Bool
  why   : Bool
  vol   : Bool
  d     : Nat
  dmin  : Nat
  p1    : Nat
  p2    : Nat
  adapt : Nat
  lrtol : Nat
  uniq  : Nat
  inv   : Nat
  w     : Nat
  h     : Nat
  c0    : Nat
  c1    : Nat
  r0    : Nat
  r1    : Nat
  ml    : Nat
  mr    : Nat
  mt    : Nat
  mb    : Nat
  offL  : Nat
  offR  : Nat
  src   : Nat
  out   : Nat
  sum   : Nat
  ring  : RingDesc
  deriving DecidableEq, Repr

def parsePx (b : Bytes) : PxDesc :=
  let m := fld b 0 1
  { eight := bit m 0, lr := bit m 1, why := bit m 2, vol := bit m 3, d := fld b 2 2, dmin := fld b 4 2, p1 := fld b 6 1,
    p2 := fld b 7 1, adapt := fld b 8 1, lrtol := fld b 9 1, uniq := fld b 10 1, inv := fld b 11 1, w := fld b 12 2,
    h := fld b 14 2, c0 := fld b 16 2, c1 := fld b 18 2, r0 := fld b 20 2, r1 := fld b 22 2, ml := fld b 24 2,
    mr := fld b 26 2, mt := fld b 28 2, mb := fld b 30 2, offL := fld b 0x20 4, offR := fld b 0x24 4, src := fld b 0x28 4,
    out := fld b 0x2C 4, sum := fld b 0x30 4, ring := ringDesc b 0x38 }

/-- First column and row of the work window, and its size (R178). -/
def PxDesc.x0 (p : PxDesc) : Nat := p.c0 - p.ml

def PxDesc.y0 (p : PxDesc) : Nat := p.r0 - p.mt

def PxDesc.ww (p : PxDesc) : Nat := min p.w (p.c1 + p.mr) - p.x0

def PxDesc.hw (p : PxDesc) : Nat := min p.h (p.r1 + p.mb) - p.y0

/-- D' of R178. -/
def PxDesc.dd (p : PxDesc) : Nat := 64 * ceilDiv p.d 64

/-- Bands that hold the rows a consumer reads from its ring. -/
def PxDesc.bands (p : PxDesc) : Nat := ceilDiv p.hw p.ring.rows

/-- Physical place of a Leg's flags: Plat and logical Station. -/
def flagSite (s : State) (c i : Nat) : Option (Nat × Nat) := (crewSlot s c i).bind fun x => x.stn.map fun n => (x.plat, n)

/-- Flag of band `k` of a ring. -/
def RingDesc.flag (r : RingDesc) (k : Nat) : Nat := r.flag0 + k % r.slots

/-- The rows of slot `k mod n` as a consumer reads them from its operand 1: ROWS rows of the work window's width at SRC_PITCH (R180). -/
def slotRows (s : State) (w : Who) (g : Leg) (p : PxDesc) (k : Nat) : List Bytes :=
  match opAt g 1 with
  | none => []
  | some o => (List.range p.ring.rows).map fun i =>
      (rdOp s w o ((k % p.ring.slots * p.ring.rows + i) * p.src) (p.ww * p.dd)).getD []

/-- A consumer reads its next band if that slot is FULL and it still wants rows: the band is its own, the flag EMPTY (R174). -/
def takeBand (s : State) (l : LegRef) (w : Who) (g : Leg) (p : PxDesc) : Option State :=
  match flagSite s l.ctx g.stn, runOf s l with
  | some (q, n), some x =>
    let k := x.taken.length
    let v := flagsOf s q n
    if k < p.bands ∧ bit v (p.ring.flag k) then
      some (modRun (setFlags s q n (setBit v (p.ring.flag k) false)) l fun x =>
        { x with taken := x.taken ++ [(slotRows s w g p k).flatten] })
    else none
  | _, _ => none

/-- A consumer takes the bands that are FULL, in order; the first argument bounds them. -/
def takeBands : Nat → State → LegRef → Who → Leg → PxDesc → State
  | 0, s, _, _, _, _ => s
  | n + 1, s, l, w, g, p =>
    match takeBand s l w g p with
    | some t => takeBands n t l w g p
    | none => s

/-- The rows that a consumer has taken. -/
def takenRows (s : State) (l : LegRef) (p : PxDesc) : List Bytes :=
  let n := p.ww * p.dd
  (((runOf s l).map (·.taken)).getD []).flatMap fun b => (List.range p.ring.rows).map fun i => (b.drop (i * n)).take n

/-- The running consumer of a producer's flag ring on the same Station: a Parallax Leg of the context whose descriptor
names the same flags as consumer (R174). -/
def consumerOf (s : State) (l : LegRef) (g : Leg) (r : RingDesc) : Option (LegRef × Who × Leg × PxDesc) :=
  (s.travs.flatMap fun e => if e.2.ctx = l.ctx then
    (match e.2.run with
      | none => []
      | some u => (enum (e.2.legs.zip u.legs)).filterMap fun q =>
          let w : Who := { ctx := l.ctx, handle := e.2.handle, k := u.k, began := u.began }
          match rdName s w q.2.1.desc 0 128 with
          | none => none
          | some d =>
            let p := parsePx d
            if q.2.2.st = .running ∧ ¬ q.2.2.intr ∧ q.2.1.kind = 1 ∧ q.2.1.stn = g.stn ∧ p.ring.role = 2 ∧
                p.ring.flag0 = r.flag0 ∧ p.ring.slots = r.slots then
              some (⟨l.ctx, e.2.handle, q.1⟩, w, q.2.1, p)
            else none) else []).head?

/-- A producer puts band `k` of `n` and those after it into its ring: a slot whose flag is EMPTY is written and set FULL; at a FULL
one its running consumer, if it wants more, empties its next slot; else the producer waits. The first argument bounds the moves. -/
def putBands (g : Leg) (l : LegRef) (r : RingDesc) (n : Nat) (band : Nat → List (OpEnt × Nat × Bytes)) :
    Nat → State → Nat → State × Nat
  | 0, s, k => (s, k)
  | f + 1, s, k =>
    if n ≤ k then (s, k)
    else
      match flagSite s l.ctx g.stn with
      | none => (s, k)
      | some (q, stn) =>
        let v := flagsOf s q stn
        if bit v (r.flag k) then
          match (consumerOf s l g r).bind fun c => takeBand s c.1 c.2.1 c.2.2.1 c.2.2.2 with
          | some t => putBands g l r n band f t k
          | none => (s, k)
        else
          let s := (band k).foldl (fun s e => wrOp s l.ctx e.1 e.2.1 e.2.2) s
          putBands g l r n band f (setFlags s q stn (setBit v (r.flag k) true)) (k + 1)

end Sys2Proof.Machine
end

