-- ==== Sys2Proof/Machine/Tensor.lean ====
section
/-!
DEFINITION. The Tensor Array: number formats (R191 to R193, R197, R198), arithmetic (R194 to R196), Tensor Programs and
their Steps (R200 to R211), the tally and the condition bit (R203, R204), and TENSOR_ARRAY_LEG.
The model's own: log 12 (DESIGN CHOICE), log 16 (DEDUCED), log 33 (DEDUCED).
-/
namespace Sys2Proof.Machine
open Sys2Proof

/-! ### Element formats (Table 5.2) -/

/-- Bits of an element. -/
def fmtBits (c : Nat) : Nat := [32, 16, 16, 8, 8, 6, 6, 4, 8, 8, 16, 32].getD c 8

/-- The block formats. -/
def isBlock (c : Nat) : Bool := decide (3 ≤ c) && decide (c ≤ 8)

/-- Exponent and fraction bits of the small floats. -/
def miniFmt (c : Nat) : Fmt := [⟨8, 23⟩, ⟨8, 7⟩, ⟨5, 10⟩, ⟨4, 3⟩, ⟨5, 2⟩, ⟨2, 3⟩, ⟨3, 2⟩, ⟨2, 1⟩].getD c ⟨8, 23⟩

/-- Pattern of the largest finite value of a block format's elements. -/
def miniMax (c : Nat) : Nat := [0, 0, 0, 0x7E, 0x7B, 0x1F, 0x1F, 0x7].getD c 0x7F

/-- The emax of a block format. -/
def miniEmax (c : Nat) : Int := [0, 0, 0, 8, 15, 2, 4, 2, 0].getD c 0

/-- The value of an element pattern, without its block scale (R191). -/
def elemVal (c p : Nat) : Val :=
  if c ≤ 2 then (miniFmt c).decode p
  else if c ≤ 7 then
    let f := miniFmt c
    let s := bit p (f.eb + f.fb)
    let ex := bits p (f.eb + f.fb - 1) f.fb
    let fr := p % 2 ^ f.fb
    if c = 3 ∧ p % 128 = 127 then .nan
    else if c = 4 ∧ ex = 31 then (if fr = 0 then .inf s else .nan)
    else if ex = 0 then .num s fr (1 - (f.bias : Int) - f.fb) else .num s (2 ^ f.fb + fr) ((ex : Int) - f.bias - f.fb)
  else if c = 8 then let i := signed 8 p; .num (decide (i < 0)) i.natAbs (-6)
  else .ofNat p

/-- The value of a block scale (R191). -/
def scaleVal (s : Nat) : Val := if s = 255 then .nan else .num false 1 ((s : Int) - 127)

/-! ### Counts -/

/-- The tally of a Leg (Table 5.8), and the condition bit. -/
structure Tally where
  nanIn     : Nat := 0
  nonfinite : Nat := 0
  saturated : Nat := 0
  overflow  : Nat := 0
  outside   : Nat := 0
  steps     : Nat := 0
  cond      : Bool := false
  deriving DecidableEq, Repr

/-! ### Output conversion (R197, R198) -/

/-- A value as an element of a format without blocks: its pattern, and what it counts in NONFINITE and SATURATED. -/
def convert (c : Nat) (sat : Bool) (v : Val) : Nat × Nat × Nat :=
  if c ≤ 2 then
    let f := miniFmt c
    let p := f.encode v
    match v with
    | .nan => (p, 1, 0)
    | .inf s => if sat ∧ c ≠ 0 then (f.encode (.num s 1 0) / 2 ^ (f.eb + f.fb) * 2 ^ (f.eb + f.fb) + f.infBits - 1, 0, 1) else (p, 1, 0)
    | .num s _ _ =>
      if p % 2 ^ (f.eb + f.fb) = f.infBits then
        (if sat ∧ c ≠ 0 then (b2n s * 2 ^ (f.eb + f.fb) + f.infBits - 1, 0, 1) else (p, 1, 0))
      else (p, 0, 0)
  else
    let top := 2 ^ fmtBits c - 1
    match v with
    | .nan => (0, 1, 0)
    | .inf s => (if s then 0 else top, 0, 1)
    | v => let n := v.nearestInt
      if n < 0 then (0, 0, 1) else if top < n.toNat then (top, 0, 1) else (n.toNat, 0, 0)

/-- floor(log2) of a value that is not zero. -/
def floorLog2 : Val → Int
  | .num _ m e => (Nat.log2 m : Int) + e
  | _ => 0

/-- One element of a block at scale 2^x, and whether it was clamped. -/
def blockElem (c : Nat) (x : Int) : Val → Nat × Nat
  | .num s m e =>
    if c = 8 then
      let q := nearest m (e - x) (-6) false
      (unsigned 8 (if s then -((min q 127 : Nat) : Int) else (min q 127 : Nat)), b2n (decide (127 < q)))
    else
      let f := miniFmt c
      let p := f.raw m (e - x)
      (b2n s * 2 ^ (f.eb + f.fb) + min p (miniMax c), b2n (decide (miniMax c < p)))
  | _ => (0, 0)

/-- Quantise a block of 32 values: the scale byte, the elements, and what it counts (R198). -/
def quantise (c : Nat) (l : List Val) : Nat × List Nat × Nat × Nat :=
  let amax := l.foldl (fun a v => a.max v.abs) Val.zero
  if l.any fun v => !v.isFinite then (255, l.map fun _ => 0, 1, 0)
  else if amax.isZero then (0, l.map fun _ => 0, 0, 0)
  else
    let x := max (-127) (min 127 (floorLog2 amax - miniEmax c))
    let es := l.map (blockElem c x)
    ((x + 127).toNat, es.map (·.1), 0, (es.map (·.2)).foldl (· + ·) 0)

/-! ### Tensors (R192, R193, R200, Table 5.5) -/

/-- A tensor entry, with the operand it lies in. -/
structure TDesc where
  op    : OpEnt
  base  : Nat
  fmt   : Nat
  rank  : Nat
  dims  : List Nat
  off   : Nat
  soff  : Nat
  pitch : List Nat
  deriving DecidableEq, Repr

def TDesc.d (t : TDesc) (i : Nat) : Nat := t.dims.getD i 1

/-- Read a tensor entry; BASE 4 lies in the program object. -/
def parseTensor (g : Leg) (b : Bytes) : TDesc :=
  let base := fld b 0 1
  { op := if base = 4 then ⟨g.desc, 0, 0⟩ else g.ops.getD base ⟨0, 0, 0⟩, base := base,
    fmt := fld b 1 1, rank := fld b 2 1, dims := (List.range 4).map fun i => fld b (4 + 2 * i) 2,
    off := fld b 0x10 6, soff := fld b 0x18 8, pitch := (List.range 3).map fun i => fld b (0x20 + 4 * i) 4 }

/-- Bytes of one row along dimension 0. -/
def TDesc.rowBytes (t : TDesc) : Nat := ceilDiv (t.d 0 * fmtBits t.fmt) 8

/-- Byte offset of row (i1, i2, i3) in the element array. -/
def TDesc.rowAt (t : TDesc) (i1 i2 i3 : Nat) : Nat := i1 * t.pitch.getD 0 0 + i2 * t.pitch.getD 1 0 + i3 * t.pitch.getD 2 0

/-- Bytes that the element array spans. -/
def TDesc.span (t : TDesc) : Nat := t.rowAt (t.d 1 - 1) (t.d 2 - 1) (t.d 3 - 1) + t.rowBytes

/-- Bytes of the scale array. -/
def TDesc.scaleBytes (t : TDesc) : Nat := if isBlock t.fmt then t.d 1 * t.d 2 * t.d 3 * (t.d 0 / 32) else 0

/-- A tensor's bytes as read. -/
structure TData where
  t      : TDesc
  elems  : Bytes
  scales : Bytes
  deriving DecidableEq, Repr

/-- Block index of an element (R192). -/
def TDesc.block (t : TDesc) (i0 i1 i2 i3 : Nat) : Nat := ((i3 * t.d 2 + i2) * t.d 1 + i1) * (t.d 0 / 32) + i0 / 32

/-- Pattern of an element: rows are packed from their low bits up (R193). -/
def TData.raw (x : TData) (i0 i1 i2 i3 : Nat) : Nat :=
  let n := fmtBits x.t.fmt
  let b := i0 * n
  fld x.elems (x.t.rowAt i1 i2 i3 + b / 8) 5 / 2 ^ (b % 8) % 2 ^ n

/-- Value of an element with its block scale. -/
def TData.at (x : TData) (i0 i1 i2 i3 : Nat) : Val :=
  let v := elemVal x.t.fmt (x.raw i0 i1 i2 i3)
  if isBlock x.t.fmt then v.mul (scaleVal (fld x.scales (x.t.block i0 i1 i2 i3) 1)) else v

/-- An element as FP32, as the epilogue's and element-wise operations take it. -/
def TData.f32 (x : TData) (i0 i1 i2 i3 : Nat) : Val := fp32.round (x.at i0 i1 i2 i3)

/-- Read a tensor; none when a byte cannot be read. -/
def loadTensor (s : State) (w : Who) (t : TDesc) : Option TData :=
  match rdOp s w t.op t.off t.span, (if isBlock t.fmt then rdOp s w t.op t.soff t.scaleBytes else some []) with
  | some e, some c => some ⟨t, e, c⟩
  | _, _ => none

/-- The index tuples of dimensions 1 to 3, dimension 1 fastest. -/
def TDesc.rows (t : TDesc) : List (Nat × Nat × Nat) :=
  (List.range (t.d 3)).flatMap fun i3 => (List.range (t.d 2)).flatMap fun i2 => (List.range (t.d 1)).map fun i1 => (i1, i2, i3)

/-- NaN elements of a tensor, and blocks of scale 0xFF (Table 5.8). -/
def TData.nans (x : TData) : Nat :=
  ((x.t.rows.flatMap fun r => (List.range (x.t.d 0)).map fun i => (elemVal x.t.fmt (x.raw i r.1 r.2.1 r.2.2)).isNan).filter id).length +
  (x.scales.filter fun b => b == 255).length

/-- Pack element patterns of `n` bits from the low bits up (R193). -/
def packRow (n : Nat) (l : List Nat) : Bytes := le (ceilDiv (n * l.length) 8) (l.foldr (fun p a => p + 2 ^ n * a) 0)

/-- Cut a list into runs of 32. The first argument bounds them. -/
def runs32 {α : Type} : Nat → List α → List (List α)
  | 0, _ => []
  | n + 1, l => if l.isEmpty then [] else l.take 32 :: runs32 n (l.drop 32)

/-- Bytes that an output tensor's values make: element rows and scale rows with their offsets, and what they count. -/
def storeTensor (t : TDesc) (sat : Bool) (f : Nat → Nat → Nat → Nat → Val) : List (Nat × Bytes) × Nat × Nat :=
  let rs := t.rows.map fun r =>
    let vs := (List.range (t.d 0)).map fun i => f i r.1 r.2.1 r.2.2
    let at_ := t.off + t.rowAt r.1 r.2.1 r.2.2
    if isBlock t.fmt then
      let q := (runs32 (t.d 0 / 32) vs).map (quantise t.fmt)
      ([(at_, packRow (fmtBits t.fmt) (q.flatMap (·.2.1))),
        (t.soff + t.block 0 r.1 r.2.1 r.2.2, q.map fun e => BitVec.ofNat 8 e.1)],
       (q.map (·.2.2.1)).foldl (· + ·) 0, (q.map (·.2.2.2)).foldl (· + ·) 0)
    else
      let q := vs.map (convert t.fmt sat)
      ([(at_, packRow (fmtBits t.fmt) (q.map (·.1)))], (q.map (·.2.1)).foldl (· + ·) 0, (q.map (·.2.2)).foldl (· + ·) 0)
  (rs.flatMap (·.1), (rs.map (·.2.1)).foldl (· + ·) 0, (rs.map (·.2.2)).foldl (· + ·) 0)

/-! ### Arithmetic (R194 to R196) -/

/-- Accumulate products in chunks of 32: the exact sum of a chunk, then one rounding into the FP32 accumulator. -/
def accumulate (a : Val) (products : List Val) : Val :=
  (runs32 (products.length / 32 + 1) products).foldl (fun a c => fp32.round (a.add (Val.sum c))) a

/-- Sign of a value. -/
def Val.sign : Val → Bool
  | .nan => false
  | .inf s => s
  | .num s _ _ => s

/-- The larger or smaller of two FP32 values, free where one is a NaN; of two zeros it is a zero, with a free sign where theirs differ,
for R195 states no more (log 12). -/
def pick (op : Nat) (a b : Val) : Val :=
  let free := Config.pickNan op (fp32.encode a) (fp32.encode b)
  if a.isNan || b.isNan then fp32.decode free
  else if a.isZero && b.isZero then .num (if a.sign = b.sign then a.sign else free % 2 == 1) 0 0
  else if op = 0 then a.max b else a.min b

/-- e^y for y in units of 2^-512, in the same units: Taylor's series of y / 2^12, squared twelve times. -/
def expFix (y : Nat) : Nat :=
  let one := 2 ^ 512
  let r := y / 4096
  let p := (List.range 60).foldl (fun (a : Nat × Nat) i => let t := a.1 * r / one / (i + 1); (t, a.2 + t)) (one, one)
  (List.range 12).foldl (fun t _ => t * t / one) p.2

/-- |v| in units of 2^-512, at most 128. -/
def fixAbs : Val → Nat
  | .num _ m e => min (128 * 2 ^ 512) (shiftInt m (e + 512))
  | _ => 128 * 2 ^ 512

/-- An FP32 value within 2 units of the last place of `num / den`: from one unit below its floor to one above its ceiling, or within two
units of a quotient that is an FP32 value; `d` says which (R196). -/
def within2 (num den d : Nat) : Val :=
  let p := fp32.encode (fp32.div (.ofNat num) (.ofNat den))
  let back := (fp32.decode p).mul (.ofNat den)
  if back.lt (.ofNat num) then fp32.decode (p + d % 4 - 1)
  else if Val.lt (.ofNat num) back then fp32.decode (p + d % 4 - 2)
  else fp32.decode (p + d % 5 - 2)

/-- Sigmoid and tanh, within the bound that R196 gives the device's own method (log 12). -/
def curve (code : Nat) (v : Val) : Val :=
  match v with
  | .nan => .nan
  | v =>
    let neg := v.lt Val.zero
    let one := 2 ^ 512
    let d := Config.actError code (fp32.encode v)
    if code = 4 then
      let e := expFix (fixAbs v)
      within2 (if neg then one else e) (e + one) d
    else
      let e := expFix (2 * fixAbs v)
      let t := within2 (e - one) (e + one) d
      if neg then t.neg else t

/-- Activation (Table 5.3). -/
def activate (code : Nat) (alpha v : Val) : Val :=
  match code with
  | 1 => pick 0 v Val.zero
  | 2 => if Val.le Val.zero v then v else fp32.round (alpha.mul v)
  | 3 => pick 1 (pick 0 v Val.zero) alpha
  | 4 => curve 4 v
  | 5 => curve 5 v
  | _ => v

/-! ### Steps (Tables 5.6, 5.7) -/

/-- A Step with its tensors. -/
structure Step_ where
  op    : Nat
  flags : Nat
  a     : Option TDesc
  b     : Option TDesc
  c     : Option TDesc
  out   : Option TDesc
  bias  : Option TDesc
  scale : Option TDesc
  par   : Bytes                            -- the 64 bytes of the Step
  bad   : Bool                             -- names a tensor beyond the table
  deriving DecidableEq, Repr

/-- A Step's tensor field: none for 0xFFFF. -/
def pickTensor (ts : List TDesc) (n : Nat) : Option TDesc := if n = 0xFFFF then none else ts[n]?

def parseStep (ts : List TDesc) (b : Bytes) : Step_ :=
  let op := fld b 0 1
  let epi := op = 1 ∨ op = 2
  let ns := [fld b 4 2, fld b 6 2, fld b 8 2, fld b 10 2] ++ (if epi then [fld b 0x14 2, fld b 0x16 2] else [])
  { op := op, flags := fld b 1 1, a := pickTensor ts (fld b 4 2), b := pickTensor ts (fld b 6 2),
    c := pickTensor ts (fld b 8 2), out := pickTensor ts (fld b 10 2),
    bias := if epi then pickTensor ts (fld b 0x14 2) else none, scale := if epi then pickTensor ts (fld b 0x16 2) else none,
    par := b, bad := ns.any fun n => n != 0xFFFF && decide (ts.length ≤ n) }

/-- A tensor's four dimensions are those given. -/
def dimsAre (t : TDesc) (l : List Nat) : Bool := (List.range 4).all fun i => t.d i == l.getD i 1

/-- The formats a tensor may have. -/
def fmtIn (t : TDesc) (l : List Nat) : Bool := l.contains t.fmt

def floats : List Nat := [0, 1, 2, 3, 4, 5, 6, 7, 8]

def arrayFmts : List Nat := floats ++ [9, 10]

/-- An optional tensor passes a check. -/
def optAll (o : Option TDesc) (p : TDesc → Bool) : Bool := (o.map p).getD true

/-- Output width of CONV2D along one dimension (Table 5.7). -/
def convOut (n pad dil k s : Nat) : Nat :=
  if s = 0 ∨ n + 2 * pad < dil * (k - 1) + 1 then 0 else (n + 2 * pad - dil * (k - 1) - 1) / s + 1

/-- Slots of a SELECT (R205). -/
def selectCap (p : Bytes) (wm hm : Nat) : Nat := ceilDiv wm (fld p 0x0C 2) * ceilDiv hm (fld p 0x0E 2) * fld p 0x10 1

/-- Capacity of a Feature List tensor: 16-byte slots after its header (Table 5.9). -/
def listSlots (t : TDesc) : Nat := (t.d 0 * t.d 1 * t.d 2 * t.d 3 - 64) / 16

/-- A strictly binary power: 1, 2, 4 or 8. -/
def strideOk (n : Nat) : Bool := [1, 2, 4, 8].contains n

/-- The formats and shapes of a Step are those of its operation (R201, Table 5.7). -/
def stepOk (x : Step_) : Bool :=
  let p := x.par
  !x.bad && match x.op, x.a, x.out with
  | 1, some a, some o =>
    match x.b with
    | some b => fmtIn a arrayFmts && fmtIn b arrayFmts && fmtIn o floats && dimsAre a [a.d 0, a.d 1] &&
        dimsAre b [a.d 0, b.d 1] && dimsAre o [b.d 1, a.d 1] &&
        optAll x.c (fun c => fmtIn c [0] && dimsAre c [b.d 1, a.d 1]) &&
        optAll x.bias (fun t => fmtIn t floats && dimsAre t [b.d 1]) &&
        optAll x.scale (fun t => fmtIn t floats && dimsAre t [b.d 1]) && decide (fld p 0x0C 1 ≤ 5)
    | none => false
  | 2, some a, some o =>
    match x.b with
    | some b =>
      let wo := convOut (a.d 1) (fld p 0x1A 1) (fld p 0x1C 1) (b.d 1) (fld p 0x18 1)
      let ho := convOut (a.d 2) (fld p 0x1B 1) (fld p 0x1C 1) (b.d 2) (fld p 0x19 1)
      fmtIn a arrayFmts && fmtIn b arrayFmts && fmtIn o floats && dimsAre a [a.d 0, a.d 1, a.d 2] && a.d 0 == b.d 0 &&
        decide (0 < fld p 0x1C 1) && decide (0 < wo) && decide (0 < ho) && dimsAre o [b.d 3, wo, ho] &&
        optAll x.c (fun c => fmtIn c [0] && dimsAre c [b.d 3, wo, ho]) &&
        optAll x.bias (fun t => fmtIn t floats && dimsAre t [b.d 3]) &&
        optAll x.scale (fun t => fmtIn t floats && dimsAre t [b.d 3]) && decide (fld p 0x0C 1 ≤ 5)
    | none => false
  | 3, some a, some o =>
    match x.b with
    | some b => fmtIn a floats && fmtIn b floats && fmtIn o floats && dimsAre o a.dims &&
        (List.range 4).all (fun i => b.d i == 1 || b.d i == a.d i) && decide (fld p 0x0C 1 ≤ 4) && decide (fld p 0x0D 1 ≤ 5)
    | none => false
  | 4, some a, some o => fmtIn a floats && fmtIn o floats && dimsAre a [a.d 0, a.d 1, a.d 2] && decide (fld p 0x0C 1 ≤ 1) &&
      decide (0 < fld p 0x0D 1 ∧ 0 < fld p 0x0E 1) &&
      dimsAre o [a.d 0, convOut (a.d 1) 0 1 (fld p 0x0D 1) (fld p 0x0F 1), convOut (a.d 2) 0 1 (fld p 0x0E 1) (fld p 0x10 1)]
  | 5, some a, some o => fmtIn a floats && fmtIn o floats && dimsAre a [a.d 0, a.d 1] && dimsAre o [a.d 0, a.d 1]
  | 6, some a, some o =>
    match x.b with
    | some b => fmtIn a [0] && fmtIn b [9] && fmtIn o [9] && dimsAre a [a.d 0, a.d 1] && dimsAre b [128] &&
        decide (0 < fld p 0x0C 2 ∧ 0 < fld p 0x0E 2 ∧ 1 ≤ fld p 0x10 1 ∧ fld p 0x10 1 ≤ 4) && strideOk (fld p 0x11 1) &&
        decide (o.d 0 * o.d 1 * o.d 2 * o.d 3 = 64 + 16 * selectCap p (a.d 0) (a.d 1))
    | none => false
  | 7, some a, some o =>
    match x.b with
    | some b => fmtIn a floats && fmtIn b [9] && fmtIn o floats && dimsAre a [a.d 0, a.d 1, a.d 2] &&
        strideOk (fld p 0x0C 1) && dimsAre o [a.d 0, listSlots b]
    | none => false
  | 8, some a, some o =>
    match x.b with
    | some b => fmtIn a floats && fmtIn b [11] && fmtIn o floats && dimsAre a [a.d 0, a.d 1] && dimsAre b [b.d 0] &&
        dimsAre o [a.d 0, b.d 0]
    | none => false
  | 9, some a, some o =>
    let r := ringDesc p 0x14
    let rows := if r.role = 0 then a.d 2 else r.slots * r.rows
    fmtIn a [0] && fmtIn o [9] && dimsAre a [a.d 0, a.d 1, a.d 2] && decide (a.d 0 ≤ fld p 0x10 2) && decide (r.role ≤ 1) &&
      (r.role == 0 || decide (1 ≤ r.slots ∧ r.flag0 + r.slots ≤ 32 ∧ 1 ≤ r.rows ∧ r.rows ≤ 64)) &&
      dimsAre o [fld p 0x10 2, a.d 1, rows]
  | 10, some a, some o =>
    match x.b with
    | some b => fmtIn a [9, 10] && fmtIn b [0] && fmtIn o [10] && dimsAre a [a.d 0, a.d 1] && dimsAre b [9, 4] &&
        dimsAre o [a.d 0, a.d 1]
    | none => false
  | 11, some a, some o =>
    match x.b with
    | some b =>
      let g := fld p 0x0C 1
      fmtIn a [9, 10] && fmtIn b [0] && fmtIn o [9, 10] && dimsAre a [a.d 0, a.d 1] && dimsAre o [o.d 0, o.d 1] &&
        [1, 4, 8, 16].contains g && dimsAre b [2, b.d 1, b.d 2] &&
        (if g = 1 then decide (o.d 0 ≤ b.d 1 ∧ o.d 1 ≤ b.d 2)
         else decide ((o.d 0 - 1) / g + 1 < b.d 1 ∧ (o.d 1 - 1) / g + 1 < b.d 2))
    | none => false
  | 12, some a, some o => dimsAre o a.dims && decide (fld p 0x0C 1 ≤ 1) &&
      (fld p 0x0C 1 == 0 || (fmtIn a [9] && fmtIn o [9] && dimsAre a [128]))
  | _, _, _ => false

/-- A tensor entry is in range and lies within its object (R201). -/
def tensorOk (s : State) (w : Who) (t : TDesc) : Bool :=
  decide (t.base ≤ 4) && decide (t.fmt ≤ 11) && decide (1 ≤ t.rank ∧ t.rank ≤ 4) && t.dims.all (fun d => decide (1 ≤ d)) &&
  (List.range 4).all (fun i => decide (i < t.rank) || t.d i == 1) && (!isBlock t.fmt || t.d 0 % 32 == 0) &&
  t.op.obj != 0 && decide (t.op.off + t.off + t.span ≤ nameLength s w.ctx t.op.obj) &&
  decide (t.op.off + t.soff + t.scaleBytes ≤ nameLength s w.ctx t.op.obj || !isBlock t.fmt)

/-! ### What the Steps compute -/

/-- A value read with its edge pixels repeated outside. -/
def edge (n : Nat) (i : Int) : Nat := (max 0 (min i ((n : Int) - 1))).toNat

/-- Interpolate between two FP32 values, each operation rounded (log 16). -/
def lerp (a b f : Val) : Val := fp32.round (a.add (fp32.round (f.mul (fp32.round (b.sub a)))))

/-- Bilinear interpolation, along x and then along y (log 16). -/
def bilerp (a b c d fx fy : Val) : Val := lerp (lerp a b fx) (lerp c d fx) fy

/-- FP32 parameter of a Step. -/
def stepF (p : Bytes) (o : Nat) : Val := fp32.decode (fld p o 4)

/-- The epilogue (R196). -/
def epilogue (p : Bytes) (scale bias : Option TData) (n : Nat) (a : Val) : Val :=
  let v := match scale with | some t => fp32.round (a.mul (t.f32 n 0 0 0)) | none => a
  let v := match bias with | some t => fp32.round (v.add (t.f32 n 0 0 0)) | none => v
  activate (fld p 0x0C 1) (stepF p 0x10) v

/-- Products of one CONV2D output: K runs over Cin, then KW, then KH; taps outside the input are zero. -/
def convProducts (a b : TData) (p : Bytes) (n x y : Nat) : List Val :=
  (List.range (b.t.d 2)).flatMap fun ky => (List.range (b.t.d 1)).flatMap fun kx => (List.range (b.t.d 0)).map fun ci =>
    let ix : Int := (x * fld p 0x18 1 + kx * fld p 0x1C 1 : Nat) - (fld p 0x1A 1 : Nat)
    let iy : Int := (y * fld p 0x19 1 + ky * fld p 0x1C 1 : Nat) - (fld p 0x1B 1 : Nat)
    let v := if 0 ≤ ix ∧ ix < a.t.d 1 ∧ 0 ≤ iy ∧ iy < a.t.d 2 then a.at ci ix.toNat iy.toNat 0 else Val.zero
    v.mul (b.at ci kx ky n)

/-- ELTWISE's function (Table 5.7). -/
def eltFn (fn : Nat) (a b : Val) : Val :=
  match fn with
  | 0 => fp32.round (a.add b)
  | 1 => fp32.round (a.sub b)
  | 2 => fp32.round (a.mul b)
  | 3 => pick 0 a b
  | _ => pick 1 a b

/-- The window of a POOL output. -/
def poolWindow (a : TData) (p : Bytes) (c x y : Nat) : List Val :=
  (List.range (fld p 0x0E 1)).flatMap fun ky => (List.range (fld p 0x0D 1)).map fun kx =>
    a.at c (x * fld p 0x0F 1 + kx) (y * fld p 0x10 1 + ky) 0

/-- A POOL output: the largest value, or the exact sum of the window divided once (R200). -/
def poolVal (a : TData) (p : Bytes) (c x y : Nat) : Val :=
  match poolWindow a p c x y with
  | [] => Val.zero
  | v :: r =>
    if fld p 0x0C 1 = 0 then r.foldl (fun m u => pick 0 m (fp32.round u)) (fp32.round v)
    else fp32.div (Val.sum (v :: r)) (.ofNat (r.length + 1))

/-- L2 norm of a row (R194, Table 5.7). -/
def rowNorm (a : TData) (r : Nat) : Val :=
  fp32.sqrt (accumulate Val.zero ((List.range (a.t.d 0)).map fun i => let v := a.at i r 0 0; v.mul v))

/-- FP32 values as integers of quarter units are exact here; `half` is 0.5. -/
def half : Val := .num false 1 (-1)

/-! #### SELECT (R205 to R207) -/

/-- A score of the map. -/
def score (a : TData) (u v : Nat) : Val := a.f32 u v 0 0

/-- The eight neighbours of a map pixel, and whether each comes before it in raster order. -/
def neighbours (u v : Nat) : List (Nat × Nat × Bool) :=
  [(u - 1, v - 1, true), (u, v - 1, true), (u + 1, v - 1, true), (u - 1, v, true),
   (u + 1, v, false), (u - 1, v + 1, false), (u, v + 1, false), (u + 1, v + 1, false)]

/-- A map pixel is a candidate (R205). -/
def candidate (a : TData) (thresh : Val) (u v : Nat) : Bool :=
  let s := score a u v
  decide (1 ≤ u ∧ u + 1 < a.t.d 0 ∧ 1 ≤ v ∧ v + 1 < a.t.d 1) && Val.le thresh s &&
  (neighbours u v).all fun n => let m := score a n.1 n.2.1; if n.2.2 then m.lt s else Val.le m s

/-- Clamp an FP32 value, free for a NaN (log 12). -/
def clampVal (lo hi v : Val) : Val := pick 1 (pick 0 v lo) hi

/-- The refined image position along one axis, in units of 1/256 pixel (R206). -/
def refine (l m r : Val) (u stride : Nat) : Nat :=
  let f := fp32.round
  let den := (f ((f (l.sub (m.mul (.ofNat 2)))).add r)).mul (.ofNat 2)
  let du := if den.isZero then Val.zero else clampVal half.neg half (fp32.div (f (l.sub r)) (f den))
  let x := f ((f ((f ((f ((Val.ofNat u).add du)).add half)).mul (.ofNat stride))).sub half)
  (x.mul (.ofNat 256)).nearestInt.toNat

/-- The candidates of a cell, best first: higher score, then lower raster index. -/
def cellList (a : TData) (p : Bytes) (cx cy : Nat) : List (Nat × Nat) :=
  let cw := fld p 0x0C 2
  let ch := fld p 0x0E 2
  let l := ((List.range ch).flatMap fun j => (List.range cw).map fun i => (cx * cw + i, cy * ch + j)).filter fun q =>
    decide (q.1 < a.t.d 0 ∧ q.2 < a.t.d 1) && candidate a (stepF p 0x14) q.1 q.2
  sortBy (fun q r => (score a r.1 r.2).lt (score a q.1 q.2)) l

/-- One keypoint entry (Table 5.10). -/
def keypoint (a : TData) (p : Bytes) (cell rank : Nat) (q : Nat × Nat) : Bytes :=
  let s (i j : Nat) := score a i j
  let stride := fld p 0x11 1
  le 4 (refine (s (q.1 - 1) q.2) (s q.1 q.2) (s (q.1 + 1) q.2) q.1 stride) ++
  le 4 (refine (s q.1 (q.2 - 1)) (s q.1 q.2) (s q.1 (q.2 + 1)) q.2 stride) ++
  le 4 (fp32.encode (s q.1 q.2)) ++ le 2 cell ++ le 1 rank ++ le 1 1

/-- The Feature List of a SELECT, and its OVERFLOW. -/
def selectList (a b : TData) (p : Bytes) : Bytes × Nat :=
  let nx := ceilDiv (a.t.d 0) (fld p 0x0C 2)
  let ny := ceilDiv (a.t.d 1) (fld p 0x0E 2)
  let per := fld p 0x10 1
  let cells := (List.range (nx * ny)).map fun c => (c, cellList a p (c % nx) (c / nx))
  let extra := (cells.map fun c => c.2.length - per).foldl (· + ·) 0
  let found := (cells.map fun c => min per c.2.length).foldl (· + ·) 0
  let r := b.elems
  let head := (r.drop 0x60).take 12 ++ (r.drop 0x14).take 4 ++ (r.drop 0x04).take 4 ++ (r.drop 0x6C).take 4 ++
    le 4 (nx * ny * per) ++ le 4 found ++ le 4 extra ++ le 2 (fld p 0x0C 2) ++ le 2 (fld p 0x0E 2) ++ le 2 nx ++ le 2 ny ++
    le 1 per ++ le 1 (fld p 0x12 1) ++ (r.drop 0x1A).take 2 ++ le 16 0
  (head ++ cells.flatMap fun c =>
    let kept := c.2.take per
    (enum kept).flatMap (fun e => keypoint a p c.1 e.1 e.2) ++ le (16 * (per - kept.length)) 0, extra)

/-! #### SAMPLE and REMAP (R208, R211) -/

/-- Map coordinate of a slot's position, in FP32 (R208). -/
def mapCoord (x256 stride : Nat) : Val :=
  let f := fp32.round
  f ((f ((f ((f (.num false x256 (-8))).add half)).mul (.num false 1 (-(Nat.log2 stride : Int))))).sub half)

/-- Whether a sample's footprint leaves the map along one axis. -/
def leaves (n : Nat) (u : Val) : Bool := !u.isFinite || decide (u.floor < 0) || decide ((n : Int) - 1 < u.floor + 1)

/-- A footprint's pixel of weight 0 is not needed: the sample needs a pixel outside the map. -/
def needsOutside (n : Nat) (u : Val) : Bool :=
  let f := u.floor
  let frac := u.sub (.ofInt f)
  decide (f < 0) || decide ((n : Int) ≤ f) || (decide ((n : Int) ≤ f + 1) && !frac.isZero)

/-- One element of a SAMPLE (R208). -/
def sampleVal (a : TData) (u v : Val) (c : Nat) : Val :=
  let fu := u.floor
  let fv := v.floor
  let g (i j : Int) := a.f32 c (edge (a.t.d 1) i) (edge (a.t.d 2) j) 0
  bilerp (g fu fv) (g (fu + 1) fv) (g fu (fv + 1)) (g (fu + 1) (fv + 1)) (fp32.round (u.sub (.ofInt fu))) (fp32.round (v.sub (.ofInt fv)))

/-- Entry i of a Feature List tensor's bytes: X, Y and VALID. -/
def slotOf (b : TData) (i : Nat) : Nat × Nat × Bool :=
  (fld b.elems (64 + 16 * i) 4, fld b.elems (68 + 16 * i) 4, bit (fld b.elems (64 + 16 * i + 15) 1) 0)

/-- Source position of a REMAP output pixel (R211). -/
def remapPos (b : TData) (grid x y c : Nat) : Val :=
  if grid = 1 then b.f32 c x y 0
  else
    let frac (i : Nat) : Val := .num false (i % grid) (-(Nat.log2 grid : Int))
    let g (i j : Nat) := b.f32 c i j 0
    bilerp (g (x / grid) (y / grid)) (g (x / grid + 1) (y / grid)) (g (x / grid) (y / grid + 1))
      (g (x / grid + 1) (y / grid + 1)) (frac x) (frac y)

/-- One output of a REMAP, none when the footprint leaves the source. -/
def remapVal (a b : TData) (grid x y : Nat) : Option Val :=
  let u := remapPos b grid x y 0
  let v := remapPos b grid x y 1
  if leaves (a.t.d 0) u || leaves (a.t.d 1) v then none
  else
    let i := u.floor.toNat
    let j := v.floor.toNat
    let g (i j : Nat) := a.f32 i j 0 0
    some (bilerp (g i j) (g (i + 1) j) (g i (j + 1)) (g (i + 1) (j + 1)) (fp32.round (u.sub (.ofNat i))) (fp32.round (v.sub (.ofNat j))))

/-- One output of PHASECONV: the exact sum over the taps, in raster order of the neighbourhood (R210). -/
def phaseVal (a b : TData) (x y : Nat) : Val :=
  let set := x % 2 + 2 * (y % 2)
  Val.sum ((List.range 9).map fun t =>
    (b.f32 t set 0 0).mul (a.at (edge (a.t.d 0) ((x : Int) + t % 3 - 1)) (edge (a.t.d 1) ((y : Int) + t / 3 - 1)) 0 0))

/-- One byte of a cost volume, and whether its cost was NaN (R209). -/
def costByte (a : TData) (q : Val) (i x y : Nat) : Nat × Nat :=
  if a.t.d 0 ≤ i then (0, 0)
  else match (a.f32 i x y 0).mul q with
  | .nan => (127, 1)
  | .inf neg => (if neg then 0 else 127, 0)
  | v => ((max 0 (min 127 v.nearestInt)).toNat, 0)

/-- A copied Frame Record for a luma plane of a pitch (R210). -/
def lumaRecord (r : Bytes) (pitch : Nat) : Bytes :=
  let r := overlay r 0x24 [1, 16, 0xFF]
  let r := overlay r 0x1C (le 4 pitch ++ le 4 (pitch * fld r 0x1A 2))
  overlay r 0x30 (le 4 0)

/-! ### One Step -/

/-- Bytes that a Step stores, each with its offset in its tensor's operand, and the counts it adds. -/
structure StepOut where
  bytes : List (Nat × Bytes) := []
  tally : Tally := {}

/-- A Step's stores when each output element is given. -/
def store (o : TDesc) (x : Step_) (f : Nat → Nat → Nat → Nat → Val) (outside : Nat := 0) : StepOut :=
  let r := storeTensor o (bit x.flags 0) f
  { bytes := r.1, tally := { nonfinite := r.2.1, saturated := r.2.2, outside := outside } }

/-- The bytes of rows `y0` to `y0 + n - 1` of a COSTQ Step's volume, stored from row `to_` of its OUT, and the NaN costs in them. -/
def costRows (a : TData) (p : Bytes) (o : TDesc) (y0 n to_ : Nat) : List (Nat × Bytes) × Nat :=
  let l := (List.range (min n (a.t.d 2 - y0))).flatMap fun j => (List.range (a.t.d 1)).map fun x =>
    (o.off + o.rowAt x (to_ + j) 0, (List.range (fld p 0x10 2)).map fun i => costByte a (stepF p 0x0C) i x (y0 + j))
  (l.map fun e => (e.1, e.2.map fun c => BitVec.ofNat 8 c.1), (l.map fun e => (e.2.map (·.2)).foldl (· + ·) 0).foldl (· + ·) 0)

/-- A Step's computation over the tensors it reads. `rest` are the Steps after it, for COPY of a record. -/
def runStep (x : Step_) (rest : List Step_) (a : TData) (b c bias scale : Option TData) (o : TDesc) : StepOut :=
  let p := x.par
  match x.op, b with
  | 1, some b => store o x fun n m _ _ =>
      epilogue p scale bias n (accumulate ((c.map fun c => c.f32 n m 0 0).getD Val.zero)
        ((List.range (a.t.d 0)).map fun k => (a.at k m 0 0).mul (b.at k n 0 0)))
  | 2, some b => store o x fun n i j _ =>
      epilogue p scale bias n (accumulate ((c.map fun c => c.f32 n i j 0).getD Val.zero) (convProducts a b p n i j))
  | 3, some b =>
      let g (d i : Nat) : Nat := if b.t.d d = 1 then 0 else i
      store o x fun i j k l =>
        activate (fld p 0x0D 1) (stepF p 0x10) (eltFn (fld p 0x0C 1) (a.f32 i j k l) (b.f32 (g 0 i) (g 1 j) (g 2 k) (g 3 l)))
  | 4, _ => store o x fun i j k _ => poolVal a p i j k
  | 5, _ => store o x fun i j _ _ => let n := rowNorm a j; if n.isZero then Val.zero else fp32.div (a.at i j 0 0) n
  | 6, some b =>
      let r := selectList a b p
      { bytes := [(o.off, r.1)], tally := { overflow := r.2 } }
  | 7, some b =>
      let st := fld p 0x0C 1
      let n := listSlots b.t
      let pos (i : Nat) := let q := slotOf b i; (mapCoord q.1 st, mapCoord q.2.1 st, q.2.2)
      let out := ((List.range n).filter fun i => let q := pos i; q.2.2 && (needsOutside (a.t.d 1) q.1 || needsOutside (a.t.d 2) q.2.1)).length
      store o x (fun c i _ _ => let q := pos i; if q.2.2 then sampleVal a q.1 q.2.1 c else Val.zero) out
  | 8, some b =>
      let out := ((List.range (b.t.d 0)).filter fun i => decide (a.t.d 1 ≤ b.raw i 0 0 0)).length
      store o x (fun c i _ _ => let r := b.raw i 0 0 0; if r < a.t.d 1 then a.f32 c r 0 0 else Val.zero) out
  | 9, _ =>
      let r := costRows a p o 0 (a.t.d 2) 0
      { bytes := r.1, tally := { nonfinite := r.2 } }
  | 10, some b => store o x fun i j _ _ => phaseVal a b i j
  | 11, some b =>
      let g := fld p 0x0C 1
      let out := ((List.range (o.d 1)).map fun j => ((List.range (o.d 0)).filter fun i => (remapVal a b g i j).isNone).length).foldl (· + ·) 0
      store o x (fun i j _ _ => (remapVal a b g i j).getD Val.zero) out
  | 12, _ =>
      if fld p 0x0C 1 = 1 then
        let pitch := ((rest.find? fun y => y.op == 10).bind (·.out)).elim 0 fun t => t.pitch.getD 0 0
        { bytes := [(o.off, lumaRecord a.elems pitch)] }
      else store o x fun i j k l => a.f32 i j k l
  | _, _ => {}

/-! ### The Leg -/

/-- A Tensor Program as read. -/
structure Prog where
  tally : Nat
  steps : List Step_
  ok    : Bool
  deriving DecidableEq, Repr

/-- Read and check a Leg's Tensor Program (R201); none when it cannot be read. -/
def readProg (s : State) (w : Who) (g : Leg) : Option Prog :=
  match rdName s w g.desc 0 64 with
  | none => none
  | some h =>
    let nt := fld h 8 2
    let ns := fld h 6 2
    let tOff := fld h 0x10 4
    let sOff := fld h 0x14 4
    let len := nameLength s w.ctx g.desc
    let hok := decide (fld h 0 4 = 0x5450524F) && formatListed s 2 (fld h 4 2) && decide (1 ≤ ns ∧ ns ≤ 256 ∧ 1 ≤ nt ∧ nt ≤ 1024) &&
      decide (64 ≤ len ∧ tOff + 48 * nt ≤ len ∧ sOff + 64 * ns ≤ len)
    if !hok then some ⟨0, [], false⟩
    else
      match rdName s w g.desc tOff (48 * nt), rdName s w g.desc sOff (64 * ns) with
      | some tb, some sb =>
        let ts := (List.range nt).map fun i => parseTensor g ((tb.drop (48 * i)).take 48)
        let ss := (List.range ns).map fun i => parseStep ts ((sb.drop (64 * i)).take 64)
        let tl := fld h 0x0C 4
        some ⟨tl, ss, ts.all (tensorOk s w) && ss.all stepOk && (tl == 0 || decide (64 ≤ nameLength s w.ctx tl))⟩
      | _, _ => none

/-- A producer's pass of a cost volume through its ring, from the band at which it stood: the package after it, the stores and counts of
the bands put so far, and whether every band has gone into its slot (R174, R209). -/
def produce (s : State) (l : LegRef) (g : Leg) (x : Step_) (key : Nat) (a : TData) (o : TDesc) : State × StepOut × Bool :=
  let r := ringDesc x.par 0x14
  let n := ceilDiv (a.t.d 2) r.rows
  let band (k : Nat) := costRows a x.par o (k * r.rows) r.rows (k % r.slots * r.rows)
  let from_ := ((runOf s l).map fun y => tgetD y.sent key 0).getD 0
  let (t, k) := putBands g l r n (fun k => (band k).1.map fun e => (o.op, e.1, e.2)) (2 * n + r.slots) s from_
  let all := (List.range k).map band
  (modRun t l fun y => { y with sent := tput y.sent key k },
   { bytes := all.flatMap (·.1), tally := { nonfinite := (all.map (·.2)).foldl (· + ·) 0 } }, decide (n ≤ k))

/-- What running a program gives: the package with the program's effects applied so far, the writes in order, the tally and
the slowest tier. -/
structure ProgRun where
  s      : State
  writes : List (OpEnt × Nat × Bytes) := []
  slots  : List (OpEnt × Nat × Bytes) := []
  tally  : Tally := {}
  bad    : Bool := false                   -- an input could not be read
  wait   : Bool := false                   -- a producer waits for EMPTY

/-- Add a Step's counts. -/
def Tally.plus (t u : Tally) (cond : Bool) : Tally :=
  { nanIn := satAdd max32 t.nanIn u.nanIn, nonfinite := satAdd max32 t.nonfinite u.nonfinite,
    saturated := satAdd max32 t.saturated u.saturated, overflow := satAdd max32 t.overflow u.overflow,
    outside := satAdd max32 t.outside u.outside, steps := t.steps + 1, cond := t.cond || cond }

/-- Read an optional tensor: `none` when it is named and cannot be read. -/
def loadOpt (s : State) (w : Who) : Option TDesc → Option (Option TData)
  | none => some none
  | some t => (loadTensor s w t).map some

/-- One Step of a program's run. -/
def progStep (l : LegRef) (w : Who) (g : Leg) (x : Step_) (rest : List Step_) (r : ProgRun) : ProgRun :=
  if r.bad || r.wait then r
  else
    match x.a.bind (loadTensor r.s w), loadOpt r.s w x.b, loadOpt r.s w x.c, loadOpt r.s w x.bias, loadOpt r.s w x.scale, x.out with
    | some a, some b, some c, some bias, some scale, some o =>
      let nans := ((some a :: [b, c, bias, scale]).filterMap id).foldl (fun n t => n + t.nans) 0
      let ring := x.op = 9 ∧ fld x.par 0x14 1 = 1
      let (s, y, done) := if ring then produce r.s l g x rest.length a o else (r.s, runStep x rest a b c bias scale o, true)
      if !done then { r with wait := true, s := s, slots := r.slots ++ y.bytes.map fun e => (o.op, e.1, e.2) }
      else
        let ws := y.bytes.map fun e => (o.op, e.1, e.2)
        let u : Tally := { y.tally with nanIn := nans }
        let cond := bit x.flags 1 && (if x.op = 6 then decide (0 < u.overflow) else decide (0 < u.nonfinite + u.saturated))
        { r with s := if ring then s else ws.foldl (fun s e => wrOp s w.ctx e.1 e.2.1 e.2.2) s,
                 writes := if ring then r.writes else r.writes ++ ws, slots := if ring then r.slots ++ ws else r.slots,
                 tally := r.tally.plus u cond }
    | _, _, _, _, _, _ => { r with bad := true }

/-- The Steps in list order. -/
def progRun (l : LegRef) (w : Who) (g : Leg) : List Step_ → ProgRun → ProgRun
  | [], r => r
  | x :: rest, r => progRun l w g rest (progStep l w g x rest r)

/-- The ranges that a program's Steps write (R95, R216). -/
def progRanges (p : Prog) : List (OpEnt × Nat × Nat) :=
  p.steps.flatMap fun x => (x.out.map fun o =>
    [(o.op, o.off, o.span)] ++ (if isBlock o.fmt then [(o.op, o.soff, o.scaleBytes)] else [])).getD []

/-- The tally, which an uncorrectable error leaves undefined with the outputs; an abort writes none (R216). -/
def tallyRange (p : Prog) : List (OpEnt × Nat × Nat) := if p.tally = 0 then [] else [(⟨p.tally, 0, 0⟩, 0, 64)]

/-- Tally bytes (Table 5.8). -/
def tallyBytes (t : Tally) (now : Nat) : Bytes :=
  le 4 t.nanIn ++ le 4 t.nonfinite ++ le 4 t.saturated ++ le 4 t.overflow ++ le 4 t.outside ++ le 4 t.steps ++ le 8 now ++ le 32 0

/-- The slowest tier among a program's tensors. -/
def progTier (s : State) (c : Nat) (p : Prog) : Nat :=
  (p.steps.flatMap fun x => [x.a, x.b, x.c, x.out, x.bias, x.scale].filterMap id).foldl
    (fun t d => max t (opTier s c d.op d.off d.span)) 0

/-- The scratch operand lies in the Field Memory of the Leg's own Station, where there is one (R189, R201). -/
def scratchOwn (s : State) (c : Nat) (g : Leg) (i : Nat) : Bool :=
  match opAt g i with
  | none => true
  | some o =>
    match objNamed s c o.obj with
    | some (_, b) => nearOn s c g.stn b
    | none => false

/-- The end of a Tensor Array Leg: its start checks, its Steps, its tally, its condition bit (R200 to R204, R216). -/
def tensorLeg (s : State) (l : LegRef) (r : EngineRun) : State :=
  match legOf s l with
  | none => s
  | some g =>
    if g.kind = 0 ∧ legRuns s l then
      let w := whoOf s l
      if !scratchOwn s l.ctx g 3 then refuseLeg s l ACCESS_DENIED
      else if g.subop ≠ 0 then refuseLeg s l INTEGRITY
      else
        match readProg s w g with
        | none => refuseLeg s l INTEGRITY
        | some p =>
          if !p.ok then refuseLeg s l INTEGRITY
          else
            let y := progRun l w g p.steps { s := s }
            if r.bad || y.bad then finishLeg (freeRanges s l.ctx (progRanges p ++ tallyRange p)) l { status := INTEGRITY }
            else
              let tl := if p.tally = 0 then [] else [(⟨p.tally, 0, 0⟩, 0, tallyBytes y.tally s.sup.now)]
              let s' := y.slots.foldl (fun s e => wrOp s l.ctx e.1 e.2.1 e.2.2) { y.s with objs := s.objs }
              if y.wait then s'
              else finishLeg s' l { cond := y.tally.cond, tier := progTier s l.ctx p, writes := y.writes ++ y.slots ++ tl }
    else s

def execTensorArrayLeg (l : LegRef) (r : EngineRun) (s : State) : Host.Outcome State Fault Refusal :=
  .next (onSnaps s l fun s => tensorLeg s l r)

end Sys2Proof.Machine
end

