-- ==== Sys2Proof/Machine/Ego.lean ====
section
/-!
DEFINITION. The ego filter of the Track Unit: its Filter State, propagation, observations, Collimation, Fixes and sinks, and
EGO_STEP (R217 to R242, R246, R247).
The model's own: log 35 (DEDUCED).
-/
namespace Sys2Proof.Machine
open Sys2Proof

/-! ### The Filter State (Table 6.5) -/

/-- A history entry. -/
structure EgoHist where
  tov : Int
  q   : Vec
  p   : Vec
  v   : Vec
  w   : Vec
  deriving Inhabited

/-- The estimate of a Collimation entry: q_e, t_e, td in ns. -/
structure EgoCol where
  q  : Vec
  t  : Vec
  td : Val
  deriving Inhabited

/-- The live half of a Filter State. -/
structure Filt where
  state   : Nat
  c       : Nat
  resets  : Nat
  fixSeq  : Nat
  tf      : Int
  hist    : List EgoHist
  q       : Vec
  p       : Vec
  v       : Vec
  bg      : Vec
  ba      : Vec
  lastTov : List Nat
  cnt     : List Nat
  sinks   : List Nat
  lastFix : Bytes
  cols    : List EgoCol
  pend    : List Bytes
  cov     : Mat
  deriving Inhabited

def egoDim (c : Nat) : Nat := 15 + 7 * c

/-- Base of a half, and its bytes. -/
def egoHalf (h : Nat) : Nat := 0x1000 + h * 0x27000

def egoBytes : Nat := 0x27000

def parseHist (b : Bytes) : EgoHist := ⟨tovAt b 0, vec64 b 0x10 4, vec64 b 0x30 3, vec64 b 0x48 3, vec32 b 0x60 3⟩

def parseFilt (b : Bytes) : Filt :=
  let c := min 8 (fld b 6 1)
  let n := egoDim c
  { state := fld b 0 4, c := c, resets := fld b 8 4, fixSeq := fld b 0xC 4, tf := tovAt b 0x10,
    hist := (List.range (min 1024 (fld b 0x1C 4))).map fun i => parseHist ((b.drop (0xB000 + 112 * i)).take 112),
    q := vec64 b 0x20 4, p := vec64 b 0x40 3, v := vec64 b 0x58 3, bg := vec64 b 0x70 3, ba := vec64 b 0x88 3,
    lastTov := (List.range 64).map fun i => fld b (0xA0 + 8 * i) 8, cnt := (List.range 16).map fun i => fld b (0x2A0 + 4 * i) 4,
    sinks := (List.range 4).map fun i => fld b (0x2E0 + 8 * i) 8, lastFix := (b.drop 0x300).take 256,
    cols := (List.range c).map fun i => ⟨vec64 b (0x400 + 64 * i) 4, vec64 b (0x420 + 64 * i) 3, f64At b (0x438 + 64 * i)⟩,
    pend := ((List.range 16).map fun i => (b.drop (0x600 + 160 * i)).take 160).filter fun o => bit (fld o 0xE 2) 0,
    cov := (List.range n).map fun i => vec64 b (0x1000 + 8 * n * i) n }

def tovBytes (t : Int) : Bytes := le 8 (tovInt t) ++ le 4 (tovFrac t)

def histBytes (h : EgoHist) : Bytes :=
  tovBytes h.tov ++ le 4 0 ++ bytes64 h.q ++ bytes64 h.p ++ bytes64 h.v ++ bytes32 h.w ++ le 4 0

/-- The pieces of a half, by offset from its base. -/
def filtWrites (f : Filt) : List (Nat × Bytes) :=
  [(0, le 4 f.state ++ le 2 (egoDim f.c) ++ le 1 f.c ++ le 1 0 ++ le 4 f.resets ++ le 4 f.fixSeq ++ tovBytes f.tf ++ le 4 f.hist.length ++
      bytes64 (f.q ++ f.p ++ f.v ++ f.bg ++ f.ba) ++ f.lastTov.flatMap (le 8) ++ f.cnt.flatMap (le 4) ++ f.sinks.flatMap (le 8) ++
      f.lastFix ++ f.cols.flatMap fun c => bytes64 (c.q ++ c.t ++ [c.td])),
   (0x600, (f.pend ++ List.replicate (16 - f.pend.length) (le 160 0)).flatten),
   (0x1000, f.cov.flatMap bytes64),
   (0xB000, f.hist.flatMap histBytes)]

/-- Count in counter `i` of Table 6.5, saturating. -/
def Filt.count (f : Filt) (i n : Nat) : Filt := { f with cnt := setAt f.cnt i fun x => satAdd max32 x n }

/-! ### The Filter Descriptor (Tables 6.3, 6.4, 6.10, R226) -/

def orDefault (v d : Nat) : Nat := if v = 0 then d else v

def fdVision (d : Bytes) : Nat := orDefault (fld d 4 4) 100000000
def fdWindow (d : Bytes) : Nat := orDefault (fld d 0x14 4) 100000000
def fdMaxDt (d : Bytes) : Nat := orDefault (fld d 0x18 4) 10000000

/-- KIND and COLLIM of sensor `i`. -/
def fdKind (d : Bytes) (i : Nat) : Nat := fld d (0x100 + 8 * i) 1

def fdCol (d : Bytes) (i : Nat) : Nat := fld d (0x101 + 8 * i) 1

/-- Factor on the sigmas of sensor `i`. -/
def fdScale (d : Bytes) (i : Nat) : Val := if (f32At d (0x104 + 8 * i)).isZero then one64 else f32At d (0x104 + 8 * i)

/-- The sensor's Collimation entry, if it has one in use. -/
def fdEntry (d : Bytes) (f : Filt) (i : Nat) : Option Nat := if fdCol d i < f.c then some (fdCol d i) else none

/-- Host Port, log2 depth and base of a sink. -/
def fdSink (d : Bytes) (j : Nat) : Nat × Nat × Nat := (fld d (0x80 + 16 * j) 1, fld d (0x81 + 16 * j) 1, fld d (0x88 + 16 * j) 8)

/-- The check of the Filter Descriptor: 0, INTEGRITY or ACCESS_DENIED. -/
def fdCheck (s : State) (d : Bytes) : Nat :=
  let n := fld d 1 1
  let v := fld d 4 4
  let sinkOk (j : Nat) : Bool :=
    let k := fdSink d j
    k.1 == 0xFF || (decide (k.1 ≤ 3) && decide (4 ≤ k.2.1) && decide (k.2.1 ≤ 16))
  let allowed (j : Nat) : Bool :=
    let k := fdSink d j
    k.1 == 0xFF || (decide (k.1 < nHost s) && bit (portOf s k.1).cfg.inForce 4)
  firstFail [
    need (decide (fld d 0 1 ≤ 8 ∧ 1 ≤ n ∧ n ≤ 64 ∧ fld d 2 1 < n ∧ (fld d 3 1 = 0 ∨ fld d 3 1 = 32)) &&
      decide ((v = 0 ∨ (1000000 ≤ v ∧ v ≤ 4000000000)) ∧ 250000 ≤ fld d 0x10 4 ∧ fld d 0x10 4 ≤ 1000000000) &&
      sinkOk 0 && sinkOk 1 &&
      ((List.range n).all fun i => decide (fdKind d i ≤ 4) && (fdCol d i == 0xFF || decide (fdCol d i < 8))) &&
      (List.range (fld d 0 1)).all fun c => decide (fld d (0x340 + 96 * c) 1 < n)) INTEGRITY,
    need (allowed 0 && allowed 1) ACCESS_DENIED]

/-! ### A Leg's working state -/

/-- The package (for events), the filter, what it remembers, and what this Leg has counted. -/
structure EgoRun where
  s       : State
  f       : Filt
  aux     : Ego
  moved   : Bool := false
  gap     : Bool := false
  shifted : Bool := false
  reset   : Bool := false
  applied : Nat := 0
  gated   : Nat := 0

/-- Write an event of the ego filter: offset 0x10 holds the Filter State's Object ID (R247). -/
def egoEvent (r : EgoRun) (c id type status : Nat) (l : List Fld) : EgoRun :=
  { r with s := event r.s c type status ((0x10, 4, id) :: l) }

/-! ### Propagation (R223 to R225) -/

/-- ToV and channels of the new entries of a take (Tables 3.6, 3.7). -/
def takeEntries (s : State) (w : Who) (o : OpEnt) : Option (List (Int × List Int)) :=
  match rdOp s w o 0 32 with
  | none => none
  | some h =>
    match rdOp s w o 32 (48 * fld h 0 4) with
    | none => none
    | some b => some ((List.range (fld h 0 4)).map fun i =>
        let e := (b.drop (48 * i)).take 48
        (tovAt e 0, (List.range 6).map fun j => ifld e (0x18 + 4 * j) 4))

/-- Channels scaled: accelerations, then rates. -/
def scaleImu (d : Bytes) (l : List Int) : Vec :=
  (enum l).map fun e => mul64 (.ofInt e.2) (f64At d (if e.1 < 3 then 0x20 else 0x28))

/-- Add a history entry, the oldest going once 1,024 are held. -/
def addHist (l : List EgoHist) (h : EgoHist) : List EgoHist :=
  if l.length < 1024 then l ++ [h]
  else
    let old := l.foldl (fun m e => min m e.tov) h.tov
    l.map fun e => if e.tov = old then h else e

/-- Integrate one inertial entry; `phi` is the running transition. -/
def imuStep (d : Bytes) (c id : Nat) (a : EgoRun × Mat) (e : Int × List Int) : EgoRun × Mat :=
  let r := a.1
  let f := r.f
  if e.1 ≤ f.tf then a
  else
    let dt := seconds (e.1 - f.tf)
    let gap := decide (((fdMaxDt d * 4294967296 : Nat) : Int) < e.1 - f.tf)
    let own := scaleImu d e.2
    let old := if r.aux.prev.isEmpty then own else scaleImu d r.aux.prev
    let cur := if gap then old else own
    let mean := vecScale (pow2 (-1)) (vecAdd cur old)
    let w := vecSub (mean.drop 3) f.bg
    let acc := vecSub (mean.take 3) f.ba
    let wdt := vecScale dt w
    let q' := dvals (qMul (dvec f.q) (se3Exp (dvec (zeroVec 3)) (dvec wdt)).1)
    let aw := vecAdd (dvals (qRot (dvec f.q) (dvec acc))) [.zero, .zero, (f64At d 0x50).neg]
    let p' := vecAdd (vecAdd f.p (vecScale dt f.v)) (vecScale (mul64 (mul64 dt dt) (pow2 (-1))) aw)
    let v' := vecAdd f.v (vecScale dt aw)
    let idt (x : Val) : Mat := diagMat [x, x, x]
    let rot := qMat f.q
    let k := putBlock (matId 15) 0 0 (qMat (dvals (qExp (dvec (wdt.map Val.neg)))))
    let k := putBlock k 0 9 (idt dt.neg)
    let k := putBlock k 3 6 (idt dt)
    let k := putBlock k 6 0 ((matMul 3 rot (skew acc)).map fun row => vecScale dt.neg row)
    let k := putBlock k 6 12 (rot.map fun row => vecScale dt.neg row)
    let r := if gap then egoEvent { r with f := r.f.count 6 1, gap := true } c id 0x0135 0 [(0x18, 8, tovInt f.tf), (0x20, 8, tovInt e.1)]
      else r
    let f' := { r.f with q := q', p := p', v := v', tf := e.1, hist := addHist r.f.hist ⟨e.1, q', p', v', w⟩ }
    ({ r with f := f', aux := { r.aux with prev := e.2 }, moved := true }, matMul 15 k a.2)

/-- Propagate the covariance over Δ seconds by the core transition. -/
def propagateCov (d : Bytes) (phi : Mat) (delta : Val) (f : Filt) : Filt :=
  let x := 7 * f.c
  let pcc := matMul 15 (matMul 15 phi (subBlock f.cov 0 0 15 15)) (matT 15 phi)
  let pcx := matMul x phi (subBlock f.cov 0 15 15 x)
  let m := putBlock (putBlock (putBlock f.cov 0 0 pcc) 0 15 pcx) 15 0 (matT x pcx)
  let noise (i : Nat) : Val :=
    let o := if i < 3 then some 0x30 else if i < 6 then none else if i < 9 then some 0x38 else if i < 12 then some 0x40
      else if i < 15 then some 0x48 else none
    match o with
    | some o => mul64 (mul64 (f64At d o) (f64At d o)) delta
    | none => .zero
  { f with cov := (enum m).map fun e => (enum e.2).map fun x => if x.1 = e.1 then add64 x.2 (noise e.1) else x.2 }

/-- Integrate a take; one without new entries leaves no previous entry (R223, R225). -/
def propagate (d : Bytes) (c id : Nat) (r : EgoRun) (l : List (Int × List Int)) : EgoRun :=
  let t0 := r.f.tf
  let new := l.filter fun e => decide (t0 < e.1)
  if new.isEmpty then { r with aux := { r.aux with prev := [] } }
  else
    let a := new.foldl (imuStep d c id) (r, matId 15)
    { a.1 with f := propagateCov d a.2 (seconds (a.1.f.tf - t0)) a.1.f, aux := { a.1.aux with stall := false } }

/-! ### Initialisation (R227 step 1) -/

def square (x : Val) : Val := mul64 x x

/-- Variances of a Collimation entry's seven components: its sigmas, td in seconds. -/
def colVars (d : Bytes) (c : Nat) : Vec :=
  let g (i : Nat) : Val := f32At d (0x300 + 96 * c + 0x50 + 4 * i)
  let r := square (g 0)
  let t := square (g 1)
  [r, r, r, t, t, t, square (div64 (g 2) (.ofNat 1000000000))]

/-- Nominal estimate of a Collimation entry (Table 6.10). -/
def colNominal (d : Bytes) (c : Nat) : EgoCol :=
  let b := d.drop (0x300 + 96 * c)
  ⟨vec64 b 0 4, vec64 b 0x20 3, f64At b 0x38⟩

/-- Initialise the filter from an INIT observation. -/
def egoInit (d : Bytes) (r : EgoRun) (o : Bytes) : EgoRun :=
  let c := fld d 0 1
  let t := tovAt o 0
  let g (i : Nat) : Vec := List.replicate 3 (square (f32At d (0xA0 + 4 * i)))
  let f : Filt :=
    { state := 1, c := c, resets := wrap32 (r.f.resets + 1), fixSeq := 0, tf := t, hist := [], q := vec64 o 0x10 4, p := vec64 o 0x30 3,
      v := vec64 o 0x48 3, bg := vec64 o 0x60 3, ba := vec64 o 0x78 3, lastTov := List.replicate 64 0, cnt := List.replicate 16 0,
      sinks := [0, 0, r.f.sinks.getD 2 0, r.f.sinks.getD 3 0], lastFix := r.f.lastFix,
      cols := (List.range c).map (colNominal d), pend := [],
      cov := diagMat ((List.range 5).flatMap g ++ (List.range c).flatMap (colVars d)) }
  { r with f := f, moved := true, reset := true,
           aux := { r.aux with prev := [], init := t, limited := 0, reason := 0, stall := false } }

/-! ### Observations (Tables 6.6 to 6.8, R228) -/

/-- An observation on its way through a Leg: its source (0 pending, 1 and 2 the batches) and its τ. -/
structure EgoObs where
  b       : Bytes
  src     : Nat
  shifted : Bool
  tau     : Int

def EgoObs.kind (o : EgoObs) : Nat := fld o.b 0xC 1

def EgoObs.sensor (o : EgoObs) : Nat := fld o.b 0xD 1

/-- Scalar rows of an observation. -/
def obsRows (b : Bytes) : Nat :=
  match fld b 0xC 1 with
  | 1 => 2
  | 2 => 6
  | 3 => if (f32At b 0x1C).isZero then 1 else 3
  | 4 => 3
  | _ => 0

/-- The nominal state at τ, from the two history entries around it. -/
def poseAt (l : List EgoHist) (t : Int) : Option EgoHist :=
  let pick (better : Int → Int → Bool) (m : List EgoHist) : Option EgoHist :=
    m.foldl (fun a e => match a with
      | none => some e
      | some x => if better e.tov x.tov then some e else a) none
  match pick (fun a b => decide (b < a)) (l.filter fun e => decide (e.tov ≤ t)),
        pick (fun a b => decide (a < b)) (l.filter fun e => decide (t ≤ e.tov)) with
  | some a, some b =>
    if a.tov = b.tov then some a
    else
      let k := div64 (.ofInt (t - a.tov)) (.ofInt (b.tov - a.tov))
      let lin (x y : Vec) : Vec := vecAdd x (vecScale k (vecSub y x))
      let turn := dvals (qLog (qMul (qConj (dvec a.q)) (dvec b.q)))
      some ⟨t, dvals (qMul (dvec a.q) (qExp (dvec (vecScale k turn)))), lin a.p b.p, lin a.v b.v, lin a.w b.w⟩
  | _, _ => none

/-- A vector whose derivatives are those of a seed at `at_` and, along component `td` if there is one, the rate. -/
def seedMoving (n at_ : Nat) (v rate : Vec) (td : Option Nat) : DVec :=
  (enum (seed n at_ v)).map fun e =>
    match td with
    | some k => { e.2 with d := setAt e.2.d k fun _ => rate.getD e.1 .zero }
    | none => e.2

/-- The residual of an observation, with its derivatives in the error state at t_f taken at the pose at τ (R228, R232). -/
def obsResidual (d : Bytes) (f : Filt) (o : EgoObs) (h : EgoHist) : DVec :=
  let n := egoDim f.c
  let ent := fdEntry d f o.sensor
  let td := ent.map fun c => 21 + 7 * c
  let q := qTurned h.q (seedMoving n 0 (zeroVec 3) h.w td)
  let p := seedMoving n 3 h.p h.v td
  let v := seed n 6 h.v
  let w := (seed n 9 h.w).map fun x => { x with d := x.d.map Val.neg }
  let id : EgoCol := ⟨[one64, .zero, .zero, .zero], zeroVec 3, .zero⟩
  let ext := match ent with
    | some c => f.cols.getD c id
    | none => id
  let qe := match ent with
    | some c => seedRot n (15 + 7 * c) ext.q
    | none => dvec ext.q
  let te := match ent with
    | some c => seed n (18 + 7 * c) ext.t
    | none => dvec ext.t
  match o.kind with
  | 1 =>
    let u := qRotT qe (DVec.sub (qRotT q (DVec.sub (dvec (vec64 o.b 0x10 3)) p)) te)
    let b := let m := DVec.norm u; u.map fun x => x.div m
    let bv := dvec (dvals b)
    let unit (x : DVec) : DVec := let m := DVec.norm x; x.map fun y => y.div m
    let z := DVec.cross bv (dvec [.zero, .zero, one64])
    let e1 := unit (if (DVec.norm z).v.lt (div64 one64 (.ofNat 10)) then DVec.cross bv (dvec [one64, .zero, .zero]) else z)
    let e2 := DVec.cross bv e1
    let r := DVec.sub (dvec (vec32 o.b 0x28 3)) b
    [DVec.dot e1 r, DVec.dot e2 r]
  | 2 => qLog (qMul (qConj q) (dvec (vec64 o.b 0x10 4))) ++ DVec.sub (dvec (vec64 o.b 0x30 3)) p
  | 3 =>
    let u := qRotT qe (DVec.add (qRotT q v) (DVec.cross w te))
    Du.sub (du (f64At o.b 0x10)) (dAt u 0) :: (if obsRows o.b = 1 then [] else [(dAt u 1).neg, (dAt u 2).neg])
  | _ => DVec.sub (dvec (vec64 o.b 0x10 3)) (DVec.add p (qRot q te))

/-- The observation's covariance: sigmas scaled by NOISE_SCALE, the delay's variance added to each row (R228, R229). -/
def obsCov (d : Bytes) (f : Filt) (o : EgoObs) : Mat :=
  let k2 := square (fdScale d o.sensor)
  let s2 (x : Val) : Val := mul64 (square x) k2
  let m := match o.kind with
    | 1 => let x := s2 (f32At o.b 0x34); diagMat [x, x]
    | 2 => (fromUpper 6 (vec32 o.b 0x48 21)).map (vecScale k2)
    | 3 =>
      if obsRows o.b = 1 then diagMat [s2 (f32At o.b 0x18)]
      else diagMat [s2 (f32At o.b 0x18), s2 (f32At o.b 0x1C), s2 (f32At o.b 0x1C)]
    | _ => (fromUpper 3 (vec32 o.b 0x28 6)).map (vecScale k2)
  let late := square (mul64 (f32At d (0x70 + 4 * (o.kind - 1))) (seconds (f.tf - o.tau)))
  (enum m).map fun e => (enum e.2).map fun x => if x.1 = e.1 then add64 x.2 late else x.2

/-- Gate of a kind (Tables 6.3, 6.8). -/
def obsGate (d : Bytes) (kind : Nat) : Val :=
  let g := f32At d (0x60 + 4 * (kind - 1))
  if g.isZero then fp32.div (.ofNat ([921, 1681, 663, 1134].getD (kind - 1) 0)) (.ofNat 100) else g

/-- The rows of H: minus the residual's derivatives. -/
def hRows (n : Nat) (r : DVec) : Mat := r.map fun x => if x.d.isEmpty then zeroVec n else x.d.map Val.neg

/-- d² of a residual under S (R229). -/
def mahalanobis (sm : Mat) (r : Vec) : Val := dot64 r (cholSolve (cholesky sm).1 r)

/-- An observation passes the gate against the filter's own prediction. -/
def passesGate (d : Bytes) (f : Filt) (o : EgoObs) : Bool :=
  match poseAt f.hist o.tau with
  | none => false
  | some h =>
    let r := obsResidual d f o h
    let n := egoDim f.c
    let hm := hRows n r
    let sm := matAdd (matMul r.length (matMul n hm f.cov) (matT n hm)) (obsCov d f o)
    !(obsGate d o.kind).lt (mahalanobis sm (dvals r))

/-! ### Updates (R230, R231, R233) -/

/-- Component `k` of Collimation entry `e` is frozen, in the descriptor or by its limit (R233). -/
def colFrozen (d : Bytes) (limited e k : Nat) : Bool := bit (fld d (0x341 + 96 * e) 1) k || bit limited (3 * e + k)

/-- The error-state components that are never updated: those of frozen Collimation components. -/
def frozenIdx (d : Bytes) (limited c : Nat) : List Nat :=
  (List.range c).flatMap fun e =>
    let on (k : Nat) : Bool := colFrozen d limited e k
    (if on 0 then [15 + 7 * e, 16 + 7 * e, 17 + 7 * e] else []) ++ (if on 1 then [18 + 7 * e, 19 + 7 * e, 20 + 7 * e] else []) ++
      (if on 2 then [21 + 7 * e] else [])

/-- Add the step to the nominal state. -/
def inject (f : Filt) (dx : Vec) : Filt :=
  let at3 (i : Nat) : Vec := (dx.drop i).take 3
  let turn (q : Vec) (i : Nat) : Vec := dvals (qMul (dvec q) (qExp (dvec (at3 i))))
  { f with q := turn f.q 0, p := vecAdd f.p (at3 3), v := vecAdd f.v (at3 6), bg := vecAdd f.bg (at3 9), ba := vecAdd f.ba (at3 12),
           cols := (enum f.cols).map fun e =>
             ⟨turn e.2.q (15 + 7 * e.1), vecAdd e.2.t (at3 (18 + 7 * e.1)),
               fma64 (dx.getD (21 + 7 * e.1) .zero) (.ofNat 1000000000) e.2.td⟩ }

/-- The attitude blocks of G. -/
def resetMat (c : Nat) (dx : Vec) : Mat :=
  let block (i : Nat) : Mat := matSub (matId 3) (skew (vecScale (pow2 (-1)) ((dx.drop i).take 3)))
  (0 :: (List.range c).map (15 + 7 * ·)).foldl (fun m i => putBlock m i i (block i)) (matId (egoDim c))

/-- Set back onto its limit a Collimation component that has passed it; it is frozen from then on. A component frozen already stays as it is
(R233). -/
def limitCol (d : Bytes) (c id : Nat) (r : EgoRun) (e : Nat) : EgoRun :=
  let z := colNominal d e
  let x := r.f.cols.getD e z
  let lim (k : Nat) : Val := f32At d (0x344 + 96 * e + 4 * k)
  let phi := dvals (qLog (qMul (qConj (dvec z.q)) (dvec x.q)))
  let len (v : Vec) : Val := fp64.sqrt (dot64 v v)
  let dt := vecSub x.t z.t
  let dd := sub64 x.td z.td
  let hit (r : EgoRun) (k : Nat) (x : EgoCol) : EgoRun :=
    egoEvent { r with f := { r.f with cols := setAt r.f.cols e fun _ => x },
                      aux := { r.aux with limited := r.aux.limited ||| 2 ^ (3 * e + k) } } c id 0x0137 0 [(0x14, 1, e), (0x15, 1, k)]
  let past (k : Nat) (x : Val) : Bool := !colFrozen d r.aux.limited e k && (lim k).lt x
  let q' := if past 0 (len phi) then
      dvals (qMul (dvec z.q) (qExp (dvec (vecScale (div64 (lim 0) (len phi)) phi)))) else x.q
  let t' := if past 1 (len dt) then vecAdd z.t (vecScale (div64 (lim 1) (len dt)) dt) else x.t
  let td' := if past 2 dd.abs then add64 z.td (if dd.lt .zero then (lim 2).neg else lim 2) else x.td
  let r1 := if past 0 (len phi) then hit r 0 ⟨q', x.t, x.td⟩ else r
  let r2 := if past 1 (len dt) then hit r1 1 ⟨q', t', x.td⟩ else r1
  if past 2 dd.abs then hit r2 2 ⟨q', t', td'⟩ else r2

/-- Apply a sub-batch in Joseph form. -/
def applyBatch (d : Bytes) (c id : Nat) (r : EgoRun) (l : List EgoObs) : EgoRun :=
  let f := r.f
  let n := egoDim f.c
  let parts := l.filterMap fun o => (poseAt f.hist o.tau).map fun h => (obsResidual d f o h, obsCov d f o)
  let res := parts.flatMap (·.1)
  let m := res.length
  let rm := (parts.foldl (fun (a : Mat × Nat) p => (putBlock a.1 a.2 a.2 p.2, a.2 + p.2.length)) (List.replicate m (zeroVec m), 0)).1
  let hm := hRows n res
  let hp := matMul n hm f.cov
  let ch := (cholesky (matAdd (matMul m hp (matT n hm)) rm)).1
  let kt := (List.range n).map fun j => cholSolve ch (hp.map fun row => row.getD j .zero)
  let frozen := frozenIdx d r.aux.limited f.c
  let k := (enum kt).map fun e => if frozen.contains e.1 then zeroVec m else e.2
  let ikh := matSub (matId n) (matMul n k hm)
  let cov := matAdd (matMul n (matMul n ikh f.cov) (matT n ikh)) (matMul n (matMul m k rm) (matT m k))
  let dx := matVec k (dvals res)
  let g := resetMat f.c dx
  let f := inject { f with cov := symmetrise cov } dx
  let f := { f with cov := matMul n (matMul n g f.cov) (matT n g) }
  let f := l.foldl (fun f o =>
    { f with lastTov := setAt f.lastTov o.sensor fun t => max t (tovInt (tovAt o.b 0)) }) (f.count 0 l.length)
  let r := { r with f := f, applied := r.applied + l.length, aux := { r.aux with vis := r.aux.vis || l.any fun o => o.kind == 1 } }
  (List.range f.c).foldl (limitCol d c id) r

/-- Why a filter has failed: 1 a value that is not finite, 2 a variance that is not positive, 0 neither (R231). -/
def filtBad (f : Filt) : Nat :=
  let vals := f.q ++ f.p ++ f.v ++ f.bg ++ f.ba ++ f.cols.flatMap fun c => c.q ++ c.t ++ [c.td]
  if !finiteVec vals || !finiteMat f.cov then 1
  else if (List.range f.cov.length).any fun i => (entry f.cov i i).le .zero then 2 else 0

/-- Cut a list of observations into sub-batches of up to 32 rows. -/
def subBatches (l : List EgoObs) : List (List EgoObs) :=
  let a := l.foldl (fun (a : List (List EgoObs) × List EgoObs × Nat) o =>
    let m := obsRows o.b
    if a.2.2 + m ≤ 32 then (a.1, a.2.1 ++ [o], a.2.2 + m) else (a.1 ++ [a.2.1], [o], m)) ([], [], 0)
  (a.1 ++ [a.2.1]).filter fun b => !b.isEmpty

/-- Keep, in order, the observations of each source that its row limit allows; with the rows dropped. -/
def limitRows (caps : List Nat) (l : List EgoObs) : List EgoObs × Nat :=
  let a := l.foldl (fun (a : List EgoObs × Nat × List Nat) o =>
    let m := obsRows o.b
    if m ≤ a.2.2.getD o.src 0 then (a.1 ++ [o], a.2.1, setAt a.2.2 o.src (· - m)) else (a.1, a.2.1 + m, a.2.2)) ([], 0, caps)
  (a.1, a.2.1)

/-- τ of an observation: its ToV and, for a Collimated sensor, its time offset. -/
def tauOf (d : Bytes) (f : Filt) (b : Bytes) : Int :=
  match fdEntry d f (fld b 0xD 1) with
  | some c =>
    let td : Val := (f.cols.map (fun (e : EgoCol) => e.td)).getD c Val.zero
    tovAt b 0 + (td.mul (pow2 32)).nearestInt
  | none => tovAt b 0

/-- The observation is of a kind of Table 6.8, and its sensor is known and of that kind; INIT is taken before (R227). -/
def obsKnown (d b : Bytes) : Bool :=
  decide (1 ≤ fld b 0xC 1 ∧ fld b 0xC 1 ≤ 4 ∧ fld b 0xD 1 < fld d 1 1) && fdKind d (fld b 0xD 1) == fld b 0xC 1

/-- Send an observation away: held, counted, or not applied (R227 steps 4 and 5); the others are kept. -/
def sortObs (d : Bytes) (a : EgoRun × List EgoObs) (o : EgoObs) : EgoRun × List EgoObs :=
  let r : EgoRun := a.1
  let f : Filt := r.f
  let oldest : Option Int := f.hist.foldl (fun (m : Option Int) e => some (match m with
    | none => e.tov
    | some t => min t e.tov)) none
  if !obsKnown d o.b then ({ r with f := f.count 5 1 }, a.2)
  else
    let o : EgoObs := { o with tau := tauOf d f o.b }
    if r.reset && decide (tovAt o.b 0 < r.aux.init) then ({ r with f := f.count 2 1 }, a.2)
    else if o.kind = 2 ∧ o.shifted then ({ r with shifted := true }, a.2)
    else if f.tf < o.tau then
      if fld d 3 1 = 32 ∧ f.pend.length < 16 ∧ (f.pend.map obsRows).foldl (· + ·) 0 + obsRows o.b ≤ 32 then
        ({ r with f := { f with pend := f.pend ++ [o.b] } }, a.2)
      else ({ r with f := f.count 3 1 }, a.2)
    else if (oldest.map fun t => decide (o.tau < t)).getD true then
      ({ r with f := f.count 2 1 }, a.2)
    else (r, a.2 ++ [o])

/-- Collect, gate and apply observations; the first failure found ends the work. -/
def applyObs (d : Bytes) (c id : Nat) (caps : List Nat) (obs : List EgoObs) (r : EgoRun) : EgoRun × Nat :=
  let held := r.f.pend.map fun b => (⟨b, 0, false, 0⟩ : EgoObs)
  let a := (held ++ obs).foldl (sortObs d) ({ r with f := { r.f with pend := [] } }, [])
  let ok := a.2.filter (passesGate d a.1.f)
  let out := a.2.length - ok.length
  let lim := limitRows caps (sortBy (fun x y => decide (x.tau < y.tau)) ok)
  let r := { a.1 with f := (a.1.f.count 1 out).count 4 lim.2, gated := out }
  (subBatches lim.1).foldl (fun (x : EgoRun × Nat) b =>
    if x.2 ≠ 0 then x else let r := applyBatch d c id x.1 b; (r, filtBad r.f)) (r, filtBad r.f)

/-! ### Fixes (Table 6.9, R234 to R240) -/

/-- Bits of the sensors of a mask. -/
def maskSensors (d : Bytes) : List Nat := (List.range (fld d 1 1)).filter fun i => bit (fld d 8 8) i

/-- last(s) (R235). -/
def lastOf (d : Bytes) (r : EgoRun) (i : Nat) : Nat :=
  if i = fld d 2 1 then tovInt r.f.tf
  else
    let t := r.f.lastTov.getD i 0
    if t = 0 ∧ bit (fld d 8 8) i then tovInt r.aux.init else t

/-- An age in µs, rounded up, saturating. -/
def ageUs (now t : Nat) : Nat := min max32 (ceilDiv (now - t) 1000)

/-- The cameras of a descriptor. -/
def camSensors (d : Bytes) : List Nat := (List.range (fld d 1 1)).filter fun i => fdKind d i == 1

/-- What a Fix says beside the state: ages, CONTRIB, its flags before it is written. -/
structure FixInfo where
  oca     : Nat
  vage    : Nat
  contrib : Nat
  coast   : Bool
  vision  : Nat

/-- The ages and CONTRIB of a Fix (R235). R235 states no OCA where OCA_MASK is empty, and no VISION_AGE, hence no COASTING, where the
descriptor has no camera sensor (R15): each is then free, one value for one Filter State (DESIGN CHOICE, log 35). -/
def fixInfo (d : Bytes) (r : EgoRun) : FixInfo :=
  let now := r.s.sup.now
  let half := (filtWrites r.f).flatMap (·.2)
  let oca := match maskSensors d with
    | [] => wrap32 (Config.fixOpen half 0)
    | i :: l => ageUs now (l.foldl (fun m j => min m (lastOf d r j)) (lastOf d r i))
  let cams := camSensors d
  let vis := cams.foldl (fun m j => max m (lastOf d r j)) 0
  let vage := if cams.isEmpty then wrap32 (Config.fixOpen half 1) else ageUs now vis
  let has (i : Nat) : Bool := lastOf d r i != 0 && decide (now ≤ lastOf d r i + fdWindow d)
  { oca := oca, vage := vage, contrib := (List.range (fld d 1 1)).foldl (fun m i => if has i then m + 2 ^ i else m) 0,
    coast := decide (fdVision d < vage * 1000), vision := vis }

/-- STATUS of a Fix (R236). -/
def fixStatus (r : EgoRun) (x : FixInfo) : Nat := if r.shifted then 1 else if x.coast then 3 else 0

/-- A Fix without its CRC and PHASE, of 248 bytes. -/
def fixBody (c : Nat) (r : EgoRun) (x : FixInfo) (written skipped vis : Bool) : Bytes :=
  let f := r.f
  let flags := b2n x.coast + 2 * b2n r.shifted + 4 * b2n (written && vis) + 8 * b2n r.gap + 16 * b2n (f.fixSeq == 1) +
    32 * b2n (written && skipped) + 64 * b2n (r.aux.limited != 0)
  let rate := match (f.hist.foldl (fun (a : Option EgoHist) e => match a with
      | none => some e
      | some y => if y.tov < e.tov then some e else a) none) with
    | some h => bytes32 h.w
    | none => le 12 (Config.fixOpen ((filtWrites r.f).flatMap (·.2)) 2)
  tovBytes f.tf ++ le 4 x.oca ++ le 8 r.s.sup.now ++ le 2 flags ++ le 1 c ++ le 1 0 ++ le 4 f.fixSeq ++
    bytes64 (dvals (qPos (dvec f.q))) ++ bytes64 f.p ++ bytes64 f.v ++ bytes32 (upperTri (subBlock f.cov 0 0 6 6)) ++
    bytes32 ((List.range 3).map fun i => entry f.cov (6 + i) (6 + i)) ++ le 8 x.contrib ++ le 4 x.vage ++ le 2 (min 65535 r.applied) ++
    le 2 (min 65535 r.gated) ++ rate ++ le 2 (fixStatus r x) ++ le 2 0 ++ le 4 f.resets ++ le 4 0

/-- A whole Fix. -/
def fixRecord (body : Bytes) (phase : Bool) : Bytes := body ++ le 4 (crc32c body) ++ le 3 0 ++ le 1 (128 * b2n phase)

/-- Write a Fix to a sink: one posted write, the oldest entry overwritten (R239). -/
def writeSink (d body : Bytes) (r : EgoRun) (j : Nat) : EgoRun :=
  let k := fdSink d j
  let n := r.f.sinks.getD j 0
  if k.1 = 0xFF ∨ !(portOf r.s k.1).ctrl.enable then r
  else
    let depth := 2 ^ k.2.1
    { r with s := postData r.s k.1 .pf (k.2.2 + n % depth * 256) (fixRecord body (n / depth % 2 == 0)),
             f := { r.f with sinks := setAt r.f.sinks j (· + 1) } }

/-- The events that a Fix brings: coasting, and sensors that fall silent or resume (R235, R236). A sensor regains its bit where an earlier
Fix stands without it; the first Fix of a Filter State has none before it (log 35). -/
def fixEvents (d : Bytes) (c id : Nat) (r : EgoRun) (x : FixInfo) : EgoRun :=
  let old := r.f.lastFix
  let had := fld old 0x10 8 != 0
  let was := bit (fld old 0x18 2) 0
  let r := if x.coast && !was then egoEvent r c id 0x0131 0 [(0x18, 8, x.vision), (0x20, 8, r.s.sup.now)]
    else if !x.coast && was then egoEvent r c id 0x0132 0 [(0x18, 8, x.vision)] else r
  (maskSensors d).foldl (fun r i =>
    let a := bit (fld old 0xD0 8) i
    let b := bit x.contrib i
    if a && !b then egoEvent r c id 0x0133 0 [(0x14, 1, i), (0x18, 8, lastOf d r i)]
    else if !a && b && had then egoEvent r c id 0x0134 0 [(0x14, 1, i), (0x18, 8, lastOf d r i)] else r) r

/-- Form the Fix, write it to LAST_FIX and, when MIN_SPACING allows, to the sinks (R238). -/
def makeFix (d : Bytes) (c id : Nat) (r : EgoRun) : EgoRun × Nat × Nat :=
  let r := { r with f := { r.f with fixSeq := wrap32 (r.f.fixSeq + 1) } }
  let now := r.s.sup.now
  let x := fixInfo d r
  let lastOut := r.f.sinks.getD 2 0
  let written := lastOut == 0 || decide (lastOut + fld d 0x10 4 ≤ now)
  let lastVis := r.f.sinks.getD 3 0
  let vis := r.aux.vis && (lastVis == 0 || decide (lastVis + 4166667 ≤ now))
  let body := fixBody c r x written r.aux.skip vis
  let r := fixEvents d c id r x
  let r := if written then
      let r := writeSink d body (writeSink d body r 0) 1
      let t := setAt r.f.sinks 2 fun _ => now
      { r with f := { r.f with sinks := if vis then setAt t 3 fun _ => now else t },
               aux := { r.aux with skip := false, vis := r.aux.vis && !vis } }
    else { r with f := r.f.count 7 1, aux := { r.aux with skip := true } }
  ({ r with f := { r.f with lastFix := fixRecord body false } }, fixStatus r x, b2n r.shifted + 4 * b2n x.coast)

/-! ### EGO_STEP (R219 to R221, R227, R246) -/

/-- Give back a context's record of its ego filter. -/
def setEgo (s : State) (c : Nat) (e : Ego) : State := modCtx s c fun x => { x with ego := e }

/-- A Leg that commits: the other half, then SELECT (R220). -/
def commitWrites (o : OpEnt) (sel : Nat) (l : List (Nat × Bytes)) : List (OpEnt × Nat × Bytes) :=
  (l.map fun e => (o, egoHalf (1 - sel) + e.1, e.2)) ++ [(o, 0, le 4 (1 - sel))]

/-- Observations of a batch operand, with its row limit: none when its read fails or its header is out of range. -/
def batchOf (s : State) (w : Who) (g : Leg) (i : Nat) : Option (List EgoObs × Nat) :=
  match opAt g i with
  | none => some ([], 0)
  | some o =>
    match rdOp s w o 0 64 with
    | none => none
    | some h =>
      let n := fld h 4 4
      if fld h 0 4 = 0 ∨ 1024 < fld h 0 4 ∨ fld h 0 4 < n ∨ 2048 < fld h 8 2 ∨ opRoom s w.ctx o < 64 + 160 * fld h 0 4 then none
      else
        (rdOp s w o 64 (160 * n)).map fun b =>
          (((List.range n).map fun j => (⟨(b.drop (160 * j)).take 160, i - 1, bit (fld h 0xA 2) 0, 0⟩ : EgoObs)).filter fun o =>
            bit (fld o.b 0xE 2) 0, fld h 8 2)

/-- The filter at the start of a Leg's work: initialised from the last INIT, if there is one (R227 step 1). -/
def egoStart (s : State) (c : Nat) (d b : Bytes) (obs : List EgoObs) : EgoRun :=
  let r : EgoRun := { s := s, f := parseFilt b, aux := ((ctxOf s c).map (·.ego)).getD {} }
  match (obs.filter fun x => x.kind == 5).getLast? with
  | some x => egoInit d r x.b
  | none => r

/-- Propagation and updates (R227 steps 3 to 6), with the reason of a failure or 0. -/
def egoAdvance (d : Bytes) (c id : Nat) (take : Option (List (Int × List Int))) (obs : List EgoObs) (caps : List Nat)
    (r : EgoRun) : EgoRun × Nat :=
  let r := match take with
    | some tk => propagate d c id r tk
    | none => r
  match filtBad r.f with
  | 0 => applyObs d c id caps (obs.filter fun x => x.kind != 5) r
  | n => (r, n)

/-- FILTER_FAILED (R227, R231). -/
def filterFailed (s : State) (c id reason t : Nat) : State :=
  event s c 0x0130 INTEGRITY [(0x10, 4, id), (0x14, 1, reason), (0x18, 8, t)]

/-- The work of an EGO_STEP whose start checks have passed, from the live half `sel` of bytes `b`. -/
def egoWork (s : State) (l : LegRef) (o : OpEnt) (d b : Bytes) (sel tier : Nat) (take : Option (List (Int × List Int)))
    (obs : List EgoObs) (caps : List Nat) : State :=
  let aux := ((ctxOf s l.ctx).map (·.ego)).getD {}
  let r := egoStart s l.ctx d b obs
  if r.f.state ≠ 1 then
    finishLeg (filterFailed s l.ctx o.obj (if r.f.state = 2 then aux.reason else 0) (tovInt r.f.tf)) l
      { status := INTEGRITY, tier := tier }
  else
    let a := egoAdvance d l.ctx o.obj take obs caps r
    let r : EgoRun := a.1
    if a.2 ≠ 0 then
      let s := setEgo (filterFailed r.s l.ctx o.obj a.2 (tovInt r.f.tf)) l.ctx { aux with reason := a.2 }
      finishLeg s l { status := INTEGRITY, tier := tier, writes := commitWrites o sel [(0, overlay b 0 (le 4 2))] }
    else if r.moved || decide (0 < r.applied) then
      let x := makeFix d l.ctx o.obj r
      finishLeg (setEgo x.1.s l.ctx x.1.aux) l
        { status := x.2.1, warn := x.2.2, tier := tier, writes := commitWrites o sel (filtWrites x.1.f) }
    else
      let r := if r.aux.stall then r
        else egoEvent { r with aux := { r.aux with stall := true } } l.ctx o.obj 0x0136 0 [(0x18, 8, tovInt r.f.tf)]
      finishLeg (setEgo r.s l.ctx r.aux) l { tier := tier, writes := commitWrites o sel (filtWrites r.f) }

/-- Operand 0 of a Track Unit Leg lies in the Field Memory of the Leg's own Station (R219). -/
def trackNear (s : State) (c : Nat) (g : Leg) : Bool := (opAt g 0).isSome && scratchOwn s c g 0

/-- Slowest tier of a Leg's operands. -/
def opsTier (s : State) (c : Nat) (g : Leg) : Nat :=
  (List.range 4).foldl (fun t i => match opAt g i with
    | some o => max t (opTier s c o 0 (opRoom s c o))
    | none => t) 0

/-- The end of an EGO_STEP. -/
def egoLeg (s : State) (l : LegRef) (r : EngineRun) : State :=
  match legOf s l with
  | none => s
  | some g =>
    if g.kind = 3 ∧ g.subop ≠ 1 ∧ legRuns s l then
      let w := whoOf s l
      if g.subop ≠ 0 then refuseLeg s l INTEGRITY
      else
        match opAt g 0, ctxOf s l.ctx with
        | some o, some x =>
          if !trackNear s l.ctx g ∨ (x.ego.obj.any fun i => i != o.obj) then refuseLeg s l ACCESS_DENIED
          else
            let s := setEgo s l.ctx { x.ego with obj := some o.obj }
            match rdName s w g.desc 0 1536 with
            | none => refuseLeg s l INTEGRITY
            | some d =>
              match fdCheck s d with
              | 0 =>
                let sel := ((rdOp s w o 0 4).map leNat).getD 0 % 2
                let take := match opAt g 1 with
                  | some t => (takeEntries s w t).map some
                  | none => some none
                match rdOp s w o (egoHalf sel) egoBytes, take, batchOf s w g 2, batchOf s w g 3 with
                | some b, some tk, some b2, some b3 =>
                  if r.bad ∨ opRoom s l.ctx o < 323584 ∨ nameLength s l.ctx g.desc < 1536 then refuseLeg s l INTEGRITY
                  else egoWork s l o d b sel (opsTier s l.ctx g) tk (b2.1 ++ b3.1) [32, b2.2, b3.2]
                | _, _, _, _ => refuseLeg s l INTEGRITY
              | st => refuseLeg s l st
        | _, _ => refuseLeg s l ACCESS_DENIED
    else s

def execEgoStep (l : LegRef) (r : EngineRun) (s : State) : Host.Outcome State Fault Refusal := .next (onSnaps s l fun s => egoLeg s l r)

end Sys2Proof.Machine
end

