-- ==== Sys2Proof/Machine/Adjust.lean ====
section
/-!
DEFINITION. The Adjustment Engine: Problems, the factor library, the fixed-iteration solve, the covariance pass, the shift, and
the Solution (R248 to R276).
The model's own: log 15 (DESIGN CHOICE), log 37 (DEDUCED).
-/
namespace Sys2Proof.Machine
open Sys2Proof

/-! ### Problems (Tables 7.3 to 7.7) -/

/-- A Parameter Block: its record, TYPE, FIXED and twelve values. -/
structure AdjBlk where
  raw   : Bytes
  type  : Nat
  fixed : Bool
  val   : Vec
  deriving Inhabited

/-- A factor: its record's fields and its data. -/
structure AdjFac where
  type   : Nat
  active : Bool
  loss   : Nat
  kloss  : Val
  rows   : Nat
  nblk   : Nat
  blocks : List Nat
  data   : Bytes
  deriving Inhabited

/-- A Problem with the Schedule it is solved by: the Schedule's header and body. -/
structure AdjProb where
  d    : Bytes
  body : Bytes
  blks : List AdjBlk
  facs : List AdjFac
  deriving Inhabited

/-- Degrees of freedom of a block type (Table 7.5). -/
def adjDof (t : Nat) : Nat := [6, 3, 9, 8, 1].getD t 0

/-- Values of a block type (Table 7.5). -/
def adjVals (t : Nat) : Nat := [7, 3, 12, 8, 1].getD t 0

def adjBlk (b : Bytes) : AdjBlk := { raw := b, type := fld b 4 1, fixed := bit (fld b 5 1) 0, val := vec64 b 0x20 12 }

/-- Columns of a block in a linearisation: none when it is FIXED. -/
def AdjBlk.cols (b : AdjBlk) : Nat := if b.fixed then 0 else adjDof b.type

def AdjProb.blk (p : AdjProb) (i : Nat) : AdjBlk := p.blks.getD i default

/-- c of a factor (Table 7.7). -/
def facCols (p : AdjProb) (f : AdjFac) : Nat := (f.blocks.map fun i => (p.blk i).cols).foldl (· + ·) 0

/-- Block types that a factor of the library names (Table 7.7). -/
def facTypes : Nat → List Nat
  | 1 => [0, 1, 0, 3]
  | 2 => [0, 1, 0, 3]
  | 3 => [0, 2, 0, 2]
  | 4 => [0, 0]
  | 6 => [0, 0]
  | 7 => [0, 1]
  | _ => []

/-- Rows of a factor of a fixed type (Table 7.7). -/
def facRows (t : Nat) : Nat := [0, 2, 2, 15, 6, 0, 1, 3].getD t 0

/-- A factor's TYPE, NBLK, ROWS and block indices are those of Table 7.7. -/
def facOk (p : AdjProb) (f : AdjFac) : Bool :=
  f.blocks.all (fun i => decide (i < p.blks.length)) && decide (1 ≤ f.nblk ∧ f.nblk ≤ 8) &&
  match f.type with
  | 5 => f.nblk == 1 && f.rows == adjDof (p.blk (f.blocks.getD 0 0)).type
  | 8 => decide (1 ≤ f.rows ∧ f.rows ≤ 64)
  | t => decide (1 ≤ t ∧ t ≤ 7) && f.rows == facRows t && (f.blocks.map fun i => (p.blk i).type) == facTypes t

/-- What STRUCT covers (R256). -/
def structureBytes (p : AdjProb) : Bytes :=
  p.blks.flatMap (fun b => le 1 b.type ++ le 1 (b2n b.fixed)) ++
    p.facs.flatMap fun f => le 1 f.type ++ le 1 f.nblk ++ le 2 f.rows ++ f.blocks.flatMap (le 4)

/-- Read a Problem: none where a read fails (R275). -/
def readProblem (s : State) (w : Who) (o : OpEnt) (d body : Bytes) : Option AdjProb :=
  match rdOp s w o 0 64 with
  | none => none
  | some h =>
    let nb := fld d 0x18 4
    let nf := fld d 0x1C 4
    match rdOp s w o (fld h 0x20 4) (128 * nb), rdOp s w o (fld h 0x24 4) (64 * nf), rdOp s w o (fld h 0x28 4) (fld h 0x2C 4) with
    | some b, some f, some data => some
      { d := d, body := body, blks := (List.range nb).map fun i => adjBlk ((b.drop (128 * i)).take 128),
        facs := (List.range nf).map fun i =>
          let r := (f.drop (64 * i)).take 64
          { type := fld r 0 1, active := bit (fld r 1 1) 0, loss := fld r 2 1, kloss := f32At r 4, rows := fld r 0xC 2, nblk := fld r 3 1,
            blocks := (List.range (min 8 (fld r 3 1))).map fun j => fld r (0x20 + 4 * j) 4, data := data.drop (fld r 8 4) } }
    | _, _, _ => none

/-! ### Residuals (R251 to R253) -/

/-- A block's values as numbers that vary with its degrees of freedom, which stand at column `k` of `n`: the Jacobian
is formed in FP32 (R258). -/
def adjSeed (b : AdjBlk) (v : Vec) (n k : Nat) : DVec :=
  let free : DVec := match b.type with
    | 0 => seedRot n k (v.take 4) ++ seed n (k + 3) ((v.drop 4).take 3)
    | 2 => seed n k (v.take 9) ++ dvec (v.drop 9)
    | t => seed n k (v.take (adjDof t))
  if b.fixed then dvec v else free.map fun x => { x with fp32 := true }

/-- The values of a factor's blocks, each at its columns. -/
def facSeeds (p : AdjProb) (x : List Vec) (f : AdjFac) : List DVec :=
  let n := facCols p f
  (f.blocks.foldl (fun (a : List DVec × Nat) i =>
    (a.1 ++ [adjSeed (p.blk i) (x.getD i []) n a.2], a.2 + (p.blk i).cols)) ([], 0)).1

/-- x ⊟ x_m (R251). -/
def adjMinus (t : Nat) (x m : DVec) : DVec :=
  if t = 0 then qLog (qMul (qConj (m.take 4)) (x.take 4)) ++ DVec.sub ((x.drop 4).take 3) ((m.drop 4).take 3)
  else DVec.sub (x.take (adjDof t)) (m.take (adjDof t))

def dMatVec (m : Mat) (v : DVec) : DVec := m.map fun r => DVec.dot (dvec r) v

/-- The three rows of a 3 × 3 FP32 matrix at an offset. -/
def mat3At (b : Bytes) (o : Nat) : Mat := (List.range 3).map fun i => vec32 b (o + 12 * i) 3

/-- The point of a camera factor in the sensor frame. -/
def camPoint (b : List DVec) : DVec :=
  let body := b.getD 0 []
  let ext := b.getD 2 []
  qRotT (ext.take 4) (DVec.sub (qRotT (body.take 4) (DVec.sub (b.getD 1 []) (body.drop 4))) (ext.drop 4))

/-- The predicted pixel of a camera factor: none for a point behind the camera (R252). -/
def camPixel (fish : Bool) (b : List DVec) : Option DVec :=
  let x := camPoint b
  let k := b.getD 3 []
  let fx := dAt k 0
  let fy := dAt k 1
  let cx := dAt k 2
  let cy := dAt k 3
  if fish then
    let r2 := Du.fma (dAt x 0) (dAt x 0) (Du.mul (dAt x 1) (dAt x 1))
    let th0 := atan64 (fp64.sqrt r2.v) (dAt x 2).v
    if (div64 (.ofNat 7) (.ofNat 4)).le th0 then none
    else if r2.v.isZero then some [cx, cy]
    else
      let rho := r2.sqrt
      let th := Du.atan rho (dAt x 2)
      let t2 := Du.mul th th
      let poly := [dAt k 7, dAt k 6, dAt k 5, dAt k 4].foldl (fun s c => Du.fma s t2 c) (du .zero)
      let td := Du.mul th (Du.fma poly t2 (duNat 1))
      some [((Du.mul (Du.mul fx td) (dAt x 0)).div rho).add cx, ((Du.mul (Du.mul fy td) (dAt x 1)).div rho).add cy]
  else if (dAt x 2).v.le (div64 one64 (.ofNat 1000)) then none
  else some [((Du.mul fx (dAt x 0)).div (dAt x 2)).add cx, ((Du.mul fy (dAt x 1)).div (dAt x 2)).add cy]

/-- The residual of the IMU factor, whitened (R252, Table 7.8). -/
def imuResidual (grav : Val) (d : Bytes) (b : List DVec) : DVec :=
  let pi := b.getD 0 []
  let mi := b.getD 1 []
  let pj := b.getD 2 []
  let mj := b.getD 3 []
  let dt := du (f64At d 0)
  let bg := (mi.drop 3).take 3
  let ba := (mi.drop 6).take 3
  let dg := DVec.sub bg (dvec (vec64 d 0x58 3))
  let da := DVec.sub ba (dvec (vec64 d 0x70 3))
  let dr := qMul (dvec (vec64 d 8 4)) (qExp (dMatVec (mat3At d 0x88) dg))
  let dv := DVec.add (DVec.add (dvec (vec64 d 0x28 3)) (dMatVec (mat3At d 0xAC) dg)) (dMatVec (mat3At d 0xD0) da)
  let dp := DVec.add (DVec.add (dvec (vec64 d 0x40 3)) (dMatVec (mat3At d 0xF4) dg)) (dMatVec (mat3At d 0x118) da)
  let g := dvec [.zero, .zero, grav.neg]
  let q := pi.take 4
  let half := Du.mul (Du.mul dt dt) (duPow2 (-1))
  let r := qLog (qMul (qMul (qConj dr) (qConj q)) (pj.take 4)) ++
    DVec.sub (qRotT q (DVec.sub (DVec.sub (DVec.sub (pj.drop 4) (pi.drop 4)) (DVec.scale dt (mi.take 3))) (DVec.scale half g))) dp ++
    DVec.sub (qRotT q (DVec.sub (DVec.sub (mj.take 3) (mi.take 3)) (DVec.scale dt g))) dv ++
    DVec.sub ((mj.drop 3).take 3) bg ++ DVec.sub ((mj.drop 6).take 3) ba
  dMatVec (triangular 15 (vec32 d 0x140 120)) r

/-- Divide by sigmas, element by element. -/
def whiten (r : DVec) (sigma : Vec) : DVec := List.zipWith (fun a s => a.div (du s)) r sigma

/-- The residual of a LINEAR factor: r0 + J (x ⊟ x0), whose Jacobian stays J (R253). -/
def linearResidual (p : AdjProb) (f : AdjFac) (b : List DVec) : DVec :=
  let d := f.data
  let own := fld d 2 1 = 1
  let c := facCols p f
  let size (i : Nat) : Nat := adjVals (p.blk i).type
  let a := f.blocks.foldl (fun (a : List DVec × Nat) i =>
    (a.1 ++ [dvec (if own then vec64 d a.2 (size i) else (p.blk i).val)], a.2 + (if own then 8 * size i else 0))) ([], 8)
  let dx := (enum f.blocks).flatMap fun e =>
    if (p.blk e.2).fixed then [] else dvals (adjMinus (p.blk e.2).type (b.getD e.1 []) (a.1.getD e.1 []))
  (List.range f.rows).map fun i =>
    let row := vec32 d (a.2 + 4 * f.rows + 4 * c * i) c
    ⟨(row.zip dx).foldl (fun s q => fma64 q.1 q.2 s) (f32At d (a.2 + 4 * i)), row, true⟩

/-- The whitened residual of a factor at the values `x`: none when its point is behind the camera. -/
def facResidual (p : AdjProb) (x : List Vec) (f : AdjFac) : Option DVec :=
  let b := facSeeds p x f
  let d := f.data
  let pose := b.getD 0 []
  match f.type with
  | 3 => some (imuResidual (f64At p.d 0x70) d b)
  | 4 =>
    let q := pose.take 4
    let other := b.getD 1 []
    some (whiten (qLog (qMul (qMul (qConj (dvec (vec64 d 0 4))) (qConj q)) (other.take 4)) ++
      DVec.sub (qRotT q (DVec.sub (other.drop 4) (pose.drop 4))) (dvec (vec64 d 32 3))) (vec32 d 56 6))
  | 5 =>
    let t := (p.blk (f.blocks.getD 0 0)).type
    some (dMatVec (triangular (adjDof t) (vec32 d 96 (adjDof t * (adjDof t + 1) / 2))) (adjMinus t pose (dvec (vec64 d 0 12))))
  | 6 =>
    let ext := b.getD 1 []
    let y := DVec.add (qRot (pose.take 4) (DVec.add (qRot (ext.take 4) (dvec (vec64 d 0 3))) (ext.drop 4))) (pose.drop 4)
    some [((DVec.dot (dvec (vec64 d 24 3)) y).add (du (f64At d 48))).div (du (f32At d 56))]
  | 7 =>
    some (dMatVec (triangular 3 (vec32 d 24 6))
      (DVec.sub (DVec.add (pose.drop 4) (qRot (pose.take 4) (b.getD 1 []))) (dvec (vec64 d 0 3))))
  | 8 => some (linearResidual p f b)
  | t =>
    let s := f32At d 16
    (camPixel (t == 2) b).map fun z => whiten (DVec.sub (dvec (vec64 d 0 2)) z) [s, s]

/-! ### Losses (R254) -/

/-- ρ(s), and the weight rounded to FP32. -/
def robust (loss : Nat) (k s : Val) : Val × Val :=
  let k2 := mul64 k k
  match loss with
  | 1 =>
    if s.le k2 then (s, one64)
    else
      let r := fp64.sqrt s
      (sub64 (mul64 (mul64 (.ofNat 2) k) r) k2, fp32.round (div64 k r))
  | 2 =>
    let u := add64 one64 (div64 s k2)
    (mul64 k2 (ln64 u), fp32.round (div64 one64 u))
  | _ => (s, one64)

/-! ### Assembly (R258) -/

def mul32 (a b : Val) : Val := fp32.round (a.mul b)

/-- a × b + c rounded once to FP32. -/
def fma32 (a b c : Val) : Val := fp32.round ((a.mul b).add c)

/-- A linear system with the cost of its estimate and the points behind the camera. -/
structure AdjSys where
  h      : Mat
  b      : Vec
  cost   : Val := .zero
  behind : Nat := 0
  deriving Inhabited

/-- First column of each block among all free degrees of freedom. -/
def colStarts (p : AdjProb) : List Nat :=
  (p.blks.foldl (fun (a : List Nat × Nat) b => (a.1 ++ [a.2], a.2 + b.cols)) ([], 0)).1

def totalCols (p : AdjProb) : Nat := (p.blks.map AdjBlk.cols).foldl (· + ·) 0

/-- The factors in the summation order of the Schedule. -/
def summationOrder (p : AdjProb) : List AdjFac :=
  (sortBy (fun a b => decide (a.1 < b.1)) ((enum p.facs).map fun e => (Config.schedOrder p.body 0 e.1, e.2))).map (·.2)

/-- The residual of a factor rounded to FP32, with its rows of the Jacobian. -/
def facRows32 (n : Nat) (r : DVec) : Vec × Mat :=
  (r.map fun x => fp32.round x.v, r.map fun x => if x.d.isEmpty then zeroVec n else x.d.map fp32.round)

def normSq (r : Vec) : Val := r.foldl (fun s x => fma64 x x s) .zero

/-- Add a factor's Jᵀ J and Jᵀ r, row by row; the columns of a block that the factor names twice are added one after the other. -/
def accumulateFac (cols : List Nat) (r : Vec) (j : Mat) (a : AdjSys) : AdjSys :=
  (r.zip j).foldl (fun a row =>
    let of_ (k : Nat) : List Val := ((cols.zip row.2).filter fun q => q.1 == k).map (·.2)
    { a with
      h := (enum a.h).map fun e => match of_ e.1 with
        | [] => e.2
        | xs => (enum e.2).map fun y => xs.foldl (fun v x => (of_ y.1).foldl (fun v z => fma32 x z v) v) y.2
      b := (enum a.b).map fun e => (of_ e.1).foldl (fun v x => fma32 x row.1 v) e.2 }) a

/-- Assemble H, b and the cost at `x`; `lin` false forms the cost only. -/
def assemble (p : AdjProb) (x : List Vec) (lin : Bool) : AdjSys :=
  let n := totalCols p
  let starts := colStarts p
  let a := (summationOrder p).foldl (fun (a : AdjSys) f =>
    if !f.active then a
    else
      match facResidual p x f with
      | none => { a with behind := a.behind + 1 }
      | some r =>
        let (r32, j32) := facRows32 (facCols p f) r
        let (rho, wt) := robust f.loss f.kloss (normSq r32)
        let k := fp32.sqrt wt
        let cols := f.blocks.flatMap fun i => (List.range (p.blk i).cols).map (starts.getD i 0 + ·)
        let a := { a with cost := add64 a.cost rho }
        if lin then accumulateFac cols (r32.map (mul32 k)) (j32.map fun row => row.map (mul32 k)) a else a)
    { h := if lin then List.replicate n (zeroVec n) else [], b := if lin then zeroVec n else [] }
  { a with cost := mul64 (pow2 (-1)) a.cost }

/-! ### Damping, elimination, factorisation (R259, R262) -/

/-- A pivot that failed its test: its column, whether it lies in the reduced system, and pivot over largest diagonal. -/
structure AdjRank where
  col     : Nat
  reduced : Bool
  ratio   : Val

/-- The first pivot below `eps` times the largest diagonal element of the matrix being factorised. -/
def pivotFails (eps : Val) (m : Mat) (piv : Vec) : Option (Nat × Val) :=
  let big := (List.range m.length).foldl (fun a i => Val.max a (entry m i i)) .zero
  ((enum piv).find? fun e => e.2.lt (mul64 eps big)).map fun e => (e.1, div64 e.2 big)

def damp (lambda : Val) (h : Mat) : Mat :=
  (enum h).map fun e => (enum e.2).map fun x => if x.1 = e.1 then mul64 x.2 (add64 one64 lambda) else x.2

/-- An eliminated point: its columns, the factor of V, its rows W over the columns that remained, and its b. -/
structure AdjElim where
  cols : List Nat
  l    : Mat
  w    : Mat
  rest : List Nat
  b    : Vec

/-- The system as it shrinks: the columns that remain, H and b over them, what has been eliminated, the first failed pivot, and whether a
value of H or b has become non-finite (R262, R263). -/
structure AdjRed where
  rest : List Nat
  h    : Mat
  b    : Vec
  gone : List AdjElim := []
  rank : Option AdjRank := none
  bad  : Bool := false

/-- The same, with what its H and b have become. -/
def AdjRed.tested (a : AdjRed) : AdjRed := { a with bad := a.bad || !(finiteMat a.h && finiteVec a.b) }

/-- Rows and columns of a matrix. -/
def pickMat (m : Mat) (r c : List Nat) : Mat := r.map fun i => c.map fun j => entry m i j

/-- Eliminate a point whose first column is `k`, by the Schur complement. -/
def eliminate (eps : Val) (a : AdjRed) (k : Nat) : AdjRed :=
  if a.rank.isSome || a.bad then a
  else
    let place := (enum a.rest).filter fun e => decide (k ≤ e.2 ∧ e.2 < k + 3)
    let keep := (enum a.rest).filter fun e => !decide (k ≤ e.2 ∧ e.2 < k + 3)
    let pi := place.map (·.1)
    let ki := keep.map (·.1)
    let v := pickMat a.h pi pi
    let w := pickMat a.h pi ki
    let (l, piv) := cholesky v
    let bp := pi.map fun i => a.b.getD i .zero
    match pivotFails eps v piv with
    | some (i, x) => { a with rank := some ⟨k + i, false, x⟩ }
    | none =>
      let n := ki.length
      let y := matT 3 ((matT n w).map (forward l))
      let z := forward l bp
      AdjRed.tested
        { rest := keep.map (·.2), h := matSub (pickMat a.h ki ki) (matMul n (matT n y) y),
          b := vecSub (ki.map fun i => a.b.getD i .zero) (matVec (matT n y) z),
          gone := ⟨place.map (·.2), l, w, keep.map (·.2), bp⟩ :: a.gone }

/-- Put the columns that remain into the compiled order. -/
def reorder (p : AdjProb) (a : AdjRed) : AdjRed :=
  let l := sortBy (fun x y => decide (x.1 < y.1)) ((enum a.rest).map fun e => (Config.schedOrder p.body 1 e.2, e))
  let idx := l.map fun e => e.2.1
  { a with rest := l.map fun e => e.2.2, h := pickMat a.h idx idx, b := idx.map fun i => a.b.getD i .zero }

/-- First columns of the free POINT blocks, in the compiled order. -/
def pointCols (p : AdjProb) : List Nat :=
  let l := ((p.blks.zip (colStarts p)).filter fun e => e.1.type == 1 && !e.1.fixed).map (·.2)
  (sortBy (fun a b => decide (a.1 < b.1)) (l.map fun k => (Config.schedOrder p.body 1 k, k))).map (·.2)

/-- EPS of a Schedule. -/
def schedEps (d : Bytes) : Val := let e := f64At d 0x48; if e.isZero then pow2 (-40) else e

/-- Eliminate the points, where the Schedule says so, and factorise what remains. -/
def factorise (p : AdjProb) (h : Mat) (b : Vec) : AdjRed × Mat :=
  let eps := schedEps p.d
  let a := AdjRed.tested { rest := List.range b.length, h := h, b := b }
  let a := if bit (fld p.d 0x23 1) 0 then (pointCols p).foldl (eliminate eps) a else a
  let a := reorder p a
  let (l, piv) := cholesky a.h
  match a.rank, if a.bad then none else pivotFails eps a.h piv with
  | none, some (i, x) => ({ a with rank := some ⟨a.rest.getD i 0, true, x⟩ }, l)
  | _, _ => (a, l)

/-- Values by column, over a list of columns. -/
def valueAt (l : List (Nat × Val)) (k : Nat) : Val := ((l.find? fun e => e.1 == k).map (·.2)).getD .zero

/-- The step of all free columns: the reduced system, then the points by back-substitution. -/
def solveStep (n : Nat) (a : AdjRed) (l : Mat) : Vec :=
  let first := a.rest.zip ((cholSolve l a.b).map Val.neg)
  let all := a.gone.foldl (fun known e =>
    let dr := e.rest.map (valueAt known)
    known ++ e.cols.zip (cholSolve e.l ((vecAdd e.b (matVec e.w dr)).map Val.neg))) first
  (List.range n).map (valueAt all)

/-- x ⊞ dx over all blocks (R251). -/
def adjUpdate (p : AdjProb) (x : List Vec) (dx : Vec) : List Vec :=
  (enum (p.blks.zip (x.zip (colStarts p)))).map fun e =>
    let b := e.2.1
    let v := e.2.2.1
    if b.fixed then v
    else
      let δ := (dx.drop e.2.2.2).take (adjDof b.type)
      if b.type = 0 then
        dvals (qPos (qMul (dvec (v.take 4)) (qExp (dvec (δ.take 3))))) ++ vecAdd ((v.drop 4).take 3) (δ.drop 3) ++ v.drop 7
      else vecAdd (v.take (adjDof b.type)) δ ++ v.drop (adjDof b.type)

/-! ### The solve (R260 to R264) -/

/-- Where a solve stands. `fail` 1 is a value that is not finite. -/
structure AdjRun where
  x      : List Vec
  lambda : Val
  cost0  : Val := .zero
  cost   : Val := .zero
  acc    : Nat := 0
  behind : Nat := 0
  fail   : Nat := 0
  rank   : Option AdjRank := none
  iter   : Nat := 0

/-- Iteration `i`, from 1. -/
def adjIter (p : AdjProb) (r : AdjRun) (i : Nat) : AdjRun :=
  if r.fail ≠ 0 ∨ r.rank.isSome then r
  else
    let s := assemble p r.x true
    let r := { r with behind := r.behind + s.behind, cost := s.cost, cost0 := if i = 1 then s.cost else r.cost0, iter := i }
    if !(finiteMat s.h && finiteVec s.b && s.cost.isFinite) then { r with fail := 1 }
    else
      let (a, l) := factorise p (damp r.lambda s.h) s.b
      match a.rank with
      | some k => { r with rank := some k }
      | none =>
        let dx := solveStep (totalCols p) a l
        if a.bad || !finiteVec dx then { r with fail := 1 }
        else
          let x' := adjUpdate p r.x dx
          let s' := assemble p x' false
          let r := { r with behind := r.behind + s'.behind }
          if !s'.cost.isFinite then { r with fail := 1 }
          else if s'.cost.lt r.cost then
            { r with x := x', cost := s'.cost, acc := r.acc + 1,
                     lambda := Val.max (mul64 r.lambda (f32At p.d 0x5C)) (f64At p.d 0x60) }
          else { r with lambda := Val.min (mul64 r.lambda (f32At p.d 0x58)) (f64At p.d 0x68) }

/-- NEWEST_POSE and NEWEST_MOTION. -/
def newestPose (d : Bytes) : Nat := fld d 0x24 4

def newestMotion (d : Bytes) : Nat := fld d 0x28 4

/-- The covariance pass: the 6 × 6 marginal of NEWEST_POSE (R264). -/
def covPass (p : AdjProb) (r : AdjRun) : AdjRun × Mat :=
  let s := assemble p r.x true
  let r := { r with behind := r.behind + s.behind, iter := 0 }
  if !(finiteMat s.h && finiteVec s.b && s.cost.isFinite) then ({ r with fail := 1 }, [])
  else
    let (a, l) := factorise p s.h s.b
    match a.rank with
    | some k => ({ r with rank := some k }, [])
    | none =>
      let k := (colStarts p).getD (newestPose p.d) 0
      let free := !(p.blk (newestPose p.d)).fixed
      let col (j : Nat) : List (Nat × Val) := a.rest.zip (cholSolve l (a.rest.map fun i => if i = k + j then one64 else .zero))
      let m := (List.range 6).map fun i => (List.range 6).map fun j => if free then valueAt (col j) (k + i) else .zero
      if !a.bad && finiteMat m then (r, m) else ({ r with fail := 1 }, m)

/-- The whole solve, with the covariance where the Schedule asks for it. -/
def adjSolve (p : AdjProb) : AdjRun × Mat :=
  let r := (List.range (fld p.d 0x22 1)).foldl (fun r i => adjIter p r (i + 1))
    { x := p.blks.map AdjBlk.val, lambda := f64At p.d 0x50 }
  if bit (fld p.d 0x23 1) 1 ∧ r.fail = 0 ∧ r.rank.isNone then covPass p r else (r, List.replicate 6 (zeroVec 6))

/-! ### The Solution and the export (R264, R272) -/

/-- HALF. -/
def adjHalf (d : Bytes) : Nat := ceilDiv (256 + 128 * fld d 0x18 4) 4096 * 4096

/-- Write the other half of a Solution, then SELECT. -/
def solutionWrites (o : OpEnt) (d : Bytes) (sel : Nat) (b : Bytes) : List (OpEnt × Nat × Bytes) :=
  [(o, 0x1000 + (1 - sel) * adjHalf d, b), (o, 0, le 4 (1 - sel))]

/-- An Observation Batch of one window observation (Tables 6.6 to 6.8). -/
def adjExport (d : Bytes) (tov : Bytes) (pose cov : Vec) (shifted : Bool) : Bytes :=
  le 4 1 ++ le 4 1 ++ le 2 6 ++ le 2 (b2n shifted) ++ le 52 0 ++
    tov ++ le 1 2 ++ le 1 (fld d 0x2C 1) ++ le 2 1 ++ bytes64 (pose.take 7) ++ bytes32 cov ++ le 4 0

/-- A block record with new values. -/
def blkBytes (raw : Bytes) (v : Vec) : Bytes := raw.take 0x20 ++ bytes64 v

/-- The half that a solve commits; `tov` is the ToV of NEWEST_POSE. -/
def solvedHalf (p : AdjProb) (r : AdjRun) (cov : Mat) (seq : Nat) (tov : Bytes) : Bytes :=
  le 4 1 ++ le 2 0 ++ le 1 (fld p.d 0x22 1) ++ le 1 r.acc ++ tov ++ le 4 (wrap32 (seq + 1)) ++ tov ++ le 4 r.behind ++
    bytes64 [r.cost0, r.cost, r.lambda] ++ le 4 p.blks.length ++ le 4 (newestPose p.d) ++ le 8 0 ++ bytes64 (upperTri cov) ++ le 8 0 ++
    (p.blks.zip r.x).flatMap fun e => blkBytes e.1.raw e.2

/-- The half that a shift commits (R269). A NEWEST_POSE that is no block has no entry to move, and a NEWEST_MOTION that is none moves
nothing: the spec states no outcome for either, since Schedules come only from Enandod (R255; DESIGN CHOICE, log 37). -/
def shiftedHalf (d live tov : Bytes) : Bytes :=
  let t1 := tovAt tov 0
  let dt := seconds (max (t1 - tovAt live 8) 0)
  let o := 0x100 + 128 * newestPose d
  let v := vec64 live (o + 0x20) 12
  let m := vec64 live (0x100 + 128 * newestMotion d + 0x20) 12
  let v' := if fld d 0x18 4 ≤ newestMotion d then v
    else dvals (qMul (dvec (v.take 4)) (qExp (dvec (vecScale dt (m.drop 9))))) ++
      List.zipWith (fun x y => fma64 y dt x) ((v.drop 4).take 3) (m.take 3) ++ v.drop 7
  let cov := fromUpper 6 (vec64 live 0x50 21)
  let cov := if bit (fld d 0x23 1) 1 then
      (enum cov).map fun e => (enum e.2).map fun x =>
        if x.1 = e.1 then add64 x.2 (mul64 (f64At d (if e.1 < 3 then 0x80 else 0x88)) dt) else x.2
    else cov
  let b := overlay live 0 (le 4 2 ++ le 2 1 ++ le 2 0 ++ tov ++ le 4 (wrap32 (fld live 0x14 4 + 1)))
  let b := overlay b 0x50 (bytes64 (upperTri cov))
  if newestPose d < fld d 0x18 4 then overlay (overlay b (o + 8) tov) (o + 0x20) (bytes64 v') else b

/-! ### The Leg (R248, R249, R265 to R271, R275, R276) -/

/-- Write an event of the Adjustment Engine. -/
def adjEvent (s : State) (l : LegRef) (type status : Nat) (p : List Fld) : State :=
  event s l.ctx type status ([(0x10, 2, l.handle), (0x12, 2, l.leg)] ++ p)

/-- End a Leg that has run with INTEGRITY and SOLVE_FAILED, reason 1 (R263). -/
def adjFail (s : State) (l : LegRef) (iter : Nat) : State :=
  finishLeg (adjEvent s l 0x0143 INTEGRITY [(0x14, 1, 1), (0x15, 1, iter)]) l { status := INTEGRITY }

/-- End a Leg that has failed a start check with INTEGRITY and SOLVE_FAILED, reason 2 (R249). -/
def adjRefuse (s : State) (l : LegRef) : State :=
  refuseLeg (adjEvent s l 0x0143 INTEGRITY [(0x14, 1, 2), (0x15, 1, 0)]) l INTEGRITY

/-- Check 3 of Table 7.2. -/
def schedOk (s : State) (d body : Bytes) : Bool :=
  decide (fld d 0 4 = 0x53444A41) && (d.drop 0xE0).take 32 == sha256 body && formatListed s 3 (fld d 4 2) && epochAccepted s (fld d 6 2)

/-- The limits of Table 7.10 that the load pass holds a Schedule to (R257). -/
def schedLimits (d : Bytes) : Bool :=
  let nb := fld d 0x18 4
  decide (1 ≤ nb ∧ nb ≤ 16384 ∧ 1 ≤ fld d 0x1C 4 ∧ fld d 0x1C 4 ≤ 262144 ∧ 1 ≤ fld d 0x20 2 ∧ fld d 0x20 2 ≤ 4096)

/-- The workspace lies in the Near or Main tier. -/
def workOk (s : State) (c : Nat) (d : Bytes) : Bool :=
  fld d 0x90 4 == 0 || ((objNamed s c (fld d 0x90 4)).map fun e => !inArchive e.2).getD false

/-- The Schedule and the operands of the tier check lie in the Near or Main tier (R320). -/
def opsAbove (s : State) (c : Nat) (g : Leg) : Bool :=
  (g.desc :: ([0, 1, 2].filterMap (opAt g)).map (·.obj)).all fun i => ((objNamed s c i).map fun e => !inArchive e.2).getD true

/-- What the first six checks read. -/
structure AdjIn where
  d    : Bytes
  body : Bytes
  po   : OpEnt
  so   : OpEnt
  sel  : Nat
  live : Bytes
  newest : Bytes                           -- the Problem's record of NEWEST_POSE

/-- ToV of NEWEST_POSE. -/
def AdjIn.tov (i : AdjIn) : Bytes := (i.newest.drop 8).take 12

/-- What the start checks answer: their inputs, INTEGRITY with SOLVE_FAILED, another status, or a failed read. -/
inductive AdjStart where
  | go (i : AdjIn)
  | failed
  | status (n : Nat)

/-- The first six checks of Table 7.2, in order. -/
def adjStart (s : State) (w : Who) (l : LegRef) (g : Leg) : AdjStart :=
  if 2 < g.subop % 16 then .failed
  else
    let len := nameLength s l.ctx g.desc
    match rdName s w g.desc 0 256, rdName s w g.desc 256 (len - 256) with
    | some d, some body =>
      if !(trackNear3 s l.ctx g && opsAbove s l.ctx g && workOk s l.ctx d) then .status ACCESS_DENIED
      else if len < 256 ∨ !schedOk s d body then .failed
      else
        match opAt g 0, opAt g 1 with
        | some po, some so =>
          match rdOp s w po 0 64 with
          | none => .status INTEGRITY
          | some h =>
            if fld h 0 4 ≠ 0x4D425250 ∨ (h.drop 8).take 16 ≠ (d.drop 8).take 16 ∨ fld h 0x18 4 ≠ fld d 0x18 4 ∨
                fld h 0x1C 4 ≠ fld d 0x1C 4 then .failed
            else if opRoom s l.ctx so < 4096 + 2 * adjHalf d then .failed
            else if bit (fld d 0x23 1) 1 ∧ ((opAt g 2).map fun o => decide (opRoom s l.ctx o < 224)).getD true then .failed
            else
              let sel := ((rdOp s w so 0 4).map leNat).getD 0 % 2
              match rdOp s w so (0x1000 + sel * adjHalf d) (256 + 128 * fld d 0x18 4),
                  rdOp s w po (fld h 0x20 4 + 128 * newestPose d) 128 with
              | some live, some rec_ => .go ⟨d, body, po, so, sel, live, rec_⟩
              | _, _ => .status INTEGRITY
        | _, _ => .failed
    | _, _ => if !(trackNear3 s l.ctx g && opsAbove s l.ctx g) then .status ACCESS_DENIED else .status INTEGRITY
where
  /-- Operand 3 lies in the Field Memory of the Leg's own Station. -/
  trackNear3 (s : State) (c : Nat) (g : Leg) : Bool := (opAt g 3).isSome && scratchOwn s c g 3

/-- The block of a column, and up to seven blocks that share a factor with it, in ascending index. -/
def rankBlocks (p : AdjProb) (col : Nat) : List Nat :=
  let starts := colStarts p
  let i := ((List.range p.blks.length).find? fun i =>
    let k := starts.getD i 0
    decide (k ≤ col ∧ col < k + (p.blk i).cols)).getD 0
  let near := (List.range p.blks.length).filter fun j => j != i && p.facs.any fun f => f.blocks.contains i && f.blocks.contains j
  i :: near.take 7

/-- Payload of RANK_DEFICIENT: the iteration, whether the pivot lies in the reduced system, the pivot's ratio and the blocks. -/
def rankFields (p : AdjProb) (r : AdjRun) (k : AdjRank) : List Fld :=
  let ids := (rankBlocks p k.col).map fun j => fld (p.blk j).raw 0 4
  [(0x14, 1, r.iter), (0x15, 1, ids.length), (0x16, 1, b2n k.reduced)] ++
    ((enum ids).map fun e => (0x18 + 4 * e.1, 4, e.2)) ++ [(0x38, 4, fp32.encode k.ratio)]

/-- The Problem that the load pass accepts: none where it refuses it, and nothing at all where a read fails (R249, R257, R275). -/
def loadPass (s : State) (w : Who) (i : AdjIn) : Option (Option AdjProb) :=
  (readProblem s w i.po i.d i.body).map fun p =>
    if schedLimits i.d && p.facs.all (facOk p) && (p.blks.all fun b => decide (b.type ≤ 4)) &&
        Config.schedMatches i.body (structureBytes p) then some p else none

/-- What a solve commits: nothing where it fails (R262, R263). -/
def solveCommit (i : AdjIn) (p : AdjProb) (r : AdjRun) (cov : Mat) : List (OpEnt × Nat × Bytes) :=
  if r.rank.isSome ∨ r.fail ≠ 0 then []
  else solutionWrites i.so i.d i.sel (solvedHalf p r cov (fld i.live 0x14 4) i.tov)

/-- The export of a solve (R264). -/
def solveExport (g : Leg) (i : AdjIn) (r : AdjRun) (cov : Mat) : List (OpEnt × Nat × Bytes) :=
  if bit (fld i.d 0x23 1) 1 then
    (opAt g 2).toList.map fun o =>
      (o, 0, adjExport i.d i.tov (r.x.getD (newestPose i.d) (vec64 i.newest 0x20 12)) (upperTri cov) false)
  else []

/-- The solve path. -/
def adjSolveLeg (s : State) (l : LegRef) (g : Leg) (w : Who) (i : AdjIn) : State :=
  match loadPass s w i with
  | none => finishLeg s l { status := INTEGRITY }
  | some none => adjRefuse s l
  | some (some p) =>
    let (r, cov) := adjSolve p
    let work : OpEnt := ⟨fld i.d 0x90 4, 0, 0⟩
    let s := if work.obj = 0 then s else freeRanges s l.ctx [(work, 0, opRoom s l.ctx work)]
    match r.rank with
    | some k => finishLeg (adjEvent s l 0x0140 RANK_DEFICIENT (rankFields p r k)) l { status := RANK_DEFICIENT }
    | none =>
      if r.fail ≠ 0 then adjFail s l r.iter
      else
        let lim := f64At i.d 0x78
        finishLeg s l { cond := !lim.isZero && lim.lt r.cost, tier := opsTier s l.ctx g,
                        writes := solveCommit i p r cov ++ solveExport g i r cov }

/-- Pace numerator, projected solve time and time left to the end, which is a free value where there is no end. -/
def paceFields (s : State) (x : LegRun) (g : Leg) (end_ : Option Nat) : List Fld :=
  [(0x14, 1, x.pace), (0x18, 8, ceilDiv (g.cycles * 64) x.pace),
   (0x20, 8, match end_ with
     | some e => e - x.at_
     | none => Config.freeNat s.free)]

/-- The live half is a source for a shift (R269, R270). -/
def shiftable (i : AdjIn) : Bool := decide (fld i.live 0 4 = 1 ∨ fld i.live 0 4 = 2)

/-- The shift path: WARN bit 0 SHIFTED is set (R77, R269, R270). -/
def adjShiftLeg (s : State) (l : LegRef) (g : Leg) (x : LegRun) (end_ : Option Nat) (i : AdjIn) : State :=
  let f := paceFields s x g end_
  let s := { s with free := s.free + 1 }
  if shiftable i then
    let b := shiftedHalf i.d i.live i.tov
    let at_ := 0x120 + 128 * newestPose i.d
    let ex := if bit (fld i.d 0x23 1) 1 then
        (opAt g 2).toList.map fun o =>
          (o, 0, adjExport i.d i.tov (if at_ < b.length then vec64 b at_ 7 else vec64 i.newest 0x20 7) (vec64 b 0x50 21) true)
      else []
    let s := adjEvent s l 0x0141 1 (f ++ [(0x28, 8, fld b 0x18 8)])
    finishLeg s l { status := 1, warn := 1, tier := opsTier s l.ctx g, writes := solutionWrites i.so i.d i.sel b ++ ex }
  else refuseLeg (adjEvent s l 0x0142 DROPPED_LATE f) l DROPPED_LATE

/-- The test of mode 0: a solve fits (R268). -/
def solveFits (x : LegRun) (g : Leg) (end_ : Option Nat) : Bool :=
  match end_ with
  | none => true
  | some e => decide (x.at_ + ceilDiv (g.cycles * 64) x.pace ≤ e)

/-- The Leg solves; otherwise it shifts (R268, R271). -/
def takesSolve (x : LegRun) (g : Leg) (end_ : Option Nat) : Bool :=
  decide (g.subop % 16 = 1) || (decide (g.subop % 16 = 0) && solveFits x g end_)

/-- The end of an Adjustment Engine Leg whose SUBOP satisfies `mode`. -/
def adjLeg (mode : Nat → Bool) (s : State) (l : LegRef) (r : EngineRun) : State :=
  match legOf s l, runOf s l, travOf s l.ctx l.handle with
  | some g, some x, some t =>
    if g.kind = 4 ∧ mode (g.subop % 16) ∧ legRuns s l then
      let w := whoOf s l
      match adjStart s w l g with
      | .failed => adjRefuse s l
      | .status n => refuseLeg s l n
      | .go i =>
        if r.bad then finishLeg s l { status := INTEGRITY }
        else
          let end_ := t.run.bind fun r => runEnd t r
          if takesSolve x g end_ then adjSolveLeg s l g w i else adjShiftLeg s l g x end_ i
    else s
  | _, _, _ => s

/-- What a solve or shift that is stopped part way commits, if it has begun to commit: its Solution half, then SELECT; the export comes
after (R220, R272, R275). -/
def adjCommit (s : State) (w : Who) (l : LegRef) (g : Leg) (x : LegRun) (end_ : Option Nat) : List (OpEnt × Nat × Bytes) :=
  match adjStart s w l g with
  | .go i =>
    if takesSolve x g end_ then
      match loadPass s w i with
      | some (some p) => let e := adjSolve p; solveCommit i p e.1 e.2
      | _ => []
    else if shiftable i then solutionWrites i.so i.d i.sel (shiftedHalf i.d i.live i.tov)
    else []
  | _ => []

/-- The end of a Leg of mode 0, or of an illegal mode. -/
def execSolveOrShift (l : LegRef) (r : EngineRun) (s : State) : Host.Outcome State Fault Refusal :=
  .next (onSnaps s l fun s => adjLeg (fun m => m != 1 && m != 2) s l r)

/-- The end of a Leg of mode 1. -/
def execSolve (l : LegRef) (r : EngineRun) (s : State) : Host.Outcome State Fault Refusal :=
  .next (onSnaps s l fun s => adjLeg (· == 1) s l r)

/-- The end of a Leg of mode 2. -/
def execShift (l : LegRef) (r : EngineRun) (s : State) : Host.Outcome State Fault Refusal :=
  .next (onSnaps s l fun s => adjLeg (· == 2) s l r)

end Sys2Proof.Machine
end

