-- ==== Sys2Proof/Machine/Rings.lean ====
section
/-!
DEFINITION. The Doorbell Sweep and the rings as the device sees them (R66 to R72), and the round-trip time of a port (R69,
R359).
The model's own: log 20 (DEDUCED).
-/
namespace Sys2Proof.Machine
open Sys2Proof

/-! ### Access to a ring -/

def ringOf (s : State) : RingId → Option Ring
  | .admin p => some (portOf s p).ring
  | .context c => (ctxOf s c).map (·.ring)

def modRing (s : State) (r : RingId) (f : Ring → Ring) : State :=
  match r with
  | .admin p => modPort s p fun x => { x with ring := f x.ring }
  | .context c => modCtx s c fun x => { x with ring := f x.ring }

/-- Host Port of a ring. -/
def ringPort (s : State) : RingId → Nat
  | .admin p => p
  | .context c => ((ctxOf s c).map (·.port)).getD 0

/-- Function by which a ring is reached (R54, R62). -/
def ringFn (s : State) : RingId → Fn
  | .admin _ => .pf
  | .context c => .vf (((ctxOf s c).map (·.vf)).getD 0)

/-- Submission base, log2 depth and Doorbell Page base of a ring. -/
def ringBases (s : State) : RingId → Nat × Nat × Nat
  | .admin p => (asqBase (portOf s p), asqLog (portOf s p), adbBase (portOf s p))
  | .context c => ((ctxOf s c).map fun x => (x.sqBase, x.sqLog, x.dbBase)).getD (0, 0, 0)

/-- Plat 0 and the port's own Plat are ready: the port's sweep has begun (R422). -/
def sweeps (s : State) (p : Nat) : Bool :=
  decide ((platOf s 0).st = .ready ∧ (platOf s (hostPlat s p)).st = .ready)

/-- The ring is swept: its port's sweep has begun, its block is enabled and its link up, its function in D0; an Admin Ring only
when it is on (R360, R422, R451, R463). -/
def swept (s : State) (r : RingId) : Bool :=
  let p := ringPort s r
  sweeps s p && (portOf s p).ctrl.enable && linkUp s p && !inD3 s p (ringFn s r) &&
  match r with
  | .admin p => adminOn (portOf s p)
  | .context c => (ctxOf s c).isSome

/-- The rings of a port in sweep order: the Admin Ring, then its contexts in ascending number (R67). -/
def portRings (s : State) (p : Nat) : List RingId := .admin p :: (ctxsOn s p).map .context

/-- Count a failed or invalid read of the sweep (R68, R362). -/
def sweepFail (s : State) (p : Nat) : State := modPort s p fun x => { x with sweepFails := satAdd max32 x.sweepFails 1 }

/-! ### DOORBELL_SWEEP (R66, R67) -/

/-- Write the device half of a ring's Doorbell Page, once in a window of the sweep grid and only after a change. -/
def writeHalf (s : State) (period : Nat) (r : RingId) : State :=
  match ringOf s r with
  | none => s
  | some g =>
    let w := s.sup.now / period
    if g.dirty ∧ g.window ≠ some w then
      let s := post s (ringPort s r) (ringFn s r) (.doorbell r ((ringBases s r).2.2 + 0x40) (doorbellBytes g))
      modRing s r fun g => { g with dirty := false, window := some w }
    else s

/-- A change of HPT_SWEEP is in force from the first multiple of the new period after its write (R463). -/
def adoptSweep (s : State) (p : Nat) : State :=
  match (portOf s p).sweepNew with
  | some (u, t) => if t ≤ s.sup.now then modPort s p fun x => { x with sweep := u, sweepNew := none } else s
  | none => s

/-- Reads outstanding on a port, and the most it may have: 512 with 10-bit tags, 256 with 8-bit ones (Tables 10.2, 10.5). -/
def outstanding (s : State) (p : Nat) : Nat :=
  let n (g : Ring) : Nat := g.swps + g.asked
  (s.ctxs.filter fun e => e.2.port == p).foldl (fun a e => a + n e.2.ring) (n (portOf s p).ring)

def tagLimit (s : State) (p : Nat) : Nat := if (fnOf s p .pf).tenBit then 512 else 256

/-- Read a ring's Doorbell Page, if the port has a tag left; else at the next sweep. -/
def sweepPage (s : State) (p : Nat) (r : RingId) : State :=
  if outstanding s p < tagLimit s p then
    modRing (emit s (.hostRead p (ringBases s r).2.2 16 (streamOf s p (ringFn s r)))) r fun g => { g with swps := g.swps + 1 }
  else s

/-- The sweep at a multiple of T: the device halves due, then a 16-byte read of every page; no read before t_rt is known
(R359). -/
def doorbellSweep (s : State) (p : Nat) : State :=
  let s := adoptSweep s p
  let x := portOf s p
  let period := 500 * x.sweep
  if p < nHost s ∧ s.sup.running ∧ s.sup.now % period = 0 ∧ sweeps s p ∧ x.ctrl.enable ∧ linkUp s p then
    let s := (portRings s p).foldl (fun s r => writeHalf s period r) s
    if x.rtt = 0 then s
    else ((portRings s p).filter (swept s)).foldl (fun s r => sweepPage s p r) s
  else s

def execDoorbellSweep (port : Nat) (s : State) : Host.Outcome State Fault Refusal := .next (doorbellSweep s port)

/-! ### SWEEP_READ_RETURN (R68, R72) -/

/-- Write the completions a context holds while its Completion Ring has room; the first argument bounds their number. -/
def drainHeld : Nat → State → Nat → State
  | 0, s, _ => s
  | n + 1, s, c =>
    match ctxOf s c with
    | none => s
    | some x =>
      match x.held with
      | [] => s
      | r :: l =>
        if 0 < cqRoom x then drainHeld n (putCq (modCtx s c fun x => { x with held := l }) c r) c else s

/-- EVENTS_LOST when the Event Ring has room again (R72). -/
def tellLost (s : State) (c : Nat) : State :=
  match ctxOf s c with
  | none => s
  | some x =>
    if x.evLost ≠ 0 ∧ 0 < eqRoom x then
      event (modCtx s c fun x => { x with evLost := 0 }) c 0x0006 0 [(0x10, 4, x.evLost)]
    else s

/-- Dispatch has resumed: PERIODS_SKIPPED for each Traverse that has skipped periods (R72). -/
def tellSkipped (s : State) (c : Nat) : State :=
  if ((ctxOf s c).map stalled).getD true then s
  else
    (s.travs.filter fun e => e.2.ctx == c && e.2.skipped != 0).foldl (fun s e =>
      event (modTrav s c e.2.handle fun t => { t with skipped := 0 }) c 0x000B 0
        [(0x10, 2, e.2.handle), (0x14, 4, e.2.skipped), (0x18, 8, e.2.firstSkip)]) s

/-- New heads of a context's page: freed entries count at once. -/
def newHeads (s : State) (c cqHead eqHead : Nat) : State :=
  let s := modCtx s c fun x => { x with ring := { x.ring with cqHead := cqHead, eqHead := eqHead } }
  let s := drainHeld (((ctxOf s c).map fun x => x.held.length).getD 0) s c
  markScan (tellSkipped (tellLost s c) c)

/-- Write the Admin completions that wait for room; the first argument bounds their number. -/
def drainAdmin : Nat → State → Nat → State
  | 0, s, _ => s
  | n + 1, s, p =>
    let x := portOf s p
    match x.aheld with
    | [] => s
    | r :: l =>
      if 0 < acqRoom x then drainAdmin n (putAdmin (modPort s p fun x => { x with aheld := l }) p r) p else s

/-- The reads that fetch `n` entries from index `i`: each up to 4 KB, none past the end of the ring. -/
def fetchReads : Nat → Nat → Nat → Nat → Nat → List (Nat × Nat)
  | 0, _, _, _, _ => []
  | k + 1, base, depth, i, n =>
    if n = 0 then []
    else
      let m := min (min n 64) (depth - i % depth)
      (base + i % depth * 64, m * 64) :: fetchReads k base depth (i + m) (n - m)

/-- Issue the fetches of a ring's new entries, as many as there are tags; while one is under way no other starts. -/
def issueFetch (s : State) (r : RingId) : State :=
  match ringOf s r with
  | none => s
  | some g =>
    let b := ringBases s r
    let p := ringPort s r
    let n := sub32 g.sqTail g.sqHead
    let l := ((fetchReads (n / 64 + 3) b.1 (2 ^ b.2.1) g.sqHead n).flatMap fun e => readRequests s p (ringFn s r) e.1 e.2).take
      (tagLimit s p - outstanding s p)
    if g.asked ≠ 0 then s
    else modRing (l.foldl (fun s e => emit s (.hostRead p e.1 e.2 (streamOf s p (ringFn s r)))) s) r fun g => { g with asked := l.length }

/-- A sweep read's SQ_TAIL: an invalid one is counted and ignored, and the first after a valid one tells the context; a valid
one that shows new entries starts their fetch. -/
def newTail (s : State) (r : RingId) (tail : Nat) : State :=
  match ringOf s r with
  | none => s
  | some g =>
    let depth := 2 ^ (ringBases s r).2.1
    if depth < sub32 tail g.sqHead then
      let s := sweepFail s (ringPort s r)
      let s := modRing s r fun g => { g with tailBad := true }
      match r with
      | .context c =>
        if g.tailBad then s else event s c 0x000A CONFIG_REFUSED [(0x10, 4, tail), (0x14, 4, g.sqHead), (0x18, 4, depth)]
      | .admin _ => s
    else
      let s := modRing s r fun g => { g with sqTail := tail, tailBad := false, readAt := if tail = g.sqHead then g.readAt else s.sup.now }
      if tail = g.sqHead then s else issueFetch s r

/-- A sweep read returns, or has failed (R68, R362). -/
def sweepReadReturn (s : State) (r : RingId) (latency : Nat) (d : Option SweepData) : State :=
  if swept s r then
    let s := modRing s r fun g => { g with swps := g.swps - 1 }
    match d with
    | none => sweepFail s (ringPort s r)
    | some d =>
      let s := modPort s (ringPort s r) fun x => { x with lats := (latency :: x.lats).take 16 }
      let s := match r with
        | .context c => newHeads s c d.cqHead d.eqHead
        | .admin p =>
          let s := modPort s p fun x => { x with ring := { x.ring with cqHead := d.cqHead } }
          drainAdmin (portOf s p).aheld.length s p
      newTail s r d.sqTail
  else s

def execSweepReadReturn (r : RingId) (latency : Nat) (data : Option SweepData) (s : State) :
    Host.Outcome State Fault Refusal := .next (sweepReadReturn s r latency data)

/-- Fetched entries arrive: SQ_HEAD passes them, and they wait to be executed in ring order; a failed fetch leaves SQ_HEAD
where it is and is counted (R68, R362). -/
def entryFetchReturn (s : State) (r : RingId) (d : Option (List Bytes)) : State :=
  if swept s r then
    let s := modRing s r fun g => { g with asked := 0 }
    match d, ringOf s r with
    | none, _ => sweepFail s (ringPort s r)
    | some l, some g =>
      let l := l.take (sub32 g.sqTail g.sqHead)
      if l.isEmpty then s
      else modRing s r fun g =>
        { g with sqHead := wrap32 (g.sqHead + l.length), stamp := g.readAt, fetched := g.fetched ++ l, dirty := true }
    | _, none => s
  else s

def execEntryFetchReturn (r : RingId) (entries : Option (List Bytes)) (s : State) : Host.Outcome State Fault Refusal :=
  .next (entryFetchReturn s r entries)

/-! ### MSIX_TIME_THRESHOLD (R70) -/

/-- The oldest entry not yet announced has waited its ring's time threshold: the vector is raised. -/
def msixTimeThreshold (s : State) (c : Nat) (k : RingKind) : State :=
  match ctxOf s c with
  | none => s
  | some x =>
    let m := match k with
      | .completion => x.cqMod
      | .event => x.eqMod
    match m.due with
    | none => s
    | some t =>
      if t ≤ s.sup.now then
        let s := modCtx s c fun x => match k with
          | .completion => { x with cqMod := { x.cqMod with since := 0, due := none } }
          | .event => { x with eqMod := { x.eqMod with since := 0, due := none } }
        raiseMsix s x.port (.vf x.vf) (match k with
          | .completion => x.cqVec
          | .event => x.eqVec)
      else s

def execMsixTimeThreshold (ctx : Nat) (k : RingKind) (s : State) : Host.Outcome State Fault Refusal :=
  .next (msixTimeThreshold s ctx k)

/-! ### Round-trip time (R359) -/

/-- t_rt can be measured: link in L0, block enabled, Admin Doorbell Page base not zero. -/
def rttReady (s : State) (p : Nat) : Bool :=
  decide (p < nHost s) && s.sup.running && inL0 s p && (portOf s p).ctrl.enable && adbBase (portOf s p) != 0

/-- Sixteen measuring reads and their latencies: the largest is t_rt; when none succeeds they are repeated 1 ms later. -/
def measureRtt (s : State) (p : Nat) (reads : List (Option Nat)) : State :=
  let l := reads.take 16
  let ok := l.filterMap id
  let s := (List.range 16).foldl (fun s _ => emit s (.hostRead p (adbBase (portOf s p)) 16 none)) s
  modPort s p fun x =>
    { x with rtt := ok.foldl max 0, rttAt := s.sup.now, sweepFails := satAdd max32 x.sweepFails (l.length - ok.length),
             rttRetryAt := if ok.isEmpty then some (s.sup.now + 1000000) else none }

/-- The first measurement, when the last of the three conditions becomes true. -/
def rttMeasure (s : State) (p : Nat) (reads : List (Option Nat)) : State :=
  if rttReady s p && (portOf s p).rtt == 0 && (portOf s p).rttRetryAt.isNone then measureRtt s p reads else s

def execRttMeasure (port : Nat) (reads : List (Option Nat)) (s : State) : Host.Outcome State Fault Refusal :=
  .next (rttMeasure s port reads)

/-- The repetition 1 ms after all sixteen reads failed. -/
def rttRetry (s : State) (p : Nat) (reads : List (Option Nat)) : State :=
  match (portOf s p).rttRetryAt with
  | some t => if rttReady s p ∧ t ≤ s.sup.now then measureRtt s p reads else s
  | none => s

def execRttRetry (port : Nat) (reads : List (Option Nat)) (s : State) : Host.Outcome State Fault Refusal :=
  .next (rttRetry s port reads)

/-- Once per second t_rt becomes the largest latency of the last 16 sweep reads. -/
def rttUpdate (s : State) (p : Nat) : State :=
  let x := portOf s p
  if p < nHost s ∧ x.rtt ≠ 0 ∧ x.lats ≠ [] ∧ x.rttAt + 1000000000 ≤ s.sup.now then
    modPort s p fun x => { x with rtt := x.lats.foldl max 0, rttAt := s.sup.now }
  else s

def execRttUpdate (port : Nat) (s : State) : Host.Outcome State Fault Refusal := .next (rttUpdate s port)

end Sys2Proof.Machine
end

