-- ==== Sys2Proof/Machine/Keys.lean ====
section
/-!
DEFINITION. The Monument's keys (R332, R385 to R389, R397): the UDS and what the ROM derives from it, the DRBG, the key
slots of the encryption engines, what the Main and Archive tiers store, the public-key engine.
The model's own: log 14 (PRESUMED), log 38 (DEDUCED).
-/
namespace Sys2Proof.Machine
open Sys2Proof

/-! ### The UDS and its derivations (R385, R386, R388) -/

/-- What the ROM reads of the UDS: nothing once it has locked it; nothing else reads it. -/
def romUds (s : State) : Option Bytes := if s.mon.udsLocked then none else some s.fuses.uds

/-- A key of `n` bytes that HKDF-SHA-384 derives from the UDS. -/
def derive (uds : Bytes) (what n : Nat) : Bytes := hkdf384 [] uds (Config.kdfInfo what) n

/-- CDI_M: from the UDS and the digest of the Monument firmware. -/
def cdiOf (uds firmware : Bytes) : Bytes := hkdf384 firmware uds (Config.kdfInfo 5) 48

/-- The keys of Table 11.1 that hang on the UDS alone. -/
def rootKeys (uds : Bytes) (k : Keys) : Keys :=
  { k with deviceId := Config.ecPublic (derive uds 0 48), updateEc := derive uds 1 48, updateKem := derive uds 2 64, boot := derive uds 3 32,
           storage := derive uds 4 32 }

/-- CDI_M and the Alias key of a firmware, the Alias certificate signed by DeviceID, whose private key is nowhere kept. -/
def aliasKeys (uds firmware : Bytes) (k : Keys) : Keys :=
  let cdi := cdiOf uds firmware
  let a := hkdf384 [] cdi (Config.kdfInfo 6) 48
  { k with cdi := cdi, alias_ := a, chain := Config.certChain (derive uds 0 48) (Config.ecPublic a) }

/-- The ROM derives the keys of an image's firmware and locks the UDS (R386 step 3). -/
def romDerive (s : State) (i : Image) : State :=
  match romUds s with
  | none => s
  | some u => { s with mon := { s.mon with keys := aliasKeys u (Config.firmwareDigest i.digest) (rootKeys u s.mon.keys), udsLocked := true } }

/-! ### The DRBG (R388) -/

/-- Seed the DRBG from the entropy source, whose bytes nothing fixes. -/
def seedDrbg (s : State) : State :=
  let e := freeBytes s 48
  let x := drbgUpdate (List.replicate 32 0) (List.replicate 16 0) e.1
  { e.2 with mon := { e.2.mon with drbg := { key := x.1, v := x.2, count := 1 } } }

/-- `n` bytes from the DRBG, and the package after it. -/
def drawKey (s : State) (n : Nat) : Bytes × State :=
  let d := s.mon.drbg
  let m := ceilDiv n 16
  let x := drbgUpdate d.key (be 16 (leNat d.v.reverse + m)) (List.replicate 48 0)
  ((drbgBlocks d.key d.v m).take n, { s with mon := { s.mon with drbg := { key := x.1, v := x.2, count := d.count + 1 } } })

/-! ### Key slots (R387, R389) -/

/-- Owner numbers of the key slots. -/
def holdingSlot (k : Nat) : Nat := 64 + k
abbrev reserveSlot : Nat := 320

/-- What a Plat's engines hold: the keys of the open contexts, of the attached Holdings, and of the device reserve. -/
def slotKeys (s : State) : Tbl Bytes :=
  (s.ctxs.map fun e => (e.1, e.2.keys)) ++
    (s.mon.holdings.filterMap fun e => e.2.keys.map fun k => (holdingSlot e.1, k)) ++ [(reserveSlot, s.mon.keys.reserve)]

/-- Plat 0's Monument loads the slots of its own engines, and through their standby Monuments those of the Plats released: a key that is
gone is erased in every one. -/
def sendKeys (s : State) : State :=
  { s with mon := { s.mon with keys := { s.mon.keys with slots := (0 :: s.mon.keys.channels.map (·.1)).map fun p => (p, slotKeys s) } } }

/-- The standby Monument of a Plat that is released agrees a channel key and is sent the keys (R387). -/
def openChannel (s : State) (p : Nat) : State :=
  let e := freeBytes s 32
  sendKeys { e.2 with mon := { e.2.mon with keys := { e.2.mon.keys with channels := tput e.2.mon.keys.channels p e.1 } } }

/-! ### What the tiers store (R332, R337) -/

/-- Main and Archive keys of a Holding, unwrapped. -/
def holdingKeys (s : State) (k : Nat) : Bytes := ((tget s.mon.holdings k).bind (·.keys)).getD []

/-- Main and Archive keys of an object's keying owner, 64 bytes each. -/
def ownerKeys (s : State) (o : Obj) : Bytes :=
  match o.key with
  | some k => holdingKeys s k
  | none => ((ctxOf s o.ctx).map (·.keys)).getD []

/-- A data unit of an object as the Main tier stores it. -/
def mainCipher (s : State) (o : Obj) (unit : Nat) (d : Bytes) : Bytes := xtsUnit ((ownerKeys s o).take 64) unit o.serial d

/-- Index of a logical page in what it is a page of, with that one's serial and Archive key: a bound object, or a persistent one of an
attached Holding. -/
def pageOwner (s : State) (p : Nat) (x : PhysPage) : Option (Nat × Nat × Bytes) :=
  match s.objs.find? fun e => e.2.home == p && e.2.lpns.contains x.lpn with
  | some (_, o) => some (o.lpns.idxOf x.lpn, o.serial, (ownerKeys s o).drop 64)
  | none =>
    match (cadOf s p).persist.find? fun e => e.key == x.key && e.lpns.contains x.lpn with
    | some e => some (e.lpns.idxOf x.lpn, e.name, (holdingKeys s e.key).drop 64)
    | none => none

/-- A physical page as the NAND holds it: the ciphertext of its 16 KB, none for a page of no object that is reached; a pad page is zeros. -/
def pageCipher (s : State) (p : Nat) (x : PhysPage) : Option Bytes :=
  if x.lpn = 0xFFFFFFFF then some (List.replicate 16384 0)
  else (pageOwner s p x).map fun e => xtsPage e.2.2 e.1 e.2.1 (rdBytes x.data 0 16384)

/-- The metadata in a physical page's spare (Table 9.9). -/
def spareOf (s : State) (p : Nat) (x : PhysPage) : Option Bytes :=
  (pageCipher s p x).map (pageMeta x.lpn x.key x.relocated x.seq x.group)

/-! ### The public-key engine (R397) -/

/-- Worst-case time of an operation (Table 11.5). -/
def PkOp.ns : PkOp → Nat
  | .sign => 150000
  | .verify => 300000
  | .agree => 150000
  | .verifyPq => 250000
  | .decapsulate => 80000

/-- Start the first operation: it ends at a moment that its worst case bounds. -/
def startPk (s : State) : State :=
  match s.mon.pk with
  | [] => s
  | o :: _ => { s with mon := { s.mon with pkEnd := s.sup.now + Config.freeNat s.free % (o.ns + 1) }, free := s.free + 1 }

/-- Requests come to the public-key engine, in order. -/
def askPk (s : State) (l : List PkOp) : State :=
  let idle := s.mon.pk.isEmpty
  let s := { s with mon := { s.mon with pk := s.mon.pk ++ l } }
  if idle then startPk s else s

/-- The engine's queue of 64: what lies beyond it waits with its callers. -/
def pkQueue (s : State) : List PkOp := s.mon.pk.take 64

/-- An operation that has ended leaves, and the next one starts. -/
def settlePk (s : State) : State :=
  if s.mon.pk.isEmpty ∨ s.sup.now < s.mon.pkEnd then s else startPk { s with mon := { s.mon with pk := s.mon.pk.drop 1 } }

end Sys2Proof.Machine
end

