-- ==== Sys2Proof/Machine/Cadastre.lean ====
section
/-!
DEFINITION. The Cadastre of a Plat (R336 to R350): commit groups and their programs, the journal, erases, retirement, wear
relocation and refresh, page reads, checkpoints, mount.
The model's own: log 8 (DESIGN CHOICE), log 32 (DEDUCED).
-/
namespace Sys2Proof.Machine
open Sys2Proof

/-- Blocks, pages of a data block, LPN of a pad page (Table 9.8, R340). -/
abbrev nBlocks : Nat := 32768
abbrev blockPages : Nat := 1024
abbrev padLpn : Nat := 0xFFFFFFFF

/-- The Plat's Cadastre is mounted and usable (R344, R421). -/
def mounted (s : State) (p : Nat) : Bool := (cadOf s p).st == 2 && ready s p

/-! ### Blocks -/

def blkOf (c : Cad) (b : Nat) : Blk := tgetD c.blocks b {}

def modBlk (c : Cad) (b : Nat) (f : Blk → Blk) : Cad := { c with blocks := tput c.blocks b (f (blkOf c b)) }

/-- Free blocks of the pool. -/
def freeBlocks (c : Cad) : Nat := nBlocks - (c.blocks.filter fun e => decide (e.2.st ≠ .free)).length

def retiredBlocks (c : Cad) : Nat := (c.blocks.filter fun e => decide (e.2.st = .retired)).length

/-- Mean erase count over all blocks. -/
def meanErases (c : Cad) : Nat := (c.blocks.map (·.2.erases)).foldl (· + ·) 0 / nBlocks

/-- The lowest block number that the table does not list: a block never erased. -/
def firstUnlisted : Nat → List (Nat × Blk) → Nat
  | n, [] => n
  | n, (b, _) :: r => if n = b then firstUnlisted (n + 1) r else n

/-- The free block with the fewest erases (R345). -/
def pickBlock (c : Cad) : Option Nat :=
  let n := firstUnlisted 0 c.blocks
  if n < nBlocks then some n
  else
    ((c.blocks.filter fun e => decide (e.2.st = .free)).foldl (fun (a : Option (Nat × Nat)) e =>
      match a with
      | none => some (e.1, e.2.erases)
      | some (_, m) => if e.2.erases < m then some (e.1, e.2.erases) else a) none).map (·.1)

/-- Take `n` free blocks for a use, as many as there are. -/
def takeBlocks (st : BlkSt) : Nat → Cad → Cad × List Nat
  | 0, c => (c, [])
  | n + 1, c =>
    match pickBlock c with
    | none => (c, [])
    | some b => let r := takeBlocks st n (modBlk c b fun x => { x with st := st, used := 0, reads := 0 }); (r.1, b :: r.2)

/-- A block holds the present copy of a logical page. -/
def mapsBlock (c : Cad) (b : Nat) : Bool := c.map.any fun e => e.2 / blockPages == b

/-- A block holds a page of a group that is not durable yet. -/
def pendsBlock (c : Cad) (b : Nat) : Bool := c.groups.any fun g => g.ppns.any fun n => n / blockPages == b

/-- A record of the journal: TYPE and the first three fields of its BODY (Table 9.10). -/
structure JBody where
  type : Nat
  a    : Nat
  b    : Nat := 0
  d    : Nat := 0
  ok   : Bool := true

/-- Program one journal page, alone on its word line, with up to 255 records. The page takes the next sequence number and its records the
ones that follow (R338, R340). -/
def journalPage (c : Cad) (l : List JBody) : Cad :=
  let c := match c.jblocks with
    | (_, _) :: _ => if c.jused < 256 then c else newJournal c
    | [] => newJournal c
  let last := c.seq + l.length
  let recs := (enum l).map fun e => ({ type := e.2.type, seq := c.seq + 1 + e.1, a := e.2.a, b := e.2.b, c := e.2.d, ok := e.2.ok } : JRec)
  { c with journal := recs.reverse ++ c.journal, seq := last + 1, jused := c.jused + 1,
           jblocks := match c.jblocks with
             | (b, _) :: r => (b, last) :: r
             | [] => [] }
where
  /-- Open a journal block. -/
  newJournal (c : Cad) : Cad :=
    match takeBlocks .journal 1 c with
    | (c, b :: _) => { c with jblocks := (b, 0) :: c.jblocks, jused := 0 }
    | (c, []) => c

/-- Program records in as many pages as they need; the first argument bounds the pages. -/
def journalAll : Nat → Cad → List JBody → Cad
  | 0, c, _ => c
  | n + 1, c, l => if l.isEmpty then c else journalAll n (journalPage c (l.take 255)) (l.drop 255)

def journal (c : Cad) (l : List JBody) : Cad := journalAll (l.length / 255 + 1) c l

/-- CADASTRE_WEAR when the free pool falls below 1% of the blocks (R346). -/
def checkWear (s : State) (p : Nat) : State :=
  let c := cadOf s p
  let low := decide (freeBlocks c * 100 < nBlocks)
  let s := modCad s p fun c => { c with wear := low }
  if low && !c.wear then
    eventAll s 0x0205 0 [(0x10, 4, 0), (0x14, 1, p), (0x18, 4, freeBlocks c), (0x1C, 4, meanErases c), (0x20, 4, retiredBlocks c)]
  else s

/-- Nothing that a block holds is needed any more: no mapped page and none of a group under way, no journal page since the checkpoint before
the newest, no checkpoint that is kept. -/
def deadBlock (c : Cad) (b : Nat) : BlkSt → Bool
  | .data => !mapsBlock c b && !pendsBlock c b && c.open_ != some b
  | .retiring => !mapsBlock c b && !pendsBlock c b
  | .journal => !c.jblocks.any fun e => e.1 == b
  | .checkpoint => !c.ckpts.any fun k => k.blocks.contains b
  | _ => false

/-- Erase the blocks that hold nothing any more: ERASE_BEGIN is durable before the erase starts (R348). A retiring block that maps nothing
is retired (R346). -/
def reclaim (c : Cad) : Cad :=
  let dead := c.blocks.filter fun e => deadBlock c e.1 e.2.st
  let c := journal c (dead.map fun e =>
    if e.2.st = .retiring then { type := 5, a := e.1, b := 1 } else { type := 3, a := e.1, b := e.2.erases + 1 })
  dead.foldl (fun c e => modBlk c e.1 fun b => { b with st := if e.2.st = .retiring then .retired else .erasing }) c

/-! ### Commit groups (R339, R340) -/

/-- Open a commit group with the Plat's next GROUP number. -/
def newGroup (s : State) (p : Nat) (pages : List GPage) (use : GroupUse) (clears : List Nat) (took : List Nat := []) : State :=
  modCad s p fun c =>
    { c with groups := c.groups ++ [{ id := c.group, pages := pages, use := use, clears := clears, took := took }], group := c.group + 1 }

/-- The free pool can take a group of `n` pages beside what the groups before it still need (R346). -/
def canTake (c : Cad) (n : Nat) : Bool :=
  let left := (c.open_.map fun b => blockPages - (blkOf c b).used).getD 0
  let waiting := (c.groups.map fun g => ceilDiv (g.pages.length - g.ppns.length) 4 * 4).foldl (· + ·) 0
  decide (waiting + ceilDiv n 4 * 4 ≤ left + freeBlocks c * blockPages)

/-- Relocate the mapped pages of a block in a commit group of their own (R345); a page that an earlier group is writing or
trimming leaves the block with that group. A lost page has no bytes to move: it stays lost and is mapped nowhere (Table 9.11). -/
def relocate (s : State) (p b : Nat) : State :=
  if (cadOf s p).groups.any fun g => decide (g.use = .relocation b) then s
  else
    let s := modCad s p fun c => { c with map := c.map.filter fun e => !(e.2 / blockPages == b && c.lost.contains e.1) }
    let c := cadOf s p
    let busy := c.groups.flatMap fun g => g.pages.map (·.lpn)
    let pages := (c.map.filter fun e => e.2 / blockPages == b && !busy.contains e.1 && !trimming c e.1).filterMap fun e =>
      (tget c.pages e.2).map fun x => ({ lpn := e.1, key := x.key, relocated := true, data := x.data } : GPage)
    if pages.isEmpty then modCad s p reclaim else newGroup s p pages (.relocation b) []

/-- Retire a block: its mapped pages are moved first (R346). -/
def retireBlock (s : State) (p b : Nat) : State :=
  let s := modCad s p fun c =>
    let c := modBlk c b fun x => { x with st := .retiring }
    { c with open_ := if c.open_ = some b then none else c.open_,
             groups := c.groups.map fun g =>
               if g.ppns.any fun n => n / blockPages == b then { g with ppns := [] } else g }
  checkWear (relocate s p b) p

/-- Enter a program or erase failure in the Fault Log: it is lasting at once (R431, R440). -/
def mediaFail (s : State) (p b : Nat) : State :=
  logFault (logFault s 0x06 p 7 (65536 * b) 0) 0x07 p 7 (65536 * b) 0

/-- Open a block for the next word line, if none is open. -/
def openBlock (c : Cad) : Cad :=
  match c.open_ with
  | some _ => c
  | none =>
    match pickBlock c with
    | none => c
    | some b => { modBlk c b fun x => { x with st := .data, used := 0, reads := 0 } with open_ := some b }

/-- Program the next word line of a group: up to 4 of its pages, and pad pages for the rest (R340). -/
def programLine (c : Cad) (b : Nat) (g : Group) : Cad :=
  let used := (blkOf c b).used
  let todo := (g.pages.drop g.ppns.length).take 4
  let cells := (List.range 4).map fun i =>
    let x : PhysPage := match todo[i]? with
      | some q => ⟨q.lpn, q.key, q.relocated, c.seq + i, g.id, q.data, false⟩
      | none => ⟨padLpn, 0xFFFF, false, c.seq + i, g.id, [], false⟩
    (b * blockPages + used + i, x)
  let c' := { c with pages := cells.foldl (fun t e => tput t e.1 e.2) c.pages, seq := c.seq + 4,
                     groups := c.groups.map fun h =>
                       if h.id = g.id then
                         { h with ppns := h.ppns ++ (List.range todo.length).map (b * blockPages + used + ·),
                                  firstSeq := if g.ppns.isEmpty then c.seq else h.firstSeq }
                       else h }
  let c' := modBlk c' b fun x => { x with used := used + 4 }
  if blockPages ≤ used + 4 then { c' with open_ := none } else c'

/-- A Plat holds Archive writes until the checkpoint of a quiesce is durable: nothing of a group is programmed (R342). -/
def quiescing (s : State) (p : Nat) : Bool :=
  s.ctxs.any fun e => match e.2.busy with
    | some (.quiesce ps _ _) => ps.contains p
    | _ => false

/-- A word-line program of a group completes and is read back, or fails and retires its block; the pages of a failed word line have taken
their sequence numbers (R338, R340, R346). -/
def nandProgramDone (s : State) (p group : Nat) (ok : Bool) : State :=
  let c := openBlock (cadOf s p)
  match c.groups.find? fun g => g.id == group, c.open_ with
  | some g, some b =>
    if mounted s p ∧ g.ppns.length < g.pages.length ∧ ¬ quiescing s p then
      let s := modCad s p fun _ => c
      if ok then checkWear (modCad s p fun c => programLine c b g) p
      else retireBlock (mediaFail (modCad s p fun c => { c with seq := c.seq + 4 }) p b) p b
    else s
  | _, _ => s

def execNandProgramDone (plat group : Nat) (ok : Bool) (s : State) : Host.Outcome State Fault Refusal :=
  .next (nandProgramDone s plat group ok)

/-- The runs of consecutive numbers of a rising list. -/
def runsUp : List Nat → List (Nat × Nat)
  | [] => []
  | a :: r =>
    match runsUp r with
    | (b, n) :: q => if b = a + 1 then (a, n + 1) :: q else (a, 1) :: (b, n) :: q
    | [] => [(a, 1)]

/-- The records of a group's commit: its TRIM records, then its GROUP_COMMIT (R339, R341). -/
def commitRecs (g : Group) : List JBody :=
  (match g.use with
    | .trim lpns key => (runsUp (sortBy (fun a b => decide (a < b)) lpns)).map fun e => ({ type := 2, a := e.1, b := e.2, d := key } : JBody)
    | _ => []) ++ [{ type := 1, a := g.id, b := g.firstSeq, d := g.pages.length }]

/-- The journal and the map when a group becomes durable: every one of its logical pages switches at once (R339, R341). -/
def durable (c : Cad) (g : Group) : Cad :=
  let c := journal c (commitRecs g)
  let map := (g.pages.zip g.ppns).foldl (fun m e => tput m e.1.lpn e.2) c.map
  let cut := match g.use with
    | .trim lpns _ => lpns
    | _ => []
  reclaim { c with map := cut.foldl tdel map, lost := c.lost.filter (fun l => !g.clears.contains l && !cut.contains l),
                   groups := c.groups.filter (fun h => h.id != g.id), since := c.since + g.pages.length, commits := true,
                   ckptDue := c.ckptDue || decide (131072 ≤ c.since + g.pages.length) }

/-- Write-back groups of an object that are not durable yet. -/
def writingBack (s : State) (p k : Nat) : Bool := (cadOf s p).groups.any fun g => decide (g.use = .writeBack k)

/-- The flushes of an object complete when no write-back group of it is left (R327). -/
def endFlushes (s : State) (p k : Nat) : State :=
  if writingBack s p k then s
  else
    s.ctxs.foldl (fun s e =>
      match e.2.busy with
      | some (.flush o tag flags) => if o = k then finishBusy s e.1 tag flags 0xFFFF 0 0 else s
      | _ => s) s

/-- Complete an update command whose staging write is durable; UPDATE_ARM alone is not quiet (R75). -/
def finishStaged (s : State) (cmd : Option (Nat × Nat × Nat)) (quiet : Bool) : State :=
  match cmd with
  | none => s
  | some (c, tag, flags) =>
    if quiet && !bit flags 1 then modCtx s c fun x => { x with busy := none } else finishBusy s c tag flags 0xFFFF 0 0

/-- What a durable write in the Staging Area leaves, unless the update has moved on meanwhile (R401, R402, R404, R405): a
manifest enters RECEIVING; a Parcel of the image still staged sets its bit; an armed slot holds the image, whose key is
destroyed; an abandoned image is gone. -/
def stagedDone (m : Mon) : StageAct → Mon
  | .manifest i keep =>
    if m.upd = .armed ∨ m.upd = .activating then m
    else { m with upd := .receiving, staged := some i, keys := { m.keys with image := some i.key },
                  parcels := if keep then m.parcels else [] }
  | .parcel image n d =>
    if m.upd = .receiving ∧ (m.staged.map (·.id)) = some image then { m with parcels := tput m.parcels n d } else m
  | .arm =>
    if m.upd ≠ .complete then m
    else if m.activeB then { m with upd := .armed, armed := true, keys := { m.keys with image := none }, slotA := m.staged }
    else { m with upd := .armed, armed := true, keys := { m.keys with image := none }, slotB := m.staged }
  | .abandon =>
    if m.upd = .activating then m
    else
      let m' : Mon := { m with upd := .empty, staged := none, parcels := [], keys := { m.keys with image := none }, armed := false }
      if !m.armed then m' else if m.activeB then { m' with slotA := none } else { m' with slotB := none }

/-- The bytes of an OBJECT_WRITE that has become durable, in the copy above the Archive if there is one: where the page is still to be
copied from there, they are applied after the writes held before them (R329). -/
def landDurable (s : State) (k : Nat) (o : Obj) (off : Nat) (d : Bytes) : Obj :=
  if o.present = .archive then
    if promoting s k o then
      (cut (d.length / pageSize + 1) pageSize off d).foldl (fun o w =>
        if copied s k o ≤ w.1 / pageSize then { o with held := o.held ++ [w] } else { o with mem := wrBytes o.mem w.1 w.2 }) o
    else o
  else { o with mem := wrBytes o.mem off d }

/-- What a group's durability does beyond the map: an OBJECT_WRITE takes effect and completes; a flush completes; a staging
write changes the update (R319, R327, R400). -/
def groupDone (s : State) (p : Nat) (g : Group) : State :=
  match g.use with
  | .write c tag flags k partialLost off data =>
    finishBusy (modObj s k fun o => landDurable s k o off data) c tag flags 0xFFFF (if partialLost then INTEGRITY else 0) 3
  | .writeBack k => endFlushes s p k
  | .staging cmd act => finishStaged { s with mon := stagedDone s.mon act } cmd (decide (act ≠ .arm))
  | _ => s

/-- A group's GROUP_COMMIT record is programmed and verified: the oldest group of the Plat whose pages are all programmed
becomes durable (R339). -/
def groupCommit (s : State) (p group : Nat) : State :=
  match (cadOf s p).groups with
  | [] => s
  | g :: _ =>
    if mounted s p ∧ g.id = group ∧ g.ppns.length = g.pages.length ∧ ¬ quiescing s p then
      groupDone (modCad s p fun c => durable c g) p g
    else s

def execGroupCommit (plat group : Nat) (s : State) : Host.Outcome State Fault Refusal := .next (groupCommit s plat group)

/-! ### Erases (R348) -/

/-- A block erase completes: ERASE_DONE puts the block in the free pool; a failed erase retires it. -/
def eraseDone (s : State) (p b : Nat) (ok : Bool) : State :=
  if mounted s p ∧ (blkOf (cadOf s p) b).st = .erasing then
    if ok then
      checkWear (modCad s p fun c =>
        let n := (blkOf c b).erases + 1
        let c := modBlk (journal c [{ type := 4, a := b, b := n }]) b fun _ => { st := .free, erases := n }
        { c with pages := c.pages.filter fun e => e.1 / blockPages != b, refresh := c.refresh.filter (· != b),
                 patrolled := tdel c.patrolled b }) p
    else
      checkWear (modCad (mediaFail s p b) p fun c => modBlk (journal c [{ type := 5, a := b, b := 2 }]) b fun x => { x with st := .retired }) p
  else s

def execEraseDone (plat block : Nat) (ok : Bool) (s : State) : Host.Outcome State Fault Refusal :=
  .next (eraseDone s plat block ok)

/-- A suspended erase resumes. -/
def eraseResume (s : State) (p b : Nat) : State :=
  if mounted s p ∧ (blkOf (cadOf s p) b).st = .suspended then modCad s p fun c => modBlk c b fun x => { x with st := .erasing } else s

def execEraseResume (plat block : Nat) (s : State) : Host.Outcome State Fault Refusal := .next (eraseResume s plat block)

/-! ### Reads (R347, Table 9.11) -/

/-- A read suspends the erases of its Plat (R348). -/
def suspendErases (c : Cad) : Cad :=
  { c with blocks := c.blocks.map fun (e : Nat × Blk) => (e.1, if e.2.st = .erasing then { e.2 with st := .suspended } else e.2) }

/-- Count a read of a block and schedule its refresh where R347 asks for it. -/
def countRead (c : Cad) (b : Nat) (o : PageRead) : Cad :=
  let c := modBlk c b fun x => { x with reads := x.reads + 1 }
  if (100000 ≤ (blkOf c b).reads ∨ 3 ≤ o.retrySteps ∨ 75 < o.corrected) ∧ ¬ c.refresh.contains b then
    { c with refresh := c.refresh ++ [b] }
  else c

/-- Mark a logical page lost: OBJECT_LOST once, to the owner and every grantee (R319, R350). -/
def losePage (s : State) (p lpn : Nat) : State :=
  if (cadOf s p).lost.contains lpn then s
  else
    let s := modCad s p fun c => { c with lost := c.lost ++ [lpn] }
    match s.objs.find? fun e => e.2.home == p && e.2.lpns.contains lpn with
    | none => s
    | some (k, o) =>
      let i := o.lpns.idxOf lpn
      (holders o).foldl (fun s c =>
        event s c 0x0203 INTEGRITY [(0x10, 4, nameFor s c k), (0x14, 1, 1), (0x18, 8, i * pageSize), (0x20, 4, pageBytes o i)]) s

/-- A NAND page read of a mapped logical page completes. -/
def cadastrePageReadDone (s : State) (p lpn : Nat) (o : PageRead) : State :=
  match tget (cadOf s p).map lpn with
  | none => s
  | some n =>
    if mounted s p ∧ ¬ (cadOf s p).lost.contains lpn then
      let s := modCad s p fun c => suspendErases (countRead c (n / blockPages) o)
      if o.uncorrectable then losePage s p lpn else s
    else s

def execCadastrePageReadDone (plat lpn : Nat) (o : PageRead) (s : State) : Host.Outcome State Fault Refusal :=
  .next (cadastrePageReadDone s plat lpn o)

/-- The logical pages that a block maps. -/
def blockLpns (c : Cad) (b : Nat) : List Nat := (c.map.filter fun e => e.2 / blockPages == b).map (·.1)

/-- The patrol read of a block that holds data, under the tests of every read. A page of it that proves uncorrectable is lost, as Table 9.11
says of any read; which of its pages is free (log 32). -/
def cadastrePatrol (s : State) (p b : Nat) (o : PageRead) : State :=
  let l := (blockLpns (cadOf s p) b).filter fun n => !(cadOf s p).lost.contains n
  if mounted s p ∧ mapsBlock (cadOf s p) b then
    let s' := modCad s p fun c =>
      let c := countRead c b (if o.uncorrectable then { o with retrySteps := max 3 o.retrySteps } else o)
      { c with patrolled := tput c.patrolled b s.sup.now }
    if o.uncorrectable && !l.isEmpty then losePage { s' with free := s.free + 1 } p (l.getD (Config.freeNat s.free % l.length) 0) else s'
  else s

def execCadastrePatrol (plat block : Nat) (o : PageRead) (s : State) : Host.Outcome State Fault Refusal :=
  .next (cadastrePatrol s plat block o)

/-! ### Relocation and refresh (R345, R347) -/

/-- A block whose refresh is scheduled is relocated; its erase follows when the group is durable. -/
def blockRefresh (s : State) (p b : Nat) : State :=
  if mounted s p ∧ (cadOf s p).refresh.contains b then
    relocate (modCad s p fun c => { c with refresh := c.refresh.filter (· != b),
                                           open_ := if c.open_ = some b then none else c.open_ }) p b
  else s

def execBlockRefresh (plat block : Nat) (s : State) : Host.Outcome State Fault Refusal := .next (blockRefresh s plat block)

/-- The least-erased block that holds data. -/
def leastErased (c : Cad) : Option Nat :=
  ((c.blocks.filter fun e => decide (e.2.st = .data) && mapsBlock c e.1).foldl (fun (a : Option (Nat × Nat)) e =>
    match a with
    | none => some (e.1, e.2.erases)
    | some (_, m) => if e.2.erases < m then some (e.1, e.2.erases) else a) none).map (·.1)

/-- When the most-erased block in use exceeds the mean by 200 erases, the least-erased data is relocated; a block that is being filled takes
no more (R345). -/
def wearRelocation (s : State) (p : Nat) : State :=
  let c := cadOf s p
  let top := ((c.blocks.filter fun e => decide (e.2.st ≠ .retired)).map (·.2.erases)).foldl max 0
  match leastErased c with
  | some b =>
    if mounted s p ∧ meanErases c + 200 < top then
      relocate (modCad s p fun c => { c with open_ := if c.open_ = some b then none else c.open_ }) p b
    else s
  | none => s

def execWearRelocation (plat : Nat) (s : State) : Host.Outcome State Fault Refusal := .next (wearRelocation s plat)

/-! ### Checkpoints (R342) -/

/-- 30 s after the last checkpoint, with a commit since, a checkpoint is due. -/
def checkpointTimer (s : State) (p : Nat) : State :=
  let c := cadOf s p
  if mounted s p ∧ c.commits = true ∧ c.ckptAt + 30000000000 ≤ s.sup.now then modCad s p fun c => { c with ckptDue := true } else s

def execCheckpointTimer (plat : Nat) (s : State) : Host.Outcome State Fault Refusal := .next (checkpointTimer s plat)

/-- Pages and blocks of a map checkpoint: 25,165,824 entries of 8 bytes, 256 pages to a block (R337, Table 9.8). -/
abbrev ckptPages : Nat := 12288
abbrev ckptBlocks : Nat := 48

/-- The checkpoint's own effect. What only checkpoints before the newest need is erased first; then the map is programmed in blocks of one
page per word line, and a CHECKPOINT record covers every earlier sequence number (R338, R340, R342). -/
def checkpoint (c : Cad) (now : Nat) : Cad :=
  let keep := c.ckpts.take 1
  let c := { c with ckpts := keep,
                    jblocks := c.jblocks.take 1 ++ (c.jblocks.drop 1).filter fun e => keep.all fun k => decide (k.seq ≤ e.2) }
  let (c, l) := takeBlocks .checkpoint ckptBlocks (reclaim c)
  let place := l.headD 0 * blockPages
  let seq := c.seq + ckptPages
  journal { c with ckpts := ⟨c.map, seq, place, l⟩ :: keep, seq := seq, since := 0, commits := false, ckptAt := now, ckptDue := false }
    [{ type := 6, a := place, b := seq - 1 }]

/-- The quiesces that waited for a Plat's checkpoint go on, and complete with their last Plat. -/
def endQuiesce (s : State) (p : Nat) : State :=
  s.ctxs.foldl (fun s e =>
    match e.2.busy with
    | some (.quiesce ps tag flags) =>
      let ps := ps.filter (· != p)
      if ps.isEmpty then finishBusy s e.1 tag flags 0xFFFF 0 0
      else modCtx s e.1 fun x => { x with busy := some (.quiesce ps tag flags) }
    | _ => s) s

/-- A map checkpoint and its record are durable. -/
def checkpointDone (s : State) (p : Nat) : State :=
  if mounted s p ∧ (cadOf s p).ckptDue then endQuiesce (modCad s p fun c => checkpoint c s.sup.now) p else s

def execCheckpointDone (plat : Nat) (s : State) : Host.Outcome State Fault Refusal := .next (checkpointDone s plat)

/-- CADASTRE_QUIESCE: Surveyor contexts alone; the Plat or all; it completes once the checkpoints are durable (R342, R344). -/
def cadastreQuiesce (h : CmdHdr) (p : Nat) (s : State) (x : Ctx) : CmdRes :=
  if !x.surveyor then .refuse s ACCESS_DENIED
  else
    let ps := if p = 255 then List.range (nPlats s) else [p]
    if p ≠ 255 ∧ nPlats s ≤ p then .refuse s CONFIG_REFUSED
    else if !ps.all (mounted s) then .refuse s NOT_READY
    else
      let s := ps.foldl (fun s p => modCad s p fun c => { c with ckptDue := true }) s
      later s h.ctx (.quiesce ps h.tag h.flags)

def execCadastreQuiesce (h : CmdHdr) (plat : Nat) (s : State) : Host.Outcome State Fault Refusal :=
  .next (ctxCmd s (.cadastreQuiesce h plat) h false (cadastreQuiesce h plat))

/-! ### Mount (R343, R348) -/

/-- Replay one journal record into the map: a GROUP_COMMIT maps each page of its group and frees what the TRIM records before it name (R341,
R343). -/
def replayRec (pages : Tbl PhysPage) (a : Tbl Nat × List JRec) (r : JRec) : Tbl Nat × List JRec :=
  match r.type with
  | 1 =>
    let m := (pages.filter fun e => e.2.group == r.a && e.2.lpn != padLpn).foldl (fun m e => tput m e.2.lpn e.1) a.1
    (m.filter fun e => !a.2.any fun t => decide (t.a ≤ e.1) && decide (e.1 < t.a + t.b), [])
  | 2 => (a.1, a.2 ++ [r])
  | _ => a

/-- The records up to the first that fails its CRC. -/
def validRecs : List JRec → List JRec
  | [] => []
  | r :: l => if r.ok then r :: validRecs l else []

/-- The newest journal record is a CHECKPOINT (R342); a Cadastre never written is clean. -/
def cleanCad (c : Cad) : Bool :=
  match c.journal with
  | [] => true
  | r :: _ => r.type == 6 && r.ok

/-- The blocks with an ERASE_BEGIN and no matching ERASE_DONE; a RETIRE record ends an erase that failed (R346, log 32). -/
def brokenErases (l : List JRec) : List Nat :=
  l.foldl (fun a r => if r.type = 3 then a ++ [r.a] else if r.type = 4 ∨ r.type = 5 then a.filter (· != r.a) else a) []

/-- Mount: the newest checkpoint that passes its checks; unless the journal is clean behind it, the replay; what belongs to no durable group
or fails its checks discarded, and its blocks scheduled for re-erase; the broken erases repeated; the pages freed in one commit group whose
keying owner is not a Holding or that no persistent object holds any more (R335, R341); and a new checkpoint. -/
def mountCad (s : State) (p : Nat) (media : MountMedia) : Cad :=
  let c := cadOf s p
  let kept := c.ckpts.drop media.badCkpts
  let base := kept.headD ⟨[], 0, 0, []⟩
  let clean := cleanCad c && decide (media.badCkpts = 0)
  let older := c.journal.reverse.filter fun r => r.ok && decide (r.seq < base.seq)
  let newer := validRecs (c.journal.reverse.filter fun r => decide (base.seq ≤ r.seq))
  let commits := ((older ++ newer).filter fun r => r.type == 1).map (·.a)
  let good (e : Nat × PhysPage) : Bool := commits.contains e.2.group && !e.2.torn && !media.badPages.contains e.1
  let bad := c.pages.filter fun e => !good e
  let pages := c.pages.filter good
  let map := if clean then base.map else (newer.foldl (replayRec pages) (base.map, [])).1
  let groups := ((bad.filter fun e => !commits.contains e.2.group).map (·.2.group)).eraseDups.length
  let spoilt := (bad.filter fun e => commits.contains e.2.group && e.2.lpn != padLpn &&
    (match tget map e.2.lpn with
      | none => true
      | some n => n == e.1)).map (·.2.lpn)
  let again := brokenErases (older ++ newer)
  let blocks := again.foldl (fun t b => tput t b { tgetD t b {} with st := .erasing, erases := (tgetD t b {}).erases + 1 }) c.blocks
  let held := c.persist.flatMap (·.lpns)
  let map := spoilt.foldl tdel map
  let gone := (map.filter fun e => !held.contains e.1 ||
    ((tget pages e.2).map fun x => (tget s.mon.holdings x.key).isNone).getD true).map (·.1)
  let c := { c with map := map, blocks := blocks, groups := [], open_ := none, ckptDue := false, ckpts := kept, pages := pages,
                    lost := (c.lost ++ (spoilt.filter held.contains)).eraseDups,
                    refresh := (c.refresh ++ bad.map fun e => e.1 / blockPages).eraseDups }
  let c := if gone.isEmpty then c
    else durable { c with group := c.group + 1 } { id := c.group, pages := [], use := .trim gone 0xFFFF }
  let c := checkpoint { reclaim c with st := 2, mountMs := media.elapsedMs, unclean := !clean, discarded := groups, reerased := again.length } s.sup.now
  { c with wear := decide (freeBlocks c * 100 < nBlocks) }

/-- A reset or a loss of power strikes a mounted Cadastre (Table 9.12). Whether a word line or a GROUP_COMMIT of its oldest group was
programming is free, bits 0 and 1 of `draw`; what was is torn: it has taken its sequence numbers and fails its checks. -/
def tearCad (draw : Nat) (c : Cad) : Cad :=
  if c.st ≠ 2 then c
  else
    match c.groups with
    | [] => c
    | g :: _ =>
      if g.ppns.length < g.pages.length then
        let c' := openBlock c
        match bit draw 0, c'.open_ with
        | true, some b =>
          let at_ := b * blockPages + (blkOf c' b).used
          let torn : PhysPage := { lpn := padLpn, key := 0xFFFF, relocated := false, seq := c.seq, group := g.id, data := [], torn := true }
          { modBlk c' b fun x => { x with used := x.used + 4 } with
            seq := c.seq + 4, pages := (List.range 4).foldl (fun t i => tput t (at_ + i) { torn with seq := c.seq + i }) c.pages }
        | _, _ => c
      else if bit draw 1 then
        journal c ((commitRecs g).map fun r => { r with ok := r.type != 1 })
      else c

/-- The mount of a ready Plat's Cadastre ends; CADASTRE_MOUNTED goes to every open context. -/
def cadastreMount (s : State) (p : Nat) (media : MountMedia) : State :=
  if p < nPlats s ∧ ready s p ∧ (cadOf s p).st = 1 then
    let c := mountCad s p media
    eventAll (modCad s p fun _ => c) 0x0204 0
      [(0x10, 4, 0), (0x14, 1, p), (0x15, 1, b2n c.unclean), (0x18, 4, c.discarded), (0x1C, 4, c.reerased), (0x20, 4, media.elapsedMs)]
  else s

def execCadastreMount (plat : Nat) (media : MountMedia) (s : State) : Host.Outcome State Fault Refusal :=
  .next (cadastreMount s plat media)

end Sys2Proof.Machine
end

