-- ==== Sys2Proof/Machine/Objects.lean ====
section
/-!
DEFINITION. Placement Objects (R309 to R331, R350): creation and destruction, OBJECT_WRITE and OBJECT_READ, grants, claims
and the move engine, flushes.
The model's own: log 31 (DEDUCED).
-/
namespace Sys2Proof.Machine
open Sys2Proof

/-! ### Units (R316, Table 9.3) -/

def near4k (n : Nat) : Nat := ceilDiv n 4096

def mainPages (n : Nat) : Nat := ceilDiv n 65536

def archPages (n : Nat) : Nat := ceilDiv n pageSize

/-- Units of tier `t` that an object of length `n` needs. -/
def unitsOf (t : Tier) (n : Nat) : Nat :=
  match t with
  | .near => near4k n
  | .main => mainPages n
  | .archive => archPages n

/-- An object holds or reserves units of a tier: its REST, its present copy, its claims, the copy under way. -/
def holdsUnits (s : State) (k : Nat) (o : Obj) (t : Tier) : Bool := occupies o t || (moveOf s k o).any fun m => m.dest == t

/-- Units of a tier that objects other than `k` hold on the home Plat of `o`, on its site for the Near tier. -/
def unitsUsed (s : State) (k : Nat) (o : Obj) (t : Tier) : Nat :=
  ((s.objs.filter fun e => e.1 != k && e.2.home == o.home && holdsUnits s e.1 e.2 t && (decide (t ≠ .near) || sameSite e.2 o)).map
    fun e => unitsOf t e.2.length).foldl (· + ·) 0

/-- A tier of the home Plat has the units that an object needs there. -/
def hasUnits (s : State) (k : Nat) (o : Obj) (t : Tier) : Bool :=
  decide (unitsUsed s k o t + unitsOf t o.length ≤ tierUnits o.site t)

/-! ### Archive pages -/

/-- Logical pages of a Plat that objects, persistent objects or a TRIM under way still hold. -/
def lpnsUsed (s : State) (p : Nat) : List Nat :=
  (s.objs.flatMap fun e => if e.2.home = p then e.2.lpns else []) ++ (cadOf s p).persist.flatMap (·.lpns) ++
  (cadOf s p).groups.flatMap fun g => match g.use with
    | .trim l _ => l
    | _ => []

/-- `n` logical pages that nothing holds: past every page in use while they fit there, else the lowest. -/
def allocLpns (used : List Nat) (n : Nat) : List Nat :=
  let start := if used.isEmpty then 0 else used.foldl max 0 + 1
  if start + n ≤ 25165824 then (List.range n).map (start + ·)
  else ((List.range 25165824).filter fun i => !used.contains i).take n

/-! ### Survey Address space (R309) -/

/-- A range of the Survey Address space overlaps no object's. -/
def baseFree (s : State) (c base span : Nat) : Bool :=
  decide (base + span ≤ 2 ^ 48) &&
  s.objs.all fun e => e.2.ctx != c || decide (e.2.base + ceilDiv e.2.length 65536 * 65536 ≤ base) || decide (base + span ≤ e.2.base)

/-- A base for a new object: the device's own choice, so a free value that R309 bounds; where the value drawn does not fit, the
lowest place that does (log 10). -/
def pickBase (s : State) (c span : Nat) : Option Nat :=
  let drawn := Config.freeNat s.free % 4294967296 * 65536
  let ends := (s.objs.filter fun e => e.2.ctx == c).map fun e => e.2.base + ceilDiv e.2.length 65536 * 65536
  (drawn :: sortBy (fun a b => decide (a < b)) (0 :: ends)).find? fun b => baseFree s c b span

/-! ### Surveyor windows (R312, R313, Table 9.1) -/

/-- The logical Station that a Near-window range lies in belongs to the context's Crew. -/
def ownStation (s : State) (c p : Nat) : Option Nat → Bool
  | none => true
  | some st => ((ctxOf s c).map fun x => x.crew.any fun k => k.plat == p && k.stn == some st).getD false

/-- The site of an object is Station `st` of a Plat, or the Plat Store. -/
def siteIs (s : State) (o : Obj) (p : Nat) (st : Option Nat) : Bool :=
  match o.site, st with
  | none, none => true
  | some i, some n => (((ctxOf s o.ctx).bind fun x => x.crew[i]?).map fun q => q.plat == p && q.stn == some n).getD false
  | _, _ => false

/-- The contexts whose objects a window range overlaps: other Surveyor placements, the locations of units that the device placed, and, in
the Archive window, every object that holds one of its logical pages, but for the persistent object that it attaches (code 64: a
persistent object of no context). -/
def windowOverlap (s : State) (b : CreateBody) (t : Tier) (p : Nat) (st : Option Nat) (off : Nat) (lpns : List Nat) : List Nat :=
  let g := unitBytes t
  let placed (o : Obj) : Bool := o.window.isNone && (decide (t ≠ .near) || siteIs s o p st) &&
    o.locs.any fun e => e.1 / 4294967296 == tierNum t && decide (off ≤ e.2 * g) && decide (e.2 * g < off + b.length)
  (s.objs.filter fun e =>
    (e.2.window.any fun w => decide (w < b.window + b.length) && decide (b.window < w + e.2.length)) ||
    (e.2.home == p && (placed e.2 || lpns.any e.2.lpns.contains))).map (·.2.ctx) ++
  (if (cadOf s p).persist.any fun o => !(b.attach && o.key == b.holding && o.name == b.name) && lpns.any o.lpns.contains then [64] else [])

/-- The persistent object of a Holding with a name, on a Plat. -/
def persistent (s : State) (p hd name : Nat) : Option PObj :=
  (cadOf s p).persist.find? fun o => o.key == hd && o.name == name

/-- The logical pages that an Archive-window placement names. -/
def windowPages (b : CreateBody) (off : Nat) : List Nat := (List.range (archPages b.length)).map (off / pageSize + ·)

/-- The checks of R313 on a placement: 0, CONFIG_REFUSED or ACCESS_DENIED. A persistent object is attached at its own pages (log 31). -/
def physCheck (s : State) (c : Nat) (b : CreateBody) : Nat :=
  match windowRow b.window b.length with
  | none => CONFIG_REFUSED
  | some (t, p, st, off) =>
    let g := unitBytes t
    let lpns := if t = .archive then windowPages b off else []
    let over_ := windowOverlap s b t p st off lpns
    let own := !b.attach || ((persistent s b.home b.holding b.name).map fun q => decide (q.lpns = lpns)).getD true
    if tierNum t ≠ b.rest ∨ p ≠ b.home ∨ b.window % g ≠ 0 ∨ b.length % g ≠ 0 ∨ !ownStation s c p st ∨ !own then CONFIG_REFUSED
    else if over_.any (· != c) then ACCESS_DENIED
    else if over_.isEmpty then 0 else CONFIG_REFUSED

/-! ### OBJECT_CREATE (R318) -/

/-- Crew index `i` is mapped and on Plat `p`. -/
def siteOk (s : State) (c p i : Nat) : Bool := i == 0xFFFF || (crewSlot s c i).any fun k => k.plat == p && k.stn.isSome

/-- The Holding of a handle is attached to the context. -/
def holds (s : State) (c hd : Nat) : Bool := (tget s.mon.holdings hd).any fun x => x.ctx == some c

/-- OBJECT_CREATE's checks in the order of Table 9.6. -/
def createCheck (s : State) (c : Nat) (x : Ctx) (b : CreateBody) : Nat :=
  let near := if b.site = 0xFFFF then 16777216 else 524288
  let named := (List.range (nPlats s)).any fun p => (persistent s p b.holding b.name).isSome
  let bound := s.objs.any fun e => e.2.key == some b.holding && e.2.name == some b.name
  firstFail [
    need (idFree s c b.id) CONFIG_REFUSED,
    need ((!b.phys || x.surveyor) && (!(b.persist || b.attach) || holds s c b.holding)) ACCESS_DENIED,
    need (decide (1 ≤ b.length ∧ b.length ≤ 274877906944 ∧ 1 ≤ b.rest ∧ b.rest ≤ 3 ∧ b.home < nPlats s) &&
      (b.phys || siteOk s c b.home b.site) && (decide (b.rest ≠ 1) || b.phys || decide (b.length ≤ near)) &&
      (!(b.persist || b.attach) || b.rest == 3) && !(b.persist && b.attach) && !(b.persist && (named || bound)) &&
      (!x.surveyor || b.phys || b.attach)) CONFIG_REFUSED,
    if b.phys then physCheck s c b else 0,
    need (ready s b.home && (decide (b.rest ≠ 3) || mounted s b.home)) NOT_READY,
    need (!b.attach || ((persistent s b.home b.holding b.name).isSome && !bound)) CONFIG_REFUSED]

/-- The REST tier of the home Plat has the units of a new object: in the Archive tier, logical pages that nothing holds
(R316, R318), while its free pool is not low (R346). -/
def restRoom (s : State) (k : Nat) (o : Obj) : Bool :=
  if o.rest = .archive then
    decide ((lpnsUsed s o.home).eraseDups.length + archPages o.length ≤ 25165824) && !(cadOf s o.home).wear
  else hasUnits s k o o.rest

/-- The Archive-window address of pages that follow one another. -/
def pagesWindow (p : Nat) (lpns : List Nat) : Option Nat :=
  match lpns with
  | [] => none
  | n :: _ => if lpns = (List.range lpns.length).map (n + ·) then some (0x100000000000 + p * 0x8000000000 + n * pageSize) else none

/-- The window address of a new object of a Surveyor: the one it names, or that of the pages it attaches (R312; log 31). -/
def createdWindow (s : State) (x : Ctx) (b : CreateBody) : Option Nat :=
  if b.phys then some b.window
  else if x.surveyor && b.attach then (persistent s b.home b.holding b.name).bind fun q => pagesWindow b.home q.lpns
  else none

/-- The object that a create makes, without its base and pages. -/
def newObj (c : Nat) (x : Ctx) (b : CreateBody) (length : Nat) : Obj :=
  { ctx := c, id := b.id, length := length, home := b.home, rest := tierOf b.rest,
    site := if b.phys ∨ b.site = 0xFFFF then none else some b.site,
    key := if b.persist ∨ b.attach then some b.holding else none,
    serial := if b.persist ∨ b.attach then b.name else x.serials,
    name := if b.persist ∨ b.attach then some b.name else none, base := 0,
    window := none, present := tierOf b.rest }

/-- The site of a Surveyor's Near object in a Station: the Crew index of that Station. -/
def physSite (s : State) (c : Nat) (b : CreateBody) : Option Nat :=
  match windowRow b.window b.length with
  | some (.near, p, some st, _) =>
    (ctxOf s c).bind fun x => (enum x.crew).findSome? fun e => if e.2.plat = p ∧ e.2.stn = some st then some e.1 else none
  | _ => none

/-- The object of a create on its key, without its base and pages. -/
def createdObj (s : State) (c : Nat) (x : Ctx) (b : CreateBody) : Obj :=
  let o := newObj c x b (((if b.attach then persistent s b.home b.holding b.name else none).map (·.length)).getD b.length)
  { o with site := if b.phys then physSite s c b else o.site, window := createdWindow s x b }

/-- The base of a new object: its window address, or a free range of the Survey Address space. -/
def createdBase (s : State) (c : Nat) (o : Obj) : Option Nat :=
  o.window.orElse fun _ => pickBase s c (ceilDiv o.length 65536 * 65536)

/-- The limits of R314 and the units of the REST tier leave room for a new object; an attached one holds its pages already. An ordinary
object takes a serial, which is never used again under its key: a context that has used them all has no room (R332; log 31). -/
def createRoom (s : State) (c : Nat) (b : CreateBody) (o : Obj) : Bool :=
  (o.key.isSome || decide (o.serial < 4294967296)) && decide ((s.objs.filter fun e => e.2.ctx == c).length < 65536 ∧ s.objs.length < 262144) &&
    (b.attach || restRoom s (objKey c b.id) o)

/-- The Archive logical pages of a new object. -/
def createdLpns (s : State) (b : CreateBody) (o : Obj) : List Nat :=
  match (if b.attach then persistent s b.home b.holding b.name else none) with
  | some q => q.lpns
  | none =>
    if o.rest ≠ .archive then []
    else match (if b.phys then windowRow b.window b.length else none) with
      | some (.archive, _, _, off) => windowPages b off
      | _ => allocLpns (lpnsUsed s b.home) (archPages o.length)

/-- Enter a new object: its persistent entry or the serial it takes, then the object. -/
def enterObj (s : State) (c : Nat) (b : CreateBody) (o : Obj) (base : Nat) : State :=
  let lpns := createdLpns s b o
  let s := if b.persist then
      modCad s b.home fun q => { q with persist := q.persist ++ [{ key := b.holding, name := b.name, length := o.length, lpns := lpns }] }
    else s
  let s := if b.persist ∨ b.attach then s else modCtx s c fun x => { x with serials := x.serials + 1 }
  { s with objs := tput s.objs (objKey c b.id) { o with base := base, lpns := lpns }, free := s.free + 1 }

/-- Place a new object; RESOURCE_FULL where something of R318's last row lacks. -/
def placeNew (s : State) (c : Nat) (x : Ctx) (b : CreateBody) : CmdRes :=
  let o := createdObj s c x b
  match createdBase s c o with
  | none => .refuse s RESOURCE_FULL
  | some base => if createRoom s c b o then { st := enterObj s c b o base } else .refuse s RESOURCE_FULL

def objectCreate (h : CmdHdr) (b : CreateBody) (s : State) (x : Ctx) : CmdRes :=
  match createCheck s h.ctx x b with
  | 0 => placeNew s h.ctx x b
  | st => .refuse s st

def execObjectCreate (h : CmdHdr) (b : CreateBody) (s : State) : Host.Outcome State Fault Refusal :=
  .next (ctxCmd s (.objectCreate h b) h true (objectCreate h b))

/-! ### Moves (R323, R326 to R330) -/

/-- The tier that an object's moves lead to: its position, once its copies above are consistent. -/
def wanted (o : Obj) : Option Tier := if position o = o.present then none else some (position o)

/-- Units that a move copies: 16 KB pages from the Archive tier, dirty backing units down to REST (in groups of up to
16,384 pages to the Archive tier), else 4 KB units. -/
def moveTotal (o : Obj) (dest : Tier) : Nat :=
  if tierNum dest < tierNum o.present then
    if o.present = .archive then archPages o.length else near4k o.length
  else if dest = o.rest then
    if dest = .archive then ceilDiv o.dirty.length 16384 else o.dirty.length
  else near4k o.length

/-- A running Leg names an object: its write lands in no copy that is about to be freed, and none is lost (R329). -/
def legHolds (s : State) (k : Nat) : Bool :=
  (allLegs s).any fun e => onEngine e.2.2 &&
    (e.2.1.desc :: e.2.1.ops.map (·.obj)).any fun i => ((resolve s e.1.ctx i).map (·.1)) == some k

/-- A queued move may be dropped: it has copied nothing and nothing is held for it; nor does a running Leg still write to what it
promotes (R329). -/
def idleMove (s : State) (k : Nat) (o : Obj) (m : Move) : Bool :=
  m.done == 0 && o.held.isEmpty && !(o.present == .archive && legHolds s k)

/-- Start, keep or drop an object's move for its present claims (R324, R325). -/
def replan (s : State) (k : Nat) : State :=
  match tget s.objs k with
  | none => s
  | some o =>
    let put (s : State) : State := match wanted o with
      | none => s
      | some t => modPlat s o.home fun p => { p with moves := p.moves ++ [{ obj := k, dest := t, total := moveTotal o t }] }
    match moveOf s k o with
    | none => put s
    | some m =>
      if some m.dest = wanted o ∨ !idleMove s k o m then s
      else put (modPlat s o.home fun p => { p with moves := p.moves.filter fun m => m.obj != k })

/-- Signal the DONE Stake of a claim, if it has one (R330). -/
def signalDone (s : State) (q : Claim) : State := signalOpt s q.ctx q.done 1

/-- Signal the claims of an object that its present copy meets, each once (R330). -/
def meetClaims (s : State) (k : Nat) : State :=
  match tget s.objs k with
  | none => s
  | some o =>
    let now (q : Claim) : Bool := !q.met && decide (tierNum o.present ≤ tierNum q.tier)
    let s := modObj s k fun o => { o with claims := o.claims.map fun q => if now q then { q with met := true } else q }
    (o.claims.filter now).foldl signalDone s

/-- Remove a context's claim: one not met yet signals its DONE Stake now (R330). -/
def dropClaim (s : State) (k c : Nat) : State :=
  match tget s.objs k with
  | none => s
  | some o =>
    let gone := o.claims.filter fun q => q.ctx == c
    let s := modObj s k fun o => { o with claims := o.claims.filter fun q => q.ctx != c }
    (gone.filter fun q => !q.met).foldl signalDone s

/-- The bytes of an object as the next commit group must see them: its present bytes, with every OBJECT_WRITE of it that is
not durable yet, in order (R327, R339). -/
def baseMem (s : State) (k : Nat) (o : Obj) : Mem :=
  (cadOf s o.home).groups.foldl (fun m g => match g.use with
    | .write _ _ _ k' _ off d => if k' = k then wrBytes m off d else m
    | _ => m) (objMem s k o)

/-- One Archive page of an object's bytes. -/
def pageOf (m : Mem) (i : Nat) : Mem :=
  (m.filter fun e => decide (i * pageSize ≤ e.1) && decide (e.1 < (i + 1) * pageSize)).map fun e => (e.1 - i * pageSize, e.2)

/-- Form the commit group of up to 16,384 dirty Archive pages of an object, lowest first; a lost page not wholly covered is
not written back (R319, R327). -/
def formWriteBack (s : State) (k : Nat) : State :=
  match tget s.objs k with
  | none => s
  | some o =>
    let l := (sortBy (fun a b => decide (a < b)) o.dirty).take 16384
    let go := l.filterMap fun i => (o.lpns[i]?).bind fun n => if pageLost s o i then none else some (i, n)
    let m := baseMem s k o
    let pages := go.map fun e => ({ lpn := e.2, key := o.key.getD 0xFFFF, relocated := false, data := pageOf m e.1 } : GPage)
    let clears := (go.map (·.2)).filter (cadOf s o.home).lost.contains
    let s := modObj s k fun o => { o with dirty := o.dirty.filter fun i => !l.contains i }
    if pages.isEmpty then s else newGroup s o.home pages (.writeBack k) clears

/-- Write one dirty Main unit of an object back to its backing copy (R326, R327). -/
def backUnitTo (o : Obj) (u : Nat) : Obj :=
  let n := backUnit o
  { o with back := wrBytes o.back (u * n) (rdBytes o.mem (u * n) n) }

/-- The copy of one unit of the move at the head of a Plat's engine ends (R327, R329): a page read from the Archive tier lands
in the faster copy and takes the writes held for it; a unit on its way down is written back. -/
def moveUnitCopied (s : State) (p : Nat) : State :=
  match (platOf s p).moves with
  | [] => s
  | m :: r =>
    match tget s.objs m.obj with
    | none => s
    | some o =>
      if ready s p ∧ m.done < m.total ∧ (o.present ≠ .archive ∨ mounted s p) then
        let s' := modPlat s p fun x => { x with moves := { m with done := m.done + 1 } :: r }
        if o.present = .archive ∧ m.dest ≠ .archive then
          let lpn := o.lpns.getD m.done 0
          modObj s' m.obj fun o =>
            let page := shiftMem (pageMem (cadOf s p) lpn) (m.done * pageSize)
            let mem := (o.mem.filter fun e => decide (e.1 < m.done * pageSize)) ++ page
            let mine := o.held.filter fun w => w.1 / pageSize == m.done
            locate s m.obj m.dest (m.done * pageSize) (pageBytes o m.done)
              { o with mem := mine.foldl (fun a w => wrBytes a w.1 w.2) mem, held := o.held.filter fun w => w.1 / pageSize != m.done }
        else if m.dest = o.rest then
          if m.dest = .archive then formWriteBack s' m.obj
          else modObj s' m.obj fun o =>
            let l := sortBy (fun a b => decide (a < b)) o.dirty
            { (l.take 1).foldl backUnitTo o with dirty := l.drop 1 }
        else modObj s' m.obj (locate s m.obj m.dest (m.done * 4096) (min 4096 (o.length - m.done * 4096)))
      else s

def execMoveUnitCopied (plat : Nat) (s : State) : Host.Outcome State Fault Refusal := .next (moveUnitCopied s plat)

/-- A move ends: the object lies at its destination; a copy between it and REST is freed, as are the faster units of an
object come to REST (R326, R327); claims met are signalled, and what later claims ask for is started. Units dirtied
meanwhile go down first. -/
def moveComplete (s : State) (p : Nat) : State :=
  match (platOf s p).moves with
  | [] => s
  | m :: r =>
    match tget s.objs m.obj with
    | none => modPlat s p fun x => { x with moves := r }
    | some o =>
      if !ready s p || decide (m.done < m.total) then s
      else if m.dest = o.rest ∧ !o.dirty.isEmpty then
        modPlat s p fun x => { x with moves := { m with total := m.done + moveTotal o m.dest } :: r }
      else if m.dest = o.rest ∧ writingBack s p m.obj then s
      else if m.dest = .archive ∧ legHolds s m.obj then s
      else
        let s := modPlat s p fun x => { x with moves := r }
        let s := modObj s m.obj fun o =>
          let locs := o.locs.filter fun e => e.1 / 4294967296 == tierNum m.dest || e.1 / 4294967296 == tierNum o.rest
          if m.dest = .archive then { o with present := .archive, mem := [], held := [], cover := [], locs := locs }
          else { o with present := m.dest, mem := if m.dest = .main ∧ o.rest = .main then o.back else o.mem, locs := locs }
        replan (meetClaims s m.obj) m.obj

def execMoveComplete (plat : Nat) (s : State) : Host.Outcome State Fault Refusal := .next (moveComplete s plat)

/-- Units of an object that are still to move to a tier: those its move under way has not copied, or all where none leads there
(R330, R350). -/
def unitsLeft (s : State) (k : Nat) (o : Obj) (t : Tier) : Nat :=
  match moveOf s k o with
  | some m => if tierNum m.dest ≤ tierNum t then m.total - m.done else moveTotal o t
  | none => moveTotal o t

/-- A claim whose BY passes before its position is reached: PLACE_LATE, once (R330). -/
def placeLate (s : State) (c id : Nat) : State :=
  match resolve s c id with
  | none => s
  | some (k, _) =>
    match tget s.objs k with
    | none => s
    | some o =>
      match o.claims.find? fun q => q.ctx == c with
      | none => s
      | some q =>
        if q.byTime ≠ 0 ∧ q.byTime ≤ s.sup.now ∧ ¬ q.met ∧ ¬ q.late then
          let left := unitsLeft s k o q.tier
          let s := modObj s k fun o => { o with claims := o.claims.map fun q => if q.ctx = c then { q with late := true } else q }
          event s c 0x0200 0 [(0x10, 4, nameFor s c k), (0x14, 1, tierNum q.tier), (0x18, 8, q.byTime), (0x20, 4, left)]
        else s

def execPlaceLate (ctx id : Nat) (s : State) : Host.Outcome State Fault Refusal := .next (placeLate s ctx id)

/-! ### Naming an object in a command -/

/-- A command on an object that needs a right: what it names, or ACCESS_DENIED (Table 2.19, R321). -/
def cmdObj (s : State) (c id right : Nat) : Except Nat (Nat × Obj) :=
  match resolve s c id with
  | none => .error ACCESS_DENIED
  | some (k, r) =>
    match tget s.objs k with
    | none => .error ACCESS_DENIED
    | some o => if right = 3 ∨ hasRight r right then .ok (k, o) else .error ACCESS_DENIED

/-- An object that the context owns: CONFIG_REFUSED for an ID not in use, ACCESS_DENIED for a grant slot (R322). -/
def ownObj (s : State) (c id : Nat) : Except Nat (Nat × Obj) :=
  if 0xFFFFFF00 ≤ id then .error ACCESS_DENIED
  else match objOf s c id with
    | none => .error CONFIG_REFUSED
    | some o => .ok (objKey c id, o)

/-- The object's Plat serves it, and its Archive copy where the command needs that (R344, R424). -/
def reachable (s : State) (o : Obj) : Bool := ready s o.home && (decide (position o ≠ .archive) || mounted s o.home)

/-! ### PLACE and EVICT (R324, R325) -/

/-- An object of a Surveyor context, which no claim moves (R312). -/
def ofSurveyor (s : State) (o : Obj) : Bool := o.window.isSome || ((ctxOf s o.ctx).map (·.surveyor)).getD false

/-- The status of a PLACE on object `k`, in the order of R324. -/
def placeStatus (s : State) (x : Ctx) (k : Nat) (o : Obj) (right : Bool) (tier done : Nat) : Nat :=
  firstFail [
    need (!ofSurveyor s o && decide (1 ≤ tier ∧ tier ≤ 2 ∧ tier < tierNum o.rest)) CONFIG_REFUSED,
    if done = 0xFFFF then 0 else refField x done,
    need right ACCESS_DENIED, if done = 0xFFFF then 0 else refRight x done true,
    need (ready s o.home && (decide (o.rest ≠ .archive) || mounted s o.home)) NOT_READY,
    need (hasUnits s k o (tierOf tier)) RESOURCE_FULL]

/-- Record a context's claim in place of its earlier one, and start what it asks for (R323, R324). -/
def claimObj (s : State) (c k tier byTime done : Nat) : State :=
  let s := modObj (dropClaim s k c) k fun o =>
    { o with claims := o.claims ++ [{ ctx := c, tier := tierOf tier, byTime := byTime, done := done }] }
  replan (meetClaims s k) k

/-- PLACE, in the order of R324. -/
def place (h : CmdHdr) (id tier byTime done : Nat) (s : State) (x : Ctx) : CmdRes :=
  match cmdObj s h.ctx id 3 with
  | .error st => .refuse s st
  | .ok (k, o) =>
    let right := ((resolve s h.ctx id).map fun e => hasRight e.2 2).getD false
    match placeStatus s x k o right tier done with
    | 0 => { st := claimObj s h.ctx k tier byTime done }
    | st => .refuse s st

def execPlace (h : CmdHdr) (id tier byTime done : Nat) (s : State) : Host.Outcome State Fault Refusal :=
  .next (ctxCmd s (.place h id tier byTime done) h true (place h id tier byTime done))

/-- EVICT removes the context's own claim, if it has one. -/
def evict (h : CmdHdr) (id : Nat) (s : State) (_ : Ctx) : CmdRes :=
  match cmdObj s h.ctx id 3 with
  | .error st => .refuse s st
  | .ok (k, o) => if !ready s o.home then .refuse s NOT_READY else { st := replan (dropClaim s k h.ctx) k }

def execEvict (h : CmdHdr) (id : Nat) (s : State) : Host.Outcome State Fault Refusal := .next (ctxCmd s (.evict h id) h true (evict h id))

/-! ### OBJECT_WRITE, OBJECT_READ, OBJECT_FLUSH (R319, R327) -/

/-- The checks that both copies share: the right, the range, readiness. -/
def copyCheck (s : State) (c id off len right : Nat) : Except Nat (Nat × Obj) :=
  match cmdObj s c id right with
  | .error st => .error st
  | .ok (k, o) =>
    if len = 0 ∨ 268435456 < len ∨ o.length < off + len then .error CONFIG_REFUSED
    else if !reachable s o then .error NOT_READY
    else .ok (k, o)

/-- An OBJECT_WRITE at an Archive REST: one commit group of its pages, each merged with the rest of its bytes; lost pages that
it covers only in part stay as they are (R319, R337, R339). -/
def archiveWrite (s : State) (h : CmdHdr) (k : Nat) (o : Obj) (off : Nat) (d : Bytes) : CmdRes :=
  let parts := (cut (d.length / pageSize + 1) pageSize off d).filterMap fun w =>
    (o.lpns[w.1 / pageSize]?).map fun n => (w.1 / pageSize, n, w.1 % pageSize, w.2)
  let lost (n : Nat) : Bool := (cadOf s o.home).lost.contains n
  let whole (e : Nat × Nat × Nat × Bytes) : Bool := e.2.2.2.length == pageBytes o e.1
  let go := parts.filter fun e => !lost e.2.1 || whole e
  let m := baseMem s k o
  let pages := go.map fun e =>
    ({ lpn := e.2.1, key := o.key.getD 0xFFFF, relocated := false, data := wrBytes (pageOf m e.1) e.2.2.1 e.2.2.2 } : GPage)
  let partialLost := go.length != parts.length
  if pages.isEmpty then .refuse s INTEGRITY
  else if !canTake (cadOf s o.home) pages.length then .refuse s RESOURCE_FULL
  else
    let kept := go.foldl (fun m e => wrBytes m (e.1 * pageSize + e.2.2.1) e.2.2.2) (objMem s k o)
    let data := rdBytes kept off d.length
    let took := o.dirty.filter (go.map (·.1)).contains
    let s := newGroup s o.home pages (.write h.ctx h.tag h.flags k partialLost off data) ((go.map (·.2.1)).filter lost) took
    let s := modObj s k fun o => { o with dirty := o.dirty.filter fun i => !took.contains i }
    later s h.ctx (.archive h.tag h.flags)

def objectWrite (h : CmdHdr) (id off len : Nat) (data : Option Bytes) (s : State) (_ : Ctx) : CmdRes :=
  match copyCheck s h.ctx id off len 1 with
  | .error st => .refuse s st
  | .ok (k, o) =>
    match data with
    | none => .refuse s INTEGRITY
    | some d =>
      let d := (d ++ List.replicate len 0).take len
      if inArchive o then archiveWrite s h k o off d
      else { st := wrObj s k off d, result := tierServing s k o off len }

/-- An Archive write waits while its Plat is quiesced (R342). -/
def writeHeld (s : State) (c id : Nat) : Bool :=
  match objNamed s c id with
  | some (_, o) => inArchive o && quiescing s o.home
  | none => false

def execObjectWrite (h : CmdHdr) (id offset address length : Nat) (data : Option Bytes) (s : State) :
    Host.Outcome State Fault Refusal :=
  .next (if writeHeld s h.ctx id || hostHeld s h.ctx then s
    else
      let go := match ctxOf s h.ctx with
        | some x => takes s x && !terminal s && (copyCheck s h.ctx id offset length 1).toOption.isSome
        | none => false
      let s := match go, ctxOf s h.ctx with
        | true, some x => askHost s x.port (.vf x.vf) address length
        | _, _ => s
      ctxCmd s (.objectWrite h id offset address length data) h false (objectWrite h id offset length data))

/-- OBJECT_READ: every byte of the range but those of lost pages goes to host memory (R319). -/
def objectRead (h : CmdHdr) (id off address len : Nat) (s : State) (x : Ctx) : CmdRes :=
  match copyCheck s h.ctx id off len 0 with
  | .error st => .refuse s st
  | .ok (k, o) =>
    let b := rdBytes (objMem s k o) off len
    let parts := (cut (len / pageSize + 1) pageSize off b).filter fun w => !pageLost s o (w.1 / pageSize)
    let s' := parts.foldl (fun s w => postData s x.port (.vf x.vf) (address + (w.1 - off)) w.2) s
    { st := s', status := if rangeLost s o off len then INTEGRITY else 0, result := tierServing s k o off len }

def execObjectRead (h : CmdHdr) (id offset address length : Nat) (s : State) : Host.Outcome State Fault Refusal :=
  .next (ctxCmd s (.objectRead h id offset address length) h false (objectRead h id offset address length))

/-- Form every write-back group of an object's dirty pages; the first argument bounds them. -/
def flushGroups : Nat → State → Nat → State
  | 0, s, _ => s
  | n + 1, s, k =>
    match tget s.objs k with
    | none => s
    | some o => if o.dirty.isEmpty then s else flushGroups n (formWriteBack s k) k

/-- OBJECT_FLUSH writes the dirty units back without a move; to the Archive tier it completes with its last group. -/
def objectFlush (h : CmdHdr) (id : Nat) (s : State) (_ : Ctx) : CmdRes :=
  match cmdObj s h.ctx id 1 with
  | .error st => .refuse s st
  | .ok (k, o) =>
    if !(ready s o.home && (decide (o.rest ≠ .archive) || mounted s o.home)) then .refuse s NOT_READY
    else if o.rest ≠ .archive then { st := modObj s k fun o => { o.dirty.foldl backUnitTo o with dirty := [] } }
    else if !canTake (cadOf s o.home) o.dirty.length then .refuse s RESOURCE_FULL
    else
      let s := flushGroups (o.dirty.length / 16384 + 1) s k
      if writingBack s o.home k then later s h.ctx (.flush k h.tag h.flags) else { st := s }

def execObjectFlush (h : CmdHdr) (id : Nat) (s : State) : Host.Outcome State Fault Refusal :=
  .next (ctxCmd s (.objectFlush h id) h false (objectFlush h id))

/-! ### Grants (R321, R322) -/

/-- The slot by which a context holds a grant of an object. -/
def objSlot (o : Obj) (c : Nat) : Option Nat := (o.grants.find? fun g => g.ctx == c).map (·.slot)

/-- The lowest free object grant slot of a context. -/
def freeSlot (s : State) (c : Nat) : Option Nat :=
  let used := s.objs.flatMap fun e => (e.2.grants.filter fun g => g.ctx == c).map (·.slot)
  (List.range 256).find? fun i => !used.contains i

/-- The commit groups of an object that are left are formed again from the bytes that remain: a group whose pages change is programmed anew
(R322, R339). The first argument holds the object's bytes before each group. -/
def reform (o : Obj) (k : Nat) : Mem → List Group → List Group
  | _, [] => []
  | m, g :: r =>
    let again (m : Mem) : Group :=
      let pages := g.pages.map fun q => { q with data := ((o.lpns.findIdx? (· == q.lpn)).map (pageOf m)).getD q.data }
      if pages = g.pages then g else { g with pages := pages, ppns := [], firstSeq := 0 }
    match g.use with
    | .write _ _ _ k' _ off d => if k' = k then let m := wrBytes m off d; again m :: reform o k m r else g :: reform o k m r
    | .writeBack k' => (if k' = k then again m else g) :: reform o k m r
    | _ => g :: reform o k m r

/-- Take groups of a Plat back before they are durable: their bytes leave the groups behind them, and the dirty marks that they had taken
over are marks again (R322, R327). -/
def takeBack (s : State) (p k : Nat) (mine : Group → Bool) : State :=
  let gone := (cadOf s p).groups.filter mine
  let s := modCad s p fun x => { x with groups := x.groups.filter fun g => !mine g }
  match tget s.objs k with
  | none => s
  | some o =>
    let back := (gone.flatMap (·.took)).filter fun i => !o.dirty.contains i
    let s := modObj s k fun o => { o with dirty := o.dirty ++ back }
    if gone.isEmpty then s else modCad s p fun x => { x with groups := reform o k (objMem s k o) x.groups }

/-- The groups of an Archive write of context `c` into an object are taken back, and the write completes ACCESS_DENIED; so
does a flush under way (R322). -/
def cancelWrites (s : State) (p k c : Nat) : State :=
  match (ctxOf s c).bind (·.busy) with
  | some (.archive tag flags) =>
    let mine (g : Group) : Bool := match g.use with
      | .write c' _ _ k' _ _ _ => c' == c && k' == k
      | _ => false
    if (cadOf s p).groups.any mine then finishBusy (takeBack s p k mine) c tag flags 0xFFFF ACCESS_DENIED 0 else s
  | some (.flush o tag flags) => if o = k then finishBusy s c tag flags 0xFFFF ACCESS_DENIED 0 else s
  | _ => s

/-- Keep an object as it stands for the Legs of some contexts that are on their engines (R322). -/
def snapFor (s : State) (k : Nat) (cs : List Nat) : State :=
  match tget s.objs k with
  | none => s
  | some o =>
    let legs := ((allLegs s).filter fun e => onEngine e.2.2 && cs.contains e.1.ctx).map (·.1)
    let lost := (List.range (archPages o.length)).filter (pageLost s o)
    if legs.isEmpty then s
    else { s with snaps := s.snaps ++ [{ key := k, obj := { o with mem := objMem s k o, held := [], still := some lost }, legs := legs }] }

def objectGrant (h : CmdHdr) (id grantee rights : Nat) (s : State) (_ : Ctx) : CmdRes :=
  match objNamed s h.ctx id with
  | none => .refuse s CONFIG_REFUSED
  | some (k, o) =>
    let r := rights % 8
    if 63 < grantee ∨ (ctxOf s grantee).isNone ∨ grantee = h.ctx ∨ r = 0 then .refuse s CONFIG_REFUSED
    else if 0xFFFFFF00 ≤ id then .refuse s ACCESS_DENIED
    else if !ready s o.home then .refuse s NOT_READY
    else
      let tell (s : State) (g : Nat) : State :=
        event s grantee 0x0201 0 [(0x10, 4, 0xFFFFFF00 + g), (0x14, 1, g), (0x15, 1, h.ctx), (0x16, 1, r), (0x18, 8, o.length)]
      match objSlot o grantee with
      | some g =>
        let had := ((o.grants.find? fun e => e.ctx == grantee).map (·.rights)).getD 0
        let s := if hasRight had 1 && !hasRight r 1 then cancelWrites (snapFor s k [grantee]) o.home k grantee else s
        let s := modObj s k fun o => { o with grants := o.grants.map fun e => if e.ctx = grantee then { e with rights := r } else e }
        let s := if hasRight r 2 then s else replan (dropClaim s k grantee) k
        { st := tell s g }
      | none =>
        match freeSlot s grantee with
        | none => .refuse s RESOURCE_FULL
        | some g => { st := tell (modObj s k fun o => { o with grants := o.grants ++ [⟨grantee, g, r⟩] }) g }

def execObjectGrant (h : CmdHdr) (id grantee rights : Nat) (s : State) : Host.Outcome State Fault Refusal :=
  .next (ctxCmd s (.objectGrant h id grantee rights) h true (objectGrant h id grantee rights))

/-- End a context's grant of an object: its claim and slot go, and it receives OBJECT_REVOKED with a cause (R322, R350). -/
def revokeObj (s : State) (k c cause : Nat) : State :=
  match tget s.objs k with
  | none => s
  | some o =>
    match objSlot o c with
    | none => s
    | some g =>
      let s := cancelWrites (dropClaim (snapFor s k [c]) k c) o.home k c
      let s := modObj s k fun o => { o with grants := o.grants.filter fun e => e.ctx != c }
      event s c 0x0202 ACCESS_DENIED [(0x10, 4, 0xFFFFFF00 + g), (0x14, 1, g), (0x15, 1, cause)]

def objectRevoke (h : CmdHdr) (id grantee : Nat) (s : State) (_ : Ctx) : CmdRes :=
  match ownObj s h.ctx id with
  | .error st => .refuse s st
  | .ok (k, o) =>
    if 63 < grantee then .refuse s CONFIG_REFUSED
    else if !ready s o.home then .refuse s NOT_READY
    else { st := replan (revokeObj s k grantee 0) k }

def execObjectRevoke (h : CmdHdr) (id grantee : Nat) (s : State) : Host.Outcome State Fault Refusal :=
  .next (ctxCmd s (.objectRevoke h id grantee) h true (objectRevoke h id grantee))

/-! ### OBJECT_DESTROY (R322, R341) -/

/-- No object's key: the write-back of a persistent object that has left its context (R322). -/
def goneKey : Nat := 2 ^ 48

/-- A persistent object leaves its context: its claims end, so its dirty units are written back (R322, R327). -/
def leaveBehind (s : State) (k : Nat) (o : Obj) : State :=
  modCad (flushGroups (o.dirty.length / 16384 + 1) s k) o.home fun c =>
    { c with groups := c.groups.map fun g => match g.use with
        | .writeBack k' => if k' = k then { g with use := .writeBack goneKey } else g
        | _ => g }

/-- Take an object away: grants revoked with a cause, claims removed, units freed; the pages of an Archive object are
trimmed in one commit group, unless a persistent object keeps them; no lost mark outlives the object. -/
def removeObj (s : State) (k cause : Nat) (keep : Bool) : State :=
  match tget s.objs k with
  | none => s
  | some o =>
    let s := (o.grants.map (·.ctx)).foldl (fun s c => revokeObj s k c cause) s
    let s := dropClaim (snapFor s k [o.ctx]) k o.ctx
    let s := cancelWrites s o.home k o.ctx
    let s := modPlat s o.home fun p => { p with moves := p.moves.filter fun m => m.obj != k }
    let mine (g : Group) : Bool := match g.use with
      | .writeBack k' => k' == k
      | _ => false
    let s := if keep then leaveBehind s k o else modCad s o.home fun c =>
      { c with groups := c.groups.filter fun g => !mine g,
               persist := match o.key, o.name with
                 | some hd, some n => c.persist.filter fun q => !(q.key == hd && q.name == n)
                 | _, _ => c.persist }
    let s := { s with objs := tdel s.objs k }
    if keep || o.lpns.isEmpty then s
    else
      let s := modCad s o.home fun c => { c with lost := c.lost.filter fun l => !o.lpns.contains l }
      newGroup s o.home [] (.trim o.lpns (o.key.getD 0xFFFF)) []

def objectDestroy (h : CmdHdr) (id : Nat) (s : State) (_ : Ctx) : CmdRes :=
  match ownObj s h.ctx id with
  | .error st => .refuse s st
  | .ok (k, o) => if !reachable s o then .refuse s NOT_READY else { st := removeObj s k 1 false }

def execObjectDestroy (h : CmdHdr) (id : Nat) (s : State) : Host.Outcome State Fault Refusal :=
  .next (ctxCmd s (.objectDestroy h id) h true (objectDestroy h id))

/-! ### OBJECT_QUERY (Table 9.5) -/

def objectQuery (h : CmdHdr) (id : Nat) (s : State) (_ : Ctx) : CmdRes :=
  match cmdObj s h.ctx id 3 with
  | .error st => .refuse s st
  | .ok (k, o) =>
    if !ready s o.home then .refuse s NOT_READY
    else
      { st := s,
        result := tierNum o.present + 4 * tierNum o.rest + 16 * b2n (moveOf s k o).isSome + 32 * b2n (!o.dirty.isEmpty) +
          256 * (o.claims.length % 256) + 65536 * (o.home % 16) + 1048576 * bits o.base 27 16 }

def execObjectQuery (h : CmdHdr) (id : Nat) (s : State) : Host.Outcome State Fault Refusal :=
  .next (ctxCmd s (.objectQuery h id) h false (objectQuery h id))

end Sys2Proof.Machine
end

