-- ==== Sys2Proof/Machine/StakeCmds.lean ====
section
/-!
DEFINITION. The Stake commands and the Marks: STAKE_SET, STAKE_ADD, STAKE_READ (R86 rule 8, R471), STAKE_GRANT,
STAKE_REVOKE (R88), MARK, MARK_COMPLETION, FLUSH_READ_RETURN (R104).
The model's own: log 22 (DEDUCED).
-/
namespace Sys2Proof.Machine
open Sys2Proof

/-- The Stake that a command's reference names, or the status R471 refuses it with. -/
def cmdStake (s : State) (x : Ctx) (c ref : Nat) (sig : Bool) : Except Nat StakeId :=
  match firstFail [refField x ref, refRight x ref sig] with
  | 0 => match stakeRef s c none ref sig with
    | some id => .ok id
    | none => .error CONFIG_REFUSED
  | st => .error st

def stakeSet (h : CmdHdr) (ref value : Nat) (s : State) (x : Ctx) : CmdRes :=
  match cmdStake s x h.ctx ref true with
  | .ok id => { st := rescan (stakePut s (value % 4294967296) id) }
  | .error st => .refuse s st

def execStakeSet (h : CmdHdr) (ref value : Nat) (s : State) : Host.Outcome State Fault Refusal :=
  .next (ctxCmd s (.stakeSet h ref value) h true (stakeSet h ref value))

def stakeAddCmd (h : CmdHdr) (ref amount : Nat) (s : State) (x : Ctx) : CmdRes :=
  match cmdStake s x h.ctx ref true with
  | .ok id => { st := rescan (stakeAdd s id amount) }
  | .error st => .refuse s st

def execStakeAdd (h : CmdHdr) (ref amount : Nat) (s : State) : Host.Outcome State Fault Refusal :=
  .next (ctxCmd s (.stakeAdd h ref amount) h true (stakeAddCmd h ref amount))

def stakeRead (h : CmdHdr) (ref : Nat) (s : State) (x : Ctx) : CmdRes :=
  match cmdStake s x h.ctx ref false with
  | .ok id => { st := s, result := stakeVal s id }
  | .error st => .refuse s st

def execStakeRead (h : CmdHdr) (ref : Nat) (s : State) : Host.Outcome State Fault Refusal :=
  .next (ctxCmd s (.stakeRead h ref) h false (stakeRead h ref))

/-- The slot by which a context holds a grant of a Stake. -/
def grantSlot (y : Ctx) (c n : Nat) : Option Nat :=
  (y.grants.find? fun e => e.2.ctx == c && e.2.stake == n).map (·.1)

/-- STAKE_GRANT's checks and effect, in the order of R88. -/
def stakeGrant (h : CmdHdr) (stake grantee rights : Nat) (s : State) (x : Ctx) : CmdRes :=
  match ctxOf s grantee with
  | none => .refuse s CONFIG_REFUSED
  | some y =>
    if x.stakes.length ≤ stake ∨ 63 < grantee ∨ grantee = h.ctx ∨ rights % 4 = 0 then .refuse s CONFIG_REFUSED
    else
      let g : StakeGrant := ⟨h.ctx, stake, bit rights 0, bit rights 1⟩
      let give (i : Nat) : CmdRes :=
        let s := modCtx s grantee fun y => { y with grants := tput y.grants i g }
        let s := event s grantee 0x0003 0 [(0x10, 1, i), (0x11, 1, h.ctx), (0x12, 1, rights % 4)]
        { st := rescan s, result := i }
      match grantSlot y h.ctx stake with
      | some i => give i
      | none =>
        match lowestFree y.grants 0 256 with
        | none => .refuse s RESOURCE_FULL
        | some i => give i

def execStakeGrant (h : CmdHdr) (stake grantee rights : Nat) (s : State) : Host.Outcome State Fault Refusal :=
  .next (ctxCmd s (.stakeGrant h stake grantee rights) h false (stakeGrant h stake grantee rights))

/-- End a Stake grant: the slot is free and its holder receives GRANT_REVOKED (R88). -/
def revokeGrant (s : State) (grantee slot : Nat) : State :=
  event (modCtx s grantee fun y => { y with grants := tdel y.grants slot }) grantee 0x0004 ACCESS_DENIED [(0x10, 1, slot)]

def stakeRevoke (h : CmdHdr) (stake grantee : Nat) (s : State) (x : Ctx) : CmdRes :=
  if x.stakes.length ≤ stake ∨ 63 < grantee then .refuse s CONFIG_REFUSED
  else
    match (ctxOf s grantee).bind fun y => grantSlot y h.ctx stake with
    | none => { st := s }
    | some i => { st := rescan (revokeGrant s grantee i) }

def execStakeRevoke (h : CmdHdr) (stake grantee : Nat) (s : State) : Host.Outcome State Fault Refusal :=
  .next (ctxCmd s (.stakeRevoke h stake grantee) h true (stakeRevoke h stake grantee))

/-- MARK: it takes effect now, which is its stamp; its completion waits (R104). -/
def mark (h : CmdHdr) (s : State) (_ : Ctx) : CmdRes :=
  let m : MarkWait := { stamp := s.sup.now, tag := h.tag, irq := bit h.flags 0, leg := none }
  { st := markScan (modCtx s h.ctx fun x => { x with marks := x.marks ++ [m] }), later := true }

def execMark (h : CmdHdr) (s : State) : Host.Outcome State Fault Refusal := .next (ctxCmd s (.mark h) h false (mark h))

/-- A context's oldest Mark may be written: every earlier record is in its ring, no port owes a flush read (R104); no record of its own
context comes before it (R105), and its Completion Ring has room (R72). -/
def markReady (s : State) (c : Nat) (x : Ctx) (m : MarkWait) : Bool :=
  earlierWritten s m.stamp && (flushNeeded s m.stamp).isEmpty && decide (m.stamp < s.sup.now) &&
    (recordFloors s c).all (fun t => decide (m.stamp < t)) && (x.queue.all fun r => decide (m.stamp < recStamp r)) &&
    x.held.isEmpty && decide (0 < cqRoom x)

/-- Write the completion of a context's oldest Mark, apply a Mark Leg's signals, and write the records that waited behind it. -/
def markCompletion (s : State) (c : Nat) : State :=
  match ctxOf s c with
  | none => s
  | some x =>
    match x.marks with
    | [] => s
    | m :: rest =>
      if markReady s c x m then
        let s := modCtx s c fun x => { x with marks := rest }
        let s := match m.leg with
          | some l => completeLegAt s l 0 0 false 0 m.stamp
          | none => record s c (.cq { tag := m.tag, status := 0, kind := 0, stamp := m.stamp, irq := m.irq })
        flushRecords s
      else s

def execMarkCompletion (ctx : Nat) (s : State) : Host.Outcome State Fault Refusal := .next (markCompletion s ctx)

/-- A flush read returns: what it covered is visible to the partner; one that fails is issued again at once (R104). -/
def flushReadReturn (s : State) (p : Nat) (ok : Bool) : State :=
  if (portOf s p).flushing.isSome then
    if ok then markScan (modPort s p fun x => { x with flushing := none })
    else emit s (.hostRead p (adbBase (portOf s p)) 16 none)
  else s

def execFlushReadReturn (port : Nat) (ok : Bool) (s : State) : Host.Outcome State Fault Refusal :=
  .next (flushReadReturn s port ok)

end Sys2Proof.Machine
end

