-- ==== Sys2Proof/Machine/Parallax.lean ====
section
/-!
DEFINITION. The Parallax Engine: costs (R179, R180), aggregation (R181), winner, sub-pixel and checks (R182), words and
output (R183, R184), and PARALLAX_ENGINE_LEG with its start checks and flag ring (R174, R177, R178).
The model's own: log 17 (DEDUCED).
-/
namespace Sys2Proof.Machine
open Sys2Proof

/-- Every descriptor field is in range (R178, Table 4.10). -/
def PxDesc.ok (p : PxDesc) : Bool :=
  decide (1 ≤ p.d ∧ p.d ≤ 256 ∧ p.dmin + p.d ≤ 2048 ∧ 1 ≤ p.p1 ∧ p.p1 ≤ 126 ∧ p.p1 < p.p2 ∧ p.p2 ≤ 127 ∧ p.uniq ≤ 100) &&
  decide (p.c0 < p.c1 ∧ p.c1 ≤ p.w ∧ p.r0 < p.r1 ∧ p.r1 ≤ p.h) && p.out % 64 == 0 && decide (2 * (p.c1 - p.c0) ≤ p.out) &&
  (!p.eight || p.sum != 0) && decide (p.ring.role = 0 ∨ p.ring.role = 2) &&
  (p.ring.role == 0 || (p.vol && decide (1 ≤ p.ring.slots ∧ p.ring.flag0 + p.ring.slots ≤ 32 ∧ 1 ≤ p.ring.rows ∧ p.ring.rows ≤ 64)))

/-! ### Costs -/

/-- An image plane: its bytes, the bytes of a pixel, its row pitch. -/
structure Plane where
  bytes : Bytes
  size  : Nat
  pitch : Nat
  depth : Nat

def Plane.px (p : Plane) (x y : Nat) : Nat := fld p.bytes (y * p.pitch + x * p.size) p.size

/-- The pixel scaled to 16 bits (R169). -/
def Plane.scaled (p : Plane) (x y : Nat) : Nat := if p.size = 1 then p.px x y * 257 else p.px x y * 2 ^ (16 - p.depth)

/-- The 62 census bits of a pixel (R179). -/
def census (p : Plane) (w h x y : Nat) : List Bool :=
  ((List.range 7).flatMap fun j => (List.range 9).map fun i => (i, j)).filterMap fun (i, j) =>
    if i = 4 ∧ j = 3 then none
    else
      let u : Int := (x : Int) + i - 4
      let v : Int := (y : Int) + j - 3
      some (decide (0 ≤ u ∧ u < w ∧ 0 ≤ v ∧ v < h) && decide (p.px u.toNat v.toNat < p.px x y))

/-- The D census costs of a left pixel (R179). -/
def censusCost (p : PxDesc) (l r : Plane) (x y : Nat) : List Nat :=
  let cl := census l p.w p.h x y
  (List.range p.d).map fun i =>
    if x < p.dmin + i then 127
    else ((cl.zip (census r p.w p.h (x - (p.dmin + i)) y)).filter fun e => e.1 != e.2).length

/-- The D costs of a work-window pixel of a volume whose row is given (R180). -/
def volumeCost (p : PxDesc) (row : Bytes) (x : Nat) : List Nat :=
  (List.range p.d).map fun i => min 127 (fld row (x * p.dd + i) 1)

/-! ### Aggregation (R181) -/

def minList (l : List Nat) : Nat := match l with | [] => 0 | a :: r => r.foldl min a

/-- One path at a pixel: `prev` the path's values at the previous pixel, `p2` the large-step penalty there. -/
def pathStep (c prev : List Nat) (p1 p2 : Nat) : List Nat :=
  let m := minList prev
  (enum c).map fun (d, v) =>
    let best := minList ([prev.getD d 0, m + p2] ++ (if d = 0 then [] else [prev.getD (d - 1) 0 + p1]) ++
      (if d + 1 < prev.length then [prev.getD (d + 1) 0 + p1] else []))
    v + best - m

/-- Large-step penalty between two pixels of intensities `a` and `b`. -/
def stepPenalty (p : PxDesc) (a b : Nat) : Nat :=
  if p.adapt = 0 then p.p2 else max (p.p1 + 1) (p.p2 - ((max a b - min a b) * p.adapt) / 256)

/-- One path's values at a pixel: its costs where the path begins. -/
def pathAt (p : PxDesc) (c : List Nat) (i : Nat) (prev : Option (List Nat × Nat)) : List Nat :=
  match prev with
  | none => c
  | some (l, j) => pathStep c l p.p1 (stepPenalty p i j)

/-- A pixel of a row under aggregation: its intensity, and its four paths. -/
structure PxCell where
  i  : Nat
  ls : List (List Nat)

/-- The cell of a row, with its path `k`. -/
def cellPath (row : List PxCell) (x : Int) (k : Nat) : Option (List Nat × Nat) :=
  if x < 0 then none else row[x.toNat]?.map fun c => (c.ls.getD k [], c.i)

/-- A row in forward order from the row before it. -/
def pxRow (p : PxDesc) (prev : List PxCell) (cost : List (List Nat)) (ints : List Nat) : List PxCell :=
  (enum (cost.zip ints)).foldl (fun row e =>
    let x : Int := e.1
    let c := e.2.1
    let i := e.2.2
    row ++ [{ i := i, ls := [pathAt p c i (cellPath row (x - 1) 0), pathAt p c i (cellPath prev (x - 1) 1),
                             pathAt p c i (cellPath prev x 2), pathAt p c i (cellPath prev (x + 1) 3)] }]) []

/-- Sum of a cell's four paths, per disparity. -/
def cellSum (d : Nat) (c : PxCell) : List Nat := (List.range d).map fun k => (c.ls.map fun l => l.getD k 0).foldl (· + ·) 0

/-- The forward sums of a work window, row by row. -/
def forwardSums (p : PxDesc) (cost : List (List (List Nat))) (ints : List (List Nat)) : List (List (List Nat)) :=
  ((cost.zip ints).foldl (fun (a : List PxCell × List (List (List Nat))) e =>
    let row := pxRow p a.1 e.1 e.2
    (row, a.2 ++ [row.map (cellSum p.d)])) ([], [])).2

/-- Turn a window by half a turn. -/
def turn {α : Type} (l : List (List α)) : List (List α) := (l.map List.reverse).reverse

/-- The sums s(p, d) of a work window (R181). -/
def pxSums (p : PxDesc) (cost : List (List (List Nat))) (ints : List (List Nat)) : List (List (List Nat)) :=
  let f := forwardSums p cost ints
  if p.eight then
    let b := turn (forwardSums p (turn cost) (turn ints))
    List.zipWith (List.zipWith (List.zipWith (· + ·))) f b
  else f

/-! ### Winner and checks (R182) -/

/-- Index of the first least value. -/
def argmin (l : List Nat) : Nat := (l.findIdx? fun v => v == minList l).getD 0

/-- The sub-pixel word of winner `j` with neighbours `a0`, `m`, `b0` (R182, rule 4). -/
def pxWord (p : PxDesc) (j a0 m b0 : Nat) : Int :=
  let a : Int := (a0 : Int) - m
  let b : Int := (b0 : Int) - m
  ((p.dmin + j : Nat) : Int) * 32 + (64 * (a - b) + 2 * (a + b)) / (4 * (a + b))

/-- Code of an invalid output. -/
def pxCode (p : PxDesc) (c : Nat) : Nat := if p.why then c else 0xFFFF

/-- The right view's word at `xr`, none when its winner is out of range: its sums run over the indices whose left pixel
lies in the work window (R182, rule 5; log 17). -/
def rightWord (p : PxDesc) (row : List (List Nat)) (xr : Int) : Option Int :=
  let l : List (Nat × Nat) := (List.range p.d).filterMap fun (i : Nat) =>
    let x : Int := xr + (p.dmin : Int) + ((i : Nat) : Int) - (p.x0 : Int)
    if x < 0 then none else (row[x.toNat]?).map fun v => (i, v.getD i 0)
  let j := argmin (l.map (·.2))
  match l[j]?, (if j = 0 then none else l[j - 1]?), l[j + 1]? with
  | some (i, m), some (_, a), some (_, b) => some (pxWord p i a m b)
  | _, _, _ => none

/-- The word of output pixel x of a work row, valid or one of the codes (R182, R183). -/
def pxOut (p : PxDesc) (row : List (List Nat)) (x : Nat) : Nat × Bool :=
  let s := row.getD (x - p.x0) []
  let j := argmin s
  let m := s.getD j 0
  if x < p.dmin then (pxCode p 0xFFE0, false)
  else if j = 0 ∨ j + 1 = p.d then (pxCode p 0xFFE3, false)
  else
    let others := ((enum s).filter fun e => decide (e.1 + 1 < j ∨ j + 1 < e.1)).map (·.2)
    if p.uniq ≠ 0 ∧ !others.isEmpty ∧ 100 * minList others ≤ (100 + p.uniq) * m then (pxCode p 0xFFE2, false)
    else
      let w := pxWord p j (s.getD (j - 1) 0) m (s.getD (j + 1) 0)
      let good := !p.lr || match rightWord p row ((x : Int) - (w + 16) / 32) with
        | none => false
        | some wr => decide ((w - wr).natAbs ≤ p.lrtol)
      if good then (w.toNat, true) else (pxCode p 0xFFE1, false)

/-! ### The Leg -/

/-- ToV of a Frame Record in units of 2^-32 ns. -/
def recordTov (r : Bytes) : Int := ifld r 0x60 8 * 4294967296 + fld r 0x68 4

/-- A signed 32-bit field that saturates. -/
def sat32 (v : Int) : Nat := unsigned 32 (max (-2147483648) (min 2147483647 v))

/-- Output header (Table 4.13). -/
def pxHeader (p : PxDesc) (l : Bytes) (r : Option Bytes) (valid invalid : Nat) : Bytes :=
  (l.drop 0x60).take 12 ++ (l.drop 0x14).take 4 ++ (l.drop 4).take 4 ++ (l.drop 0x6C).take 4 ++
  le 2 p.c0 ++ le 2 p.c1 ++ le 2 p.r0 ++ le 2 p.r1 ++ le 2 p.dmin ++ le 2 p.d ++ le 4 valid ++ le 4 invalid ++ le 2 p.h ++ le 2 0 ++
  le 4 (match r with | some r => sat32 ((recordTov r - recordTov l) / 4294967296) | none => 0x80000000) ++ le 12 0

/-- The record and the plane that an image operand holds, its rows `pitch` bytes apart. -/
def planeOf (s : State) (w : Who) (o : OpEnt) (off : Nat) (p : PxDesc) (r : Bytes) (pitch : Nat) : Option (Bytes × Plane) :=
  (rdOp s w o off (pitch * p.h)).map fun b => (r, ⟨b, if fld r 0x24 1 = 0 then 1 else 2, pitch, fld r 0x25 1⟩)

/-- What the engine reads of an image operand: its record and its plane. Source rows are SRC_PITCH apart; with a cost volume that is
the volume's pitch, and the left plane's rows lie at the PITCH of its own record (Tables 4.1, 4.10). -/
def readPlane (s : State) (w : Who) (o : OpEnt) (off : Nat) (p : PxDesc) : Option (Bytes × Plane) :=
  (rdOp s w o 0 128).bind fun r => planeOf s w o off p r (if p.vol then fld r 0x1C 4 else p.src)

/-- The slowest tier that serves what a Parallax Leg reads and writes (R331). -/
def pxTier (s : State) (w : Who) (p : PxDesc) (a b o : OpEnt) : Nat :=
  let lp := if p.vol then ((rdOp s w a 0 128).map fun r => fld r 0x1C 4).getD 0 else p.src
  let right := if p.vol then (if p.ring.role = 0 then [(b, 0, p.hw * p.src)] else []) else [(b, 0, 128), (b, p.offR, p.src * p.h)]
  ([(a, 0, 128), (a, p.offL, lp * p.h), (o, 0, 64 + (p.r1 - p.r0) * p.out)] ++ right ++
    (if p.eight then [((⟨p.sum, 0, 0⟩ : OpEnt), 0, 2 * p.dd * p.ww * p.hw)] else [])).foldl
    (fun t (e : OpEnt × Nat × Nat) => max t (opTier s w.ctx e.1 e.2.1 e.2.2)) 0

/-- The engine's work on a window: sums, words row by row. -/
def pxWork (p : PxDesc) (cost : List (List (List Nat))) (l : Plane) : List (List (List Nat)) × List (List (Nat × Bool)) :=
  let ints := (List.range p.hw).map fun y => (List.range p.ww).map fun x => l.scaled (p.x0 + x) (p.y0 + y) / 256
  let sums := pxSums p cost ints
  (sums, (List.range (p.r1 - p.r0)).map fun i => (List.range (p.c1 - p.c0)).map fun k =>
    pxOut p (sums.getD (p.r0 + i - p.y0) []) (p.c0 + k))

/-- The Leg's outputs and its condition (R184). -/
def pxResult (p : PxDesc) (o : OpEnt) (l : Bytes) (r : Option Bytes) (words : List (List (Nat × Bool)))
    (sums : List (List (List Nat))) : EngOut :=
  let invalid := ((words.flatten).filter fun e => !e.2).length
  let valid := words.flatten.length - invalid
  let rows := (enum words).map fun e =>
    (o, 64 + e.1 * p.out, (e.2.flatMap fun v => le 2 v.1) ++ le (p.out - 2 * e.2.length) 0)
  let sum := if p.eight then (enum sums.flatten).map fun e =>
    ((⟨p.sum, 0, 0⟩ : OpEnt), 2 * p.dd * e.1, e.2.flatMap fun v => le 2 v) else []
  { cond := p.inv != 0 && decide (p.inv * (valid + invalid) < 256 * invalid),
    writes := sum ++ [(o, 0, pxHeader p l r valid invalid)] ++ rows }

/-- Start checks (R177, R178): the scratch area's place, then the descriptor and operands. -/
def pxCheck (s : State) (c : Nat) (g : Leg) (p : PxDesc) : Nat :=
  firstFail [
    need ((opAt g 3).isSome && scratchOwn s c g 3) ACCESS_DENIED,
    need (!p.eight || (match resolve s c p.sum with | some (_, r) => hasRight r 0 && hasRight r 1 | none => false)) ACCESS_DENIED,
    need (decide (g.subop = 0) && p.ok) INTEGRITY,
    need ((opAt g 0).isSome && (opAt g 1).isSome) INTEGRITY,
    need (match opAt g 3 with | some o => decide (p.ww * p.dd * (3 + 2 * b2n p.lr) ≤ opRoom s c o) | none => false) INTEGRITY,
    need (match opAt g 2 with | some o => isOut o && decide (64 + (p.r1 - p.r0) * p.out ≤ opRoom s c o) | none => false) INTEGRITY,
    need (!p.eight || decide (2 * p.dd * p.ww * p.hw ≤ nameLength s c p.sum)) INTEGRITY]

/-- Output ranges of a Parallax Leg (R95). -/
def pxRanges (g : Leg) (p : PxDesc) : List (OpEnt × Nat × Nat) :=
  (match opAt g 2 with | some o => [(o, 0, 64 + (p.r1 - p.r0) * p.out)] | none => []) ++
  (if p.eight then [(⟨p.sum, 0, 0⟩, 0, 2 * p.dd * p.ww * p.hw)] else [])

/-- An uncorrectable error in what a Parallax Leg reads ends it with INTEGRITY, its outputs undefined (R322, R95). -/
def pxBad (s : State) (l : LegRef) (g : Leg) (p : PxDesc) : State :=
  finishLeg (freeRanges s l.ctx (pxRanges g p)) l { status := INTEGRITY }

/-- The end of a Parallax Leg whose rows of costs, if it reads a volume, and whose left image are at hand. -/
def pxVolume (s : State) (l : LegRef) (p : PxDesc) (o : OpEnt) (lr : Bytes) (lp : Plane) (rows : List Bytes) (tier : Nat) : State :=
  let x := pxWork p ((rows.take p.hw).map fun row => (List.range p.ww).map (volumeCost p row)) lp
  finishLeg s l { pxResult p o lr none x.2 x.1 with tier := tier }

/-- The same with census costs of two images (R179). -/
def pxCensus (s : State) (l : LegRef) (p : PxDesc) (o : OpEnt) (lr rr : Bytes) (lp rp : Plane) (tier : Nat) : State :=
  let cost := (List.range p.hw).map fun y => (List.range p.ww).map fun x => censusCost p lp rp (p.x0 + x) (p.y0 + y)
  let x := pxWork p cost lp
  finishLeg s l { pxResult p o lr (some rr) x.2 x.1 with tier := tier }

/-- The end of a Parallax Leg (R177 to R184); a Leg that still waits for FULL takes what is there and does not end (R174). -/
def parallaxLeg (s : State) (l : LegRef) (r : EngineRun) : State :=
  match legOf s l with
  | none => s
  | some g =>
    if g.kind = 1 ∧ legRuns s l then
      let w := whoOf s l
      match rdName s w g.desc 0 128 with
      | none => refuseLeg s l INTEGRITY
      | some d =>
        let p := parsePx d
        match pxCheck s l.ctx g p, opAt g 0, opAt g 1, opAt g 2 with
        | 0, some a, some b, some o =>
          if r.bad then pxBad s l g p
          else
            let tier := pxTier s w p a b o
            match readPlane s w a p.offL p with
            | none => pxBad s l g p
            | some (lr, lp) =>
              if 1 < fld lr 0x24 1 then refuseLeg s l INTEGRITY
              else if p.vol then
                if p.ring.role = 0 then
                  match (List.range p.hw).mapM fun y => rdOp s w b (y * p.src) (p.ww * p.dd) with
                  | none => pxBad s l g p
                  | some rows => pxVolume s l p o lr lp rows tier
                else
                  let s := takeBands p.bands s l w g p
                  if (takenRows s l p).length < p.hw then s else pxVolume s l p o lr lp (takenRows s l p) tier
              else
                match readPlane s w b p.offR p with
                | none => pxBad s l g p
                | some (rr, rp) =>
                  if fld lr 0x24 1 ≠ fld rr 0x24 1 then refuseLeg s l INTEGRITY else pxCensus s l p o lr rr lp rp tier
        | 0, _, _, _ => refuseLeg s l INTEGRITY
        | st, _, _, _ => refuseLeg s l st
    else s

def execParallaxEngineLeg (l : LegRef) (r : EngineRun) (s : State) : Host.Outcome State Fault Refusal :=
  .next (onSnaps s l fun s => parallaxLeg s l r)

end Sys2Proof.Machine
end

