-- ==== Sys2Proof/Machine/Resection.lean ====
section
/-!
DEFINITION. The Resection Engine: distances and keys (R283, R284), queries and result slots (R286, R287), SEARCH and its
cut-off (R288 to R295), MERGE (R298), FAN_OUT (R302), REPLY (R304, R305), with the start checks of R289.
The model's own: log 34 (DEDUCED).
-/
namespace Sys2Proof.Machine
open Sys2Proof

/-! ### Distances and keys (R283, R284) -/

/-- One term of a distance. -/
def distTerm (metric : Nat) (q x : Val) : Val :=
  if metric = 0 then let d := fp32.round (q.sub x); d.mul d else q.mul x

/-- Distance of a query and a stored vector: chunks of 256, each summed exactly, accumulated in FP64. -/
def distAcc (metric : Nat) : Nat → Val → List (Val × Val) → Val
  | 0, acc, _ => acc
  | n + 1, acc, l =>
    if l.isEmpty then acc
    else distAcc metric n (fp64.round (acc.add (Val.sum ((l.take 256).map fun e => distTerm metric e.1 e.2)))) (l.drop 256)

def dist (metric : Nat) (q x : List Val) : Val :=
  let acc := distAcc metric (q.length / 256 + 1) Val.zero (q.zip x)
  fp32.round (if metric = 0 then acc else acc.neg)

/-- A ranked item: distance, ID, Tract, shard, and whether a summary gave it. -/
structure Hit where
  dist  : Val
  id    : Nat
  tract : Nat
  shard : Nat
  sum   : Bool
  deriving DecidableEq, Repr

/-- The key (dist, ID) of one item lies before that of another (R284). -/
def keyLt (d : Val) (i : Nat) (e : Val) (j : Nat) : Bool := d.lt e || (!e.lt d && decide (i < j))

/-- Add a hit to a list in key order: of two with one ID the smaller key is kept, of equal keys the earlier (R292, R298). -/
def joinHit (l : List Hit) (h : Hit) : List Hit :=
  match l.find? fun x => x.id == h.id with
  | some x => if keyLt h.dist h.id x.dist x.id then insBy (fun a b => keyLt a.dist a.id b.dist b.id) h (l.filter fun y => y.id != h.id) else l
  | none => insBy (fun a b => keyLt a.dist a.id b.dist b.id) h l

/-! ### Descriptors -/

/-- A Search Descriptor (Table 8.10). -/
structure SDesc where
  index   : Nat
  qcap    : Nat
  kmax    : Nat
  pmax    : Nat
  cond    : Bool
  inbox   : Bool
  slots   : Nat
  reserve : Nat
  cdist   : Val
  margin  : Nat
  map     : Nat
  deriving DecidableEq, Repr

def parseSDesc (b : Bytes) : SDesc :=
  { index := fld b 0 4, qcap := fld b 4 2, kmax := fld b 6 2, pmax := fld b 8 1, cond := bit (fld b 9 1) 0,
    inbox := bit (fld b 9 1) 1, slots := fld b 10 2, reserve := fld b 12 4, cdist := fp32.decode (fld b 16 4),
    margin := fld b 20 4, map := fld b 24 4 }

/-- An Index Descriptor (Table 8.3). -/
structure IDesc where
  ok        : Bool                         -- MAGIC, FORMAT and fields in range
  dim       : Nat
  metric    : Nat
  smax      : Nat
  shard     : Nat
  tracts    : Nat
  centroids : Nat
  directory : Nat
  summaries : Nat
  maxPages  : Nat
  deriving DecidableEq, Repr

def parseIDesc (s : State) (b : Bytes) : IDesc :=
  let dim := fld b 6 2
  let smax := fld b 9 1
  { ok := decide (fld b 0 4 = 0x58444E49) && formatListed s 4 (fld b 4 2) &&
      decide (64 ≤ dim ∧ dim ≤ 1024 ∧ dim % 64 = 0 ∧ fld b 8 1 ≤ 1 ∧ smax ≤ 64 ∧ 1 ≤ fld b 12 4 ∧ fld b 12 4 ≤ 1048576 ∧
        1 ≤ fld b 28 4 ∧ fld b 28 4 ≤ 65536) && (smax == 0 || fld b 24 4 != 0),
    dim := dim, metric := fld b 8 1, smax := smax, shard := fld b 10 2, tracts := fld b 12 4, centroids := fld b 16 4,
    directory := fld b 20 4, summaries := fld b 24 4, maxPages := fld b 28 4 }

/-- Bytes of a result list, a result slot, a query record, a stored entry. -/
def listBytes (d : SDesc) : Nat := 64 + 24 * d.kmax

def slotSize (d : SDesc) : Nat := 64 + d.qcap * listBytes d

def queryBytes (dim : Nat) : Nat := 64 + 4 * dim

def entryBytes (dim : Nat) : Nat := 8 + 4 * dim

/-- Entries that a Tract page holds (R279). -/
def pageEntries (dim : Nat) : Nat := 16320 / entryBytes dim

/-- A stored entry: ID and vector. -/
def parseEntry (dim : Nat) (b : Bytes) : Nat × List Val :=
  (fld b 0 8, (List.range dim).map fun i => fp32.decode (fld b (8 + 4 * i) 4))

/-- A query record (Table 8.6). -/
structure Query where
  raw    : Bytes                           -- its 64-byte header
  k      : Nat
  probes : Nat
  ok     : Bool
  lo     : Nat
  hi     : Nat
  v      : List Val

def parseQuery (d : SDesc) (dim : Nat) (b : Bytes) : Query :=
  let k := fld b 4 2
  let pr := fld b 6 1
  { raw := b.take 64, k := k, probes := pr,
    ok := bit (fld b 7 1) 0 && decide (1 ≤ k ∧ k ≤ d.kmax ∧ 1 ≤ pr ∧ pr ≤ d.pmax), lo := fld b 0x18 8, hi := fld b 0x20 8,
    v := (List.range dim).map fun i => fp32.decode (fld b (64 + 4 * i) 4) }

/-- An entry is excluded by a query (R292). -/
def Query.skips (q : Query) (id : Nat) : Bool := decide (q.lo ≤ q.hi ∧ q.lo ≤ id ∧ id ≤ q.hi)

/-! ### Start checks (R289) -/

/-- An object that a descriptor names lies outside the Archive tier and may be read by the context. -/
def descObj (s : State) (c id : Nat) (main : Bool) : Bool :=
  match resolve s c id with
  | none => false
  | some (k, r) => match tget s.objs k with
    | none => false
    | some o => hasRight r 0 && !inArchive o && (!main || decide (position o = .main))

/-- An object that a descriptor names is one of the context's, and lies in the Archive tier or, for a summary table, outside the Main tier.
-/
def tierBad (s : State) (c id : Nat) (main : Bool) : Bool :=
  match (resolve s c id).bind fun e => tget s.objs e.1 with
  | some o => inArchive o || (main && !decide (position o = .main))
  | none => false

/-- First check of Table 8.12 for a Leg: the scratch area and the objects of an index, whatever else its descriptor says. -/
def resAccess (s : State) (c : Nat) (g : Leg) (ix : Option IDesc) : Nat :=
  need (scratchOwn s c g 3 && (match ix with
    | none => true
    | some i => !tierBad s c i.centroids false && !tierBad s c i.directory false && (i.smax == 0 || !tierBad s c i.summaries true)))
    ACCESS_DENIED

/-- The objects that an Index Descriptor names may be read by the context (log 34). -/
def indexHeld (s : State) (c : Nat) (i : IDesc) : Nat :=
  need (descObj s c i.centroids false && descObj s c i.directory false && (i.smax == 0 || descObj s c i.summaries true)) ACCESS_DENIED

/-- Field checks of a Search Descriptor for an operation (Table 8.10). -/
def sdescOk (d : SDesc) (sub : Nat) : Bool :=
  decide (1 ≤ d.qcap ∧ d.qcap ≤ 256 ∧ 1 ≤ d.kmax ∧ d.kmax ≤ 256) &&
  (sub != 0 || decide (1 ≤ d.pmax ∧ d.pmax ≤ 64)) && (!(sub == 1 || sub == 2) || decide (1 ≤ d.slots ∧ d.slots ≤ 64))

/-- The room that an operand gives; 0 when it is absent. -/
def roomAt (s : State) (c : Nat) (g : Leg) (i : Nat) : Nat := (opAt g i).elim 0 (opRoom s c)

/-- The scratch area is large enough (SEARCH and MERGE). -/
def scratchRoom (s : State) (c : Nat) (g : Leg) (d : SDesc) : Bool := decide (65536 + 80 * d.qcap * d.kmax ≤ roomAt s c g 3)

/-! ### Result slots (Tables 8.7 to 8.9) -/

/-- Totals of a slot header. -/
structure SlotTotals where
  scanned : Nat := 0
  full    : Nat := 0
  summed  : Nat := 0
  near    : Nat := 0
  main    : Nat := 0
  archive : Nat := 0
  deriving DecidableEq, Repr

def slotHeader (valid reason shard count tag pkg : Nat) (t : SlotTotals) : Bytes :=
  le 1 valid ++ le 1 reason ++ le 2 shard ++ le 4 count ++ le 4 tag ++ le 1 pkg ++ le 3 0 ++ le 8 t.scanned ++ le 4 t.full ++
  le 4 t.summed ++ le 4 t.near ++ le 4 t.main ++ le 4 t.archive ++ le 20 0

/-- One result entry (Table 8.9). -/
def hitBytes (h : Hit) : Bytes :=
  le 8 h.id ++ le 4 (fp32.encode h.dist) ++ le 4 h.tract ++ le 2 h.shard ++ le 2 (b2n h.sum) ++ le 4 0

/-- One result list: its header fields and its hits, zero to its end (Table 8.8). -/
def listOut (d : SDesc) (qid k : Nat) (tov : Bytes) (rflags probed summary missing nonfin : Nat) (hits : List Hit) : Bytes :=
  le 4 qid ++ le 2 hits.length ++ le 2 k ++ tov ++ le 2 rflags ++ le 2 probed ++ le 2 summary ++ le 2 missing ++ le 4 nonfin ++
  le 32 0 ++ hits.flatMap hitBytes ++ le (24 * (d.kmax - hits.length)) 0

/-! ### SEARCH -/

/-- A directory entry (Table 8.4). -/
structure DirEnt where
  t       : Nat
  obj     : Nat
  pages   : Nat
  sumN    : Nat
  enabled : Bool
  deriving DecidableEq, Repr

def parseDir (b : Bytes) (t : Nat) : DirEnt :=
  ⟨t, fld b (16 * t) 4, fld b (16 * t + 4) 4, fld b (16 * t + 8) 2, bit (fld b (16 * t + 10) 2) 0⟩

/-- A query's selected Tracts, best first, and the NaN distances met among all centroids (R284; R291, pass 1). -/
def probe (ix : IDesc) (cents : Bytes) (dir : List DirEnt) (q : Query) : List DirEnt × Nat :=
  let l := dir.map fun e =>
    (dist ix.metric q.v ((List.range ix.dim).map fun i => fp32.decode (fld cents (4 * (e.t * ix.dim + i)) 4)), e)
  let r := sortBy (fun a b => keyLt a.1 a.2.t b.1 b.2.t)
    (l.filter fun e => !e.1.isNan && e.2.enabled && decide (0 < e.2.pages))
  ((r.take q.probes).map (·.2), (l.filter fun e => e.1.isNan).length)

/-- How a page of a Tract is found to be lost: its cause, or the entries it holds (R293). -/
def readPage (s : State) (w : Who) (ix : IDesc) (lost : List (Nat × Nat)) (e : DirEnt) (p : Nat) : Nat ⊕ List (Nat × List Val) :=
  if lost.contains (e.t, p) then .inl 0
  else
    match rdName s w e.obj (p * pageSize) pageSize with
    | none => .inl 0
    | some b =>
      let n := fld b 12 2
      if fld b 4 4 = e.t ∧ fld b 8 4 = p ∧ fld b 14 2 = ix.dim ∧ 1 ≤ n ∧ n ≤ pageEntries ix.dim then
        .inr ((List.range n).map fun i => parseEntry ix.dim (b.drop (64 + i * entryBytes ix.dim)))
      else .inl 1

/-- The entries of a Tract, or the first lost page with its cause (R291 pass 2, R293). -/
def readTract (s : State) (w : Who) (ix : IDesc) (lost : List (Nat × Nat)) (e : DirEnt) : (Nat × Nat) ⊕ List (Nat × List Val) :=
  if ix.maxPages < e.pages then .inl (e.pages, 2)
  else
    (List.range e.pages).foldl (fun a p =>
      match a with
      | .inl x => .inl x
      | .inr l => match readPage s w ix lost e p with | .inl c => .inl (p, c) | .inr m => .inr (l ++ m)) (.inr [])

/-- What a selected Tract gives: its entries in full, or its summary; whether it joined; a lost page to report. -/
structure TractRead where
  e     : DirEnt
  full  : Bool
  items : List (Nat × List Val)
  lost  : Option (Nat × Nat) := none

/-- The summary entries of a Tract (R280). -/
def summaryItems (ix : IDesc) (sums : Bytes) (e : DirEnt) : List (Nat × List Val) :=
  (List.range (min e.sumN ix.smax)).map fun i => parseEntry ix.dim (sums.drop ((e.t * ix.smax + i) * entryBytes ix.dim))

/-- Scan one selected Tract, `joined` the Tracts that had joined at the cut-off if there was one (R291, R293). -/
def scanTract (s : State) (w : Who) (ix : IDesc) (sums : Bytes) (lost : List (Nat × Nat)) (joined : Option (List Nat))
    (e : DirEnt) : TractRead :=
  if ix.maxPages < e.pages then { e := e, full := false, items := summaryItems ix sums e, lost := some (e.pages, 2) }
  else if (joined.map fun l => !l.contains e.t).getD false then { e := e, full := false, items := summaryItems ix sums e }
  else
    match readTract s w ix lost e with
    | .inl x => { e := e, full := false, items := summaryItems ix sums e, lost := some x }
    | .inr l => { e := e, full := true, items := l }

/-- The Tracts that any query selected, by the best rank any query gives them (R291, pass 2). -/
def scanOrder (sel : List (List DirEnt)) : List DirEnt :=
  let all := (sel.flatMap fun l => (enum l).map fun e => (e.1, e.2)).eraseDups
  let best (t : Nat) : Nat := ((all.filter fun e => e.2.t == t).map (·.1)).foldl min 64
  let ts := (all.map (·.2)).eraseDups
  sortBy (fun a b => lexLt [best a.t, a.t] [best b.t, b.t]) ts

/-- One query's list: hits in key order, met in Tract order (R292), and NaN distances met among the entries it compared. -/
def queryHits (ix : IDesc) (reads : List TractRead) (sel : List DirEnt) (q : Query) : List Hit × Nat :=
  let mine := reads.filter fun r => sel.any fun e => e.t == r.e.t
  let one (r : TractRead) : List Hit := (r.items.filter fun x => !q.skips x.1).map fun x =>
    ⟨dist ix.metric q.v x.2, x.1, r.e.t, ix.shard, !r.full⟩
  let l := mine.flatMap one
  (((l.filter fun h => !h.dist.isNan).foldl joinHit []).take q.k, (l.filter fun h => h.dist.isNan).length)

/-- Tier from which a Tract is read. -/
def tractTier (s : State) (c : Nat) (e : DirEnt) : Nat := opTier s c ⟨e.obj, 0, 0⟩ 0 (e.pages * pageSize)

/-- A page of the Tract was read: of a Tract with a lost page, the lost one by its header or an earlier one (R293, R294). -/
def TractRead.paged (r : TractRead) : Bool :=
  r.full || (r.lost.map fun e => e.2 == 1 || (e.2 == 0 && decide (0 < e.1))).getD false

/-- A Tract that the cut-off abandoned. -/
def TractRead.cut (r : TractRead) : Bool := !r.full && r.lost.isNone

/-- TIER of a SEARCH (R294). Up to 4 Tracts are in progress, in scan order, when the cut-off abandons the rest (R291): whether a page of one
of them had been read is open, bit `i` of a free value for the `i`th (log 34). -/
def searchTier (s : State) (c : Nat) (l : List TractRead) : Nat :=
  let open_ := Config.freeNat s.free
  let partly := ((enum ((l.filter TractRead.cut).take 4)).filter fun e => bit open_ e.1).map (·.2)
  (l.filter TractRead.paged ++ partly).foldl (fun t x => max t (tractTier s c x.e)) 0

/-- SEARCH_PAGE_LOST (Table 8.16). -/
def pageLostEvent (s : State) (l : LegRef) (r : TractRead) : State :=
  match r.lost with
  | none => s
  | some (p, c) => event s l.ctx 0x0150 INTEGRITY
      [(0x10, 2, l.handle), (0x12, 2, l.leg), (0x14, 4, r.e.obj), (0x18, 4, p), (0x1C, 1, c)]

/-- A SEARCH's queries: where the Query Set lies, in the operand or in an Inbox entry. -/
structure QuerySet where
  count : Nat
  dim   : Nat
  tag   : Nat
  bytes : Bytes

def readQuerySet (s : State) (w : Who) (o : OpEnt) (off : Nat) (d : SDesc) (dim : Nat) : Option QuerySet :=
  match rdOp s w o off 64 with
  | none => none
  | some h =>
    let n := fld h 0 4
    if n = 0 ∨ d.qcap < n ∨ fld h 4 2 ≠ dim then some ⟨n, fld h 4 2, fld h 16 4, []⟩
    else (rdOp s w o (off + 64) (n * queryBytes dim)).map fun b => ⟨n, fld h 4 2, fld h 16 4, b⟩

/-- A result slot that says why it holds none (Table 8.7). -/
def emptySlot (d : SDesc) (reason tag : Nat) : Bytes := slotHeader 0 reason 0xFFFF 0 tag 0xFF {} ++ le (slotSize d - 64) 0

/-- The work of a SEARCH over a Query Set: its output slot, the reads of its Tracts, its condition (R291 to R295). -/
def searchWork (s : State) (w : Who) (d : SDesc) (ix : IDesc) (cents dir sums : Bytes) (run : SearchRun)
    (joined : Option (List Nat)) (qs : QuerySet) : Bytes × List TractRead × Bool :=
  let ents := (List.range ix.tracts).map (parseDir dir)
  let queries := (List.range qs.count).map fun i => parseQuery d ix.dim ((qs.bytes.drop (i * queryBytes ix.dim)).take (queryBytes ix.dim))
  let sel : List (List DirEnt × Nat) := queries.map fun q => if q.ok then probe ix cents ents q else ([], 0)
  let reads := (scanOrder (sel.map (·.1))).map (scanTract s w ix sums run.lost joined)
  let lists : List (Bytes × Option Hit) := (queries.zip sel).map fun (q, p) =>
    if q.ok then
      let h := queryHits ix reads p.1 q
      let part := (reads.filter fun r => !r.full && p.1.any fun e => e.t == r.e.t).length
      (listOut d (fld q.raw 0 4) q.k ((q.raw.drop 8).take 12) (b2n (decide (0 < part))) p.1.length part 0 (satAdd max32 p.2 h.2) h.1,
        h.1.head?)
    else (listOut d (fld q.raw 0 4) q.k ((q.raw.drop 8).take 12) 4 0 0 0 0 [], none)
  let full := reads.filter (·.full)
  let tier (n : Nat) : Nat := (full.filter fun r => tractTier s w.ctx r.e == n).length
  let tot : SlotTotals :=
    { scanned := (reads.map fun r => r.items.length).foldl (· + ·) 0, full := full.length, summed := reads.length - full.length,
      near := tier 1, main := tier 2, archive := tier 3 }
  let out := slotHeader 1 0 ix.shard qs.count qs.tag 0xFF tot ++ lists.flatMap (·.1) ++
    le ((d.qcap - qs.count) * listBytes d) 0
  (out, reads, d.cond && lists.any fun e => (e.2.map fun h => Val.le h.dist d.cdist).getD false)

/-- ARRIVAL of Inbox entry `j`: an entry that arrived after a SEARCH's dispatch did not remain at it (R304). -/
def inboxArrival (s : State) (w : Who) (id depth j : Nat) : Nat :=
  ((rdName s w id (inboxAt s w id depth j + 8) 8).map leNat).getD 0

/-- Write bytes into an Inbox object. -/
def wrInbox (s : State) (v : Service) (off : Nat) (b : Bytes) : State := wrObj s (objKey v.ctx v.inbox) off b

/-- The frames of a REPLY to a node (Table 10.11). -/
def replyFrames (s : State) (node tag : Nat) (slot : Bytes) : List TieFrame :=
  let l := fragments (slot.length / 4096 + 1) 0 slot
  (enum l).map fun e =>
    { type := 0x21, cls := 3, dst := node, src := ownNode s, hops := 63,
      msg := [(0x15, 1, b2n (e.1 == 0) + 2 * b2n (e.1 + 1 == l.length)), (0x18, 4, tag), (0x1C, 4, e.2.1)], payload := e.2.2 }

/-- Inbox entries that have expired by `t` are answered with REASON 4 and passed over (R304). -/
def expireInbox (s : State) (l : LegRef) (w : Who) (num : Nat) (v : Service) (t : Nat) : Nat → State
  | 0 => s
  | n + 1 =>
    let (h, e) := inboxEnds s w v.inbox
    if h = e ∨ t < inboxLimit s w v.inbox v.depth h then s
    else
      let at_ := inboxAt s w v.inbox v.depth h
      let b := (rdName s w v.inbox at_ 128).getD []
      let slot := slotHeader 0 4 0xFFFF 0 (fld b 80 4) (ownNode s) {}
      let s := sendTo s (fld b 0 1) (replyFrames s (fld b 0 1) (fld b 4 4) slot)
      let s := event s v.ctx 0x0154 0
        [(0x10, 2, l.handle), (0x12, 2, l.leg), (0x14, 1, num), (0x18, 8, inboxLimit s w v.inbox v.depth h)]
      expireInbox (wrInbox s v 0 (le 4 (wrap32 (h + 1)))) l w num v t n

/-- The Inbox entry that a SEARCH dispatched at `t` searches: none where none remains (R304). -/
def searchTake (s : State) (w : Who) (v : Service) (t : Nat) : Option Nat :=
  (inboxTake s w v.inbox v.depth t).filter fun j => decide (inboxArrival s w v.inbox v.depth j ≤ t)

/-- Only one resident Traverse may name an Inbox (R304): the first whose Leg does, until it is unloaded. -/
def inboxOwner (s : State) (num : Nat) (h : Nat) : Option State :=
  match tget s.services num with
  | none => none
  | some v =>
    match v.trav.filter fun t => (travOf s v.ctx t).isSome with
    | some t => if t = h then some s else none
    | none => some { s with services := tmod s.services num fun v => { v with trav := some h } }

/-- The Search Descriptor of a Leg, or the status that its absence or its size gives. -/
def searchDesc (s : State) (w : Who) (g : Leg) : Nat ⊕ SDesc :=
  match rdName s w g.desc 0 128 with
  | some b => .inr (parseSDesc b)
  | none => .inl (if !scratchOwn s w.ctx g 3 && decide (g.subop ≠ 3) then ACCESS_DENIED else INTEGRITY)

/-- The output range of a Resection Leg (R95, R307). -/
def resRanges (s : State) (w : Who) (g : Leg) : List (OpEnt × Nat × Nat) :=
  match rdName s w g.desc 0 128, opAt g 2 with
  | some b, some o => let d := parseSDesc b; [(o, 0, if g.subop = 2 then d.slots * slotSize d else slotSize d)]
  | _, _ => []

/-- An uncorrectable error in what a Resection Leg reads (R293). -/
def resBad (s : State) (l : LegRef) (w : Who) (g : Leg) : State :=
  finishLeg (freeRanges s l.ctx (resRanges s w g)) l { status := INTEGRITY }

/-- The Query Set at `off` of an operand agrees with the index and with QCAP (check 3 of Table 8.12), and lies within its object (check 5).
-/
def querySetOk (s : State) (w : Who) (d : SDesc) (ix : IDesc) (o : OpEnt) (off : Nat) : Bool :=
  match rdOp s w o off 64 with
  | none => decide (off + 64 ≤ opRoom s w.ctx o)
  | some h =>
    let n := fld h 0 4
    decide (fld h 4 2 = ix.dim ∧ 1 ≤ n ∧ n ≤ d.qcap ∧ off + 64 + n * queryBytes ix.dim ≤ opRoom s w.ctx o)

/-- The last two checks of Table 8.12 of a SEARCH, but for its Query Set. -/
def searchRoom (s : State) (c : Nat) (g : Leg) (d : SDesc) (ix : IDesc) : Bool :=
  let len (id n : Nat) : Bool := decide (n ≤ nameLength s c id)
  scratchRoom s c g d && decide (slotSize d ≤ roomAt s c g 2) && len ix.centroids (4 * ix.dim * ix.tracts) &&
    len ix.directory (16 * ix.tracts) && (ix.smax == 0 || len ix.summaries (ix.tracts * ix.smax * entryBytes ix.dim))

/-- The end of a SEARCH over the queries at `off` of operand `o`. -/
def searchEnd (s : State) (l : LegRef) (w : Who) (g : Leg) (d : SDesc) (ix : IDesc) (run : SearchRun) (joined : Option (List Nat))
    (o : OpEnt) (off : Nat) : State :=
  match readQuerySet s w o off d ix.dim, rdName s w ix.centroids 0 (4 * ix.dim * ix.tracts), rdName s w ix.directory 0 (16 * ix.tracts),
      (if ix.smax = 0 then some [] else rdName s w ix.summaries 0 (ix.tracts * ix.smax * entryBytes ix.dim)), opAt g 2 with
  | some qs, some ce, some di, some su, some out =>
    let r := searchWork s w d ix ce di su run joined qs
    let tier := searchTier s w.ctx r.2.1
    let s := r.2.1.foldl (fun s t => pageLostEvent s l t) { s with free := s.free + 1 }
    let part := r.2.1.any fun t => !t.full
    finishLeg s l { warn := if part then 2 else 0, cond := r.2.2, writes := [(out, 0, r.1)], tier := tier }
  | _, _, _, _, _ => resBad s l w g

/-- The start checks of a SEARCH in the order of Table 8.12, but for its Query Set. -/
def searchStatus (s : State) (c : Nat) (g : Leg) (d : SDesc) (ix : IDesc) : Nat :=
  firstFail [resAccess s c g (some ix), need (sdescOk d 0 && ix.ok) INTEGRITY, indexHeld s c ix, need (searchRoom s c g d ix) INTEGRITY]

/-- A SEARCH over an Inbox that its Traverse owns: every start check comes before an entry is passed over (R289, R304). -/
def searchOwned (s : State) (l : LegRef) (w : Who) (g : Leg) (d : SDesc) (ix : IDesc) (run : SearchRun) (x : LegRun) (out : OpEnt)
    (num : Nat) (v : Service) : State :=
  (searchTake s w v x.at_).elim (finishLeg (expireInbox s l w num v x.at_ 64) l { writes := [(out, 0, emptySlot d 7 0)] }) fun j =>
    let q : OpEnt := ⟨v.inbox, 0, 0⟩
    let off := inboxAt s w v.inbox v.depth j + 64
    if !querySetOk s w d ix q off then refuseLeg s l INTEGRITY
    else searchEnd (expireInbox s l w num v x.at_ 64) l w g d ix run x.cut q off

/-- A SEARCH over an Inbox (R304). -/
def searchInbox (s : State) (l : LegRef) (w : Who) (g : Leg) (d : SDesc) (ix : IDesc) (run : SearchRun) (x : LegRun) (o out : OpEnt) :
    State :=
  match serviceOf s l.ctx o.obj with
  | none => refuseLeg s l ACCESS_DENIED
  | some (num, v) =>
    match inboxOwner s num l.handle with
    | none => refuseLeg s l ACCESS_DENIED
    | some s => searchOwned s l w g d ix run x out num v

/-- The end of a SEARCH Leg, or of a Leg whose SUBOP is above 3 (R288 to R295, R304). -/
def searchLeg (s : State) (l : LegRef) (run : SearchRun) : State :=
  match legOf s l, runOf s l with
  | some g, some x =>
    if g.kind = 2 ∧ (g.subop = 0 ∨ 3 < g.subop) ∧ legRuns s l then
      let w := whoOf s l
      if g.subop ≠ 0 then refuseLeg s l INTEGRITY
      else
        match searchDesc s w g with
        | .inl st => refuseLeg s l st
        | .inr d =>
          if !descObj s l.ctx d.index false then refuseLeg s l ACCESS_DENIED
          else
            match (rdName s w d.index 0 256).map (parseIDesc s) with
            | none =>
              if scratchOwn s l.ctx g 3 then refuseLeg s l INTEGRITY else refuseLeg s l ACCESS_DENIED
            | some ix =>
              match searchStatus s l.ctx g d ix with
              | 0 =>
                match opAt g 0, opAt g 2 with
                | some o, some out =>
                  if run.bad then resBad s l w g
                  else if d.inbox then searchInbox s l w g d ix run x o out
                  else if !querySetOk s w d ix o 0 then refuseLeg s l INTEGRITY
                  else searchEnd s l w g d ix run x.cut o 0
                | _, _ => refuseLeg s l INTEGRITY
              | st => refuseLeg s l st
    else s
  | _, _ => s

def execSearch (l : LegRef) (r : SearchRun) (s : State) : Host.Outcome State Fault Refusal := .next (onSnaps s l fun s => searchLeg s l r)

/-- The cut-off of a running SEARCH: what has not joined by now is abandoned (R291, pass 3). -/
def searchCutoff (s : State) (l : LegRef) (joined : List Nat) : State :=
  match legOf s l, runOf s l with
  | some g, some x =>
    match x.tcut with
    | some t =>
      if g.kind = 2 ∧ g.subop = 0 ∧ legRuns s l ∧ x.cut = none ∧ t ≤ s.sup.now then
        modRun s l fun x => { x with cut := some joined }
      else s
    | none => s
  | _, _ => s

def execSearchCutoff (l : LegRef) (joined : List Nat) (s : State) : Host.Outcome State Fault Refusal :=
  .next (searchCutoff s l joined)

/-! ### MERGE (R298) -/

/-- The hits of a result list. -/
def parseHits (b : Bytes) : List Hit :=
  (List.range (min (fld b 4 2) ((b.length - 64) / 24))).map fun i =>
    let e := b.drop (64 + 24 * i)
    ⟨fp32.decode (fld e 8 4), fld e 0 8, fld e 12 4, fld e 16 2, bit (fld e 18 2) 0⟩

/-- List `i` of a slot's bytes. -/
def slotList (d : SDesc) (b : Bytes) (i : Nat) : Bytes := (b.drop (64 + i * listBytes d)).take (listBytes d)

/-- Add one result list into a merged hit list, whose entries keep their own Tract and shard. -/
def mergeHits (ls : List Bytes) (k : Nat) : List Hit := ((ls.flatMap parseHits).foldl joinHit []).take k

/-- Totals of a slot header's bytes. -/
def totalsOf (b : Bytes) : SlotTotals :=
  ⟨fld b 16 8, fld b 24 4, fld b 28 4, fld b 32 4, fld b 36 4, fld b 40 4⟩

def SlotTotals.plus (a b : SlotTotals) : SlotTotals :=
  ⟨a.scanned + b.scanned, satAdd max32 a.full b.full, satAdd max32 a.summed b.summed, satAdd max32 a.near b.near,
   satAdd max32 a.main b.main, satAdd max32 a.archive b.archive⟩

/-- One merged list and whether it carries PARTIAL or SHARD_MISSING, and its first hit if its query is valid. -/
def mergeList (d : SDesc) (valid : List Bytes) (missing i : Nat) : Bytes × Bool × Option Hit :=
  let ls := valid.map fun b => slotList d b i
  let head := ls.headD (le (listBytes d) 0)
  let hits := mergeHits ls (min d.kmax (fld head 6 2))
  let sum (o n : Nat) : Nat := (ls.map fun b => fld b o n).foldl (· + ·) 0
  let part := ls.any fun b => bit (fld b 0x14 2) 0
  let inv := ls.any fun b => bit (fld b 0x14 2) 2
  let fl := b2n part + 2 * b2n (decide (0 < missing)) + 4 * b2n inv
  (listOut d (fld head 0 4) (fld head 6 2) ((head.drop 8).take 12) fl (sum 0x16 2 % 65536) (sum 0x18 2 % 65536) missing
    (min max32 (sum 0x1C 4)) hits, part || decide (0 < missing), if inv then none else hits.head?)

/-- The output slot of a MERGE over the bytes of a Result Set, whether any list carries PARTIAL or SHARD_MISSING, and the
condition bit (R295, R298). -/
def mergeSlots (d : SDesc) (b : Bytes) : Bytes × Bool × Bool :=
  let slots := (List.range d.slots).map fun i => (b.drop (i * slotSize d)).take (slotSize d)
  let valid := slots.filter fun x => fld x 0 1 == 1
  let count := min d.qcap ((valid.map fun x => fld x 4 4).foldl max 0)
  let ls := (List.range count).map (mergeList d valid (d.slots - valid.length))
  (slotHeader 1 0 0xFFFF count ((valid.head?.map fun x => fld x 8 4).getD 0) 0xFF ((valid.map totalsOf).foldl SlotTotals.plus {}) ++
    ls.flatMap (·.1) ++ le ((d.qcap - count) * listBytes d) 0, ls.any (·.2.1),
   d.cond && ls.any fun e => (e.2.2.map fun h => Val.le h.dist d.cdist).getD false)

/-- The start checks of a MERGE, in order (Table 8.12). -/
def mergeStatus (s : State) (c : Nat) (g : Leg) (d : SDesc) : Nat :=
  firstFail [resAccess s c g none, need (sdescOk d 1) INTEGRITY, need (scratchRoom s c g d) INTEGRITY,
    need (decide (d.slots * slotSize d ≤ roomAt s c g 0 ∧ slotSize d ≤ roomAt s c g 2)) INTEGRITY]

/-- The end of a MERGE Leg. -/
def mergeLeg (s : State) (l : LegRef) (r : EngineRun) : State :=
  match legOf s l with
  | none => s
  | some g =>
    if g.kind = 2 ∧ g.subop = 1 ∧ legRuns s l then
      let w := whoOf s l
      match searchDesc s w g with
      | .inl st => refuseLeg s l st
      | .inr d =>
        match mergeStatus s l.ctx g d with
        | 0 =>
          match opAt g 0, opAt g 2 with
          | some o, some out =>
            match (if r.bad then none else rdOp s w o 0 (d.slots * slotSize d)) with
            | none => resBad s l w g
            | some b =>
              let m := mergeSlots d b
              finishLeg s l { warn := if m.2.1 then 2 else 0, writes := [(out, 0, m.1)], cond := m.2.2,
                              tier := max (opTier s l.ctx o 0 (d.slots * slotSize d)) (opTier s l.ctx out 0 (slotSize d)) }
          | _, _ => refuseLeg s l INTEGRITY
        | st => refuseLeg s l st
    else s

def execMerge (l : LegRef) (r : EngineRun) (s : State) : Host.Outcome State Fault Refusal := .next (onSnaps s l fun s => mergeLeg s l r)

/-! ### FAN_OUT (R302) -/

/-- The frames of a QUERY: the first carries the budget, the others their byte offset (Table 10.11). -/
def queryFrames (s : State) (node service tag budget : Nat) (qs : Bytes) : List TieFrame :=
  let l := fragments (qs.length / 4096 + 1) 0 qs
  (enum l).map fun e =>
    { type := 0x20, cls := 2, dst := node, src := ownNode s, hops := 63,
      msg := [(0x14, 1, service), (0x15, 1, b2n (e.1 == 0) + 2 * b2n (e.1 + 1 == l.length)), (0x18, 4, tag),
              (0x1C, 4, if e.1 = 0 then budget else e.2.1)], payload := e.2.2 }

/-- The start checks of a FAN_OUT, in order (Table 8.12), but for its Query Set. -/
def fanStatus (s : State) (c : Nat) (g : Leg) (d : SDesc) : Nat :=
  firstFail [resAccess s c g none, need (descObj s c d.map false) ACCESS_DENIED, need (sdescOk d 2) INTEGRITY,
    need (decide (d.slots * slotSize d ≤ roomAt s c g 2 ∧ 4 * d.slots ≤ nameLength s c d.map ∧ 64 ≤ roomAt s c g 0)) INTEGRITY]

/-- The remote entries of a Shard Map: slot, Tie node and service (R302). -/
def fanRemote (d : SDesc) (m : Bytes) : List (Nat × Nat × Nat) :=
  (List.range d.slots).filterMap fun i =>
    if fld m (4 * i) 1 = 0xFF then none else some (i, fld m (4 * i) 1, fld m (4 * i + 1) 1)

/-- Budget of a FAN_OUT's queries in ns: free where the run has no end (R302). -/
def fanBudget (s : State) (x : LegRun) (d : SDesc) : Nat :=
  match x.tcut with
  | some t => min max32 (t - x.at_ - 2 * d.margin)
  | none => Config.freeNat s.free % 4294967296

/-- Start a FAN_OUT over the remote entries `rs`: every remote slot is marked missing, and the queries go out while there is
a budget (R302). -/
def fanStart (s : State) (l : LegRef) (x : LegRun) (d : SDesc) (out : OpEnt) (rs : List (Nat × Nat × Nat)) (qs : Bytes) : State :=
  let s := rs.foldl (fun s e => wrOp s l.ctx out (e.1 * slotSize d) [0]) s
  let budget := fanBudget s x d
  let id := s.fanSeq % 16777216
  let f : Fan := { leg := l, obj := out.obj, off := out.off, slotLen := slotSize d, nodes := rs.map (fun e => (e.1, e.2.1)),
                   missing := rs.map (·.1), id := id, listLen := listBytes d, query := qs.length - 64 }
  let s := { s with free := s.free + b2n x.tcut.isNone, fans := s.fans ++ [f], fanSeq := s.fanSeq + 1,
                    fanLegs := tput s.fanLegs id l }
  if budget = 0 then s
  else rs.foldl (fun s e => sendTo s e.2.1 (queryFrames s e.2.1 e.2.2 (id * 256 + e.1) budget qs)) s

/-- A FAN_OUT that has been dispatched sends its queries and waits (R302); its REPLY_TAG names the slot in bits [7:0]. -/
def fanOutLeg (s : State) (l : LegRef) (r : EngineRun) : State :=
  match legOf s l, runOf s l with
  | some g, some x =>
    if g.kind = 2 ∧ g.subop = 2 ∧ legRuns s l ∧ ¬ s.fans.any (fun f => f.leg == l) then
      let w := whoOf s l
      match searchDesc s w g with
      | .inl st => refuseLeg s l st
      | .inr d =>
        match fanStatus s l.ctx g d with
        | 0 =>
          match opAt g 0, opAt g 2 with
          | some o, some out =>
            match (if r.bad then none else rdOp s w o 0 64), rdName s w d.map 0 (4 * d.slots) with
            | some h, some m =>
              let n := fld h 0 4
              let size := 64 + n * queryBytes (fld h 4 2)
              if n = 0 ∨ d.qcap < n ∨ opRoom s l.ctx o < size then refuseLeg s l INTEGRITY
              else
                match rdOp s w o 0 size with
                | none => resBad s l w g
                | some qs => fanStart s l x d out (fanRemote d m) qs
            | _, _ => resBad s l w g
          | _, _ => refuseLeg s l INTEGRITY
        | st => refuseLeg s l st
    else s
  | _, _ => s

def execFanOut (l : LegRef) (r : EngineRun) (s : State) : Host.Outcome State Fault Refusal := .next (onSnaps s l fun s => fanOutLeg s l r)

/-- A FAN_OUT completes once every remote slot is filled, or at t_cut: what is missing gets REASON 1; every remote slot
without results is reported (R302, Table 8.16). What has been written into the remote slots is the Leg's output (R375). -/
def fanOutComplete (s : State) (l : LegRef) : State :=
  match s.fans.find? fun f => f.leg == l, runOf s l with
  | some f, some x =>
    if legRuns s l ∧ (f.missing = [] ∨ (x.tcut.map fun t => decide (t ≤ s.sup.now)).getD false) then
      let w := whoOf s l
      let out : OpEnt := ⟨f.obj, f.off, 0⟩
      let s := f.missing.foldl (fun s i => wrOp s l.ctx out (i * f.slotLen + 1) [1]) s
      let query := (legOf s l).bind (opAt · 0)
      let read := query.elim 0 fun o => opTier s l.ctx o 0 (64 + f.query)
      let tier := f.nodes.foldl (fun t e => max t (opTier s l.ctx out (e.1 * f.slotLen) f.slotLen)) read
      let writes := f.nodes.filterMap fun e =>
        (rdOp s w out (e.1 * f.slotLen) (if f.missing.contains e.1 then 2 else f.slotLen)).map fun b => (out, e.1 * f.slotLen, b)
      let bad := f.nodes.filterMap fun e =>
        match rdOp s w out (e.1 * f.slotLen) 2 with
        | some b => if fld b 0 1 = 0 then some (e.1, fld b 1 1, e.2) else none
        | none => none
      let s := bad.foldl (fun s e => event s l.ctx 0x0151 2
        [(0x10, 2, l.handle), (0x12, 2, l.leg), (0x14, 1, e.1), (0x15, 1, e.2.1), (0x16, 1, e.2.2)]) s
      let s := { s with fans := s.fans.filter fun g => g.leg != l }
      finishLeg s l { warn := if f.part || !bad.isEmpty then 2 else 0, tier := tier, writes := writes }
    else s
  | _, _ => s

def execFanOutComplete (l : LegRef) (s : State) : Host.Outcome State Fault Refusal := .next (onSnaps s l fun s => fanOutComplete s l)

/-! ### REPLY (R305) -/

/-- The end of a REPLY Leg: its slot goes to the origin of the entry at HEAD, and HEAD advances, but for a slot that says
there was no query to serve. -/
def replyLeg (s : State) (l : LegRef) (r : EngineRun) : State :=
  match legOf s l with
  | none => s
  | some g =>
    if g.kind = 2 ∧ g.subop = 3 ∧ legRuns s l then
      let w := whoOf s l
      match searchDesc s w g with
      | .inl st => refuseLeg s l st
      | .inr d =>
        match opAt g 0, (opAt g 1).bind fun o => serviceOf s l.ctx o.obj with
        | some o, some (num, v) =>
          match inboxOwner s num l.handle with
          | none => refuseLeg s l ACCESS_DENIED
          | some s =>
            if !sdescOk d 3 || decide (opRoom s l.ctx o < slotSize d) then refuseLeg s l INTEGRITY
            else
              match (if r.bad then none else rdOp s w o 0 (slotSize d)) with
              | none => finishLeg s l { status := INTEGRITY }
              | some b =>
                let (h, e) := inboxEnds s w v.inbox
                let tier := opTier s l.ctx o 0 (slotSize d)
                if h = e ∨ (fld b 0 1 = 0 ∧ fld b 1 1 = 7) then finishLeg s l { tier := tier }
                else
                  let env := (rdName s w v.inbox (inboxAt s w v.inbox v.depth h) 64).getD []
                  let slot := overlay b 12 (le 1 (ownNode s))
                  let s := sendTo s (fld env 0 1) (replyFrames s (fld env 0 1) (fld env 4 4) slot)
                  finishLeg (wrInbox s v 0 (le 4 (wrap32 (h + 1)))) l { tier := tier }
        | none, _ => refuseLeg s l INTEGRITY
        | _, none => refuseLeg s l ACCESS_DENIED
    else s

def execReply (l : LegRef) (r : EngineRun) (s : State) : Host.Outcome State Fault Refusal := .next (onSnaps s l fun s => replyLeg s l r)

/-! ### Services (R301) -/

/-- Status of a SERVICE_BIND whose objects are the context's own; `fits` says that the Inbox holds its layout. -/
def serviceStatus (s : State) (x : Ctx) (b : ServiceBindBody) (fits : Bool) : Nat :=
  firstFail [need (decide (b.service < 256) && (tget s.services b.service).isNone && decide (1 ≤ b.depth ∧ b.depth ≤ 64) && fits)
    CONFIG_REFUSED, refField x b.stake, refRight x b.stake true]

/-- SERVICE_BIND: field checks, the Stake's right, then the service with an empty Inbox (R301, R471). -/
def serviceBind (h : CmdHdr) (b : ServiceBindBody) (s : State) (x : Ctx) : CmdRes :=
  let own (id : Nat) : Option Obj := if 0xFFFFFF00 ≤ id then none else (objOf s h.ctx id).filter fun o => !inArchive o
  match own b.inbox, own b.index with
  | some i, some _ =>
    let dim := ((rdObj s (objKey h.ctx b.index) 6 2).map leNat).getD 0
    let size := inboxEntry b.qcap dim
    match serviceStatus s x b (64 + b.depth * size ≤ i.length) with
    | 0 =>
      let v : Service := ⟨h.ctx, b.inbox, b.depth, b.stake, b.index, b.qcap, none⟩
      { st := wrObj { s with services := tput s.services b.service v } (objKey h.ctx b.inbox) 0 (le 4 0 ++ le 4 0 ++ le 4 size) }
    | st => .refuse s st
  | _, _ => .refuse s CONFIG_REFUSED

def execServiceBind (h : CmdHdr) (b : ServiceBindBody) (s : State) : Host.Outcome State Fault Refusal :=
  .next (ctxCmd s (.serviceBind h b) h true (serviceBind h b))

/-- End a service: its unconsumed queries are discarded (R301). -/
def endService (s : State) (n : Nat) : State :=
  match tget s.services n with
  | none => s
  | some v =>
    let s := wrObj s (objKey v.ctx v.inbox) 0 ((rdObj s (objKey v.ctx v.inbox) 4 4).getD (le 4 0))
    { s with services := tdel s.services n }

/-- SERVICE_UNBIND; a service that is not the context's own is refused. -/
def serviceUnbind (h : CmdHdr) (n : Nat) (s : State) (_ : Ctx) : CmdRes :=
  match tget s.services n with
  | some v => if v.ctx = h.ctx then { st := endService s n } else .refuse s CONFIG_REFUSED
  | none => .refuse s CONFIG_REFUSED

def execServiceUnbind (h : CmdHdr) (service : Nat) (s : State) : Host.Outcome State Fault Refusal :=
  .next (ctxCmd s (.serviceUnbind h service) h true (serviceUnbind h service))

end Sys2Proof.Machine
end

