-- ==== Sys2Proof/Machine/Track.lean ====
section
/-!
DEFINITION. The object tracks of the Track Unit: TRACK_STEP (R219, R220, R243, R244, R246, R247). A Track Table's bytes hold
SELECT and, at the base of each half, the number of the commit that wrote it; what the commit left is in `State.tracks`
(log 13).
The model's own: log 36 (DEDUCED).
-/
namespace Sys2Proof.Machine
open Sys2Proof

/-- Base of a half of a Track Table (log 13). -/
def trackHalf (h : Nat) : Nat := 0x1000 + h * 0x4000

/-- A slot with its numbers as values. -/
structure TrackState where
  slot : TrackSlot
  x    : Vec
  p    : Mat

def toTrack (t : TrackSlot) : TrackState := ⟨t, t.x.map fp64.decode, t.p.map fun r => r.map fp64.decode⟩

def ofTrack (t : TrackState) : TrackSlot := { t.slot with x := t.x.map fp64.encode, p := t.p.map fun r => r.map fp64.encode }

/-- A detection in the world frame: its index, class, position and covariance. -/
structure Det where
  idx : Nat
  cls : Nat
  z   : Vec
  cov : Mat

/-! ### The steps of R244 -/

/-- Transition of a slot over `dt` seconds, by its number of components. -/
def trackF (n : Nat) (dt : Val) : Mat :=
  let k (x : Val) : Mat := diagMat [x, x, x]
  let f := putBlock (matId n) 0 3 (k dt)
  if n = 9 then putBlock (putBlock f 3 6 (k dt)) 0 6 (k (mul64 (mul64 dt dt) (pow2 (-1)))) else f

/-- Process noise of a slot, whose coefficients R244 does not state (log 12). -/
def trackQ (n : Nat) (sigma dt : Val) : Mat :=
  let m := if n = 9 then 1 else 0
  let q (i : Nat) : Mat := let x := fp64.decode (Config.trackNoise m (fp32.encode sigma) (fp64.encode dt) i); diagMat [x, x, x]
  let z : Mat := List.replicate n (zeroVec n)
  let a := putBlock (putBlock (putBlock (putBlock z 0 0 (q 0)) 0 3 (q 1)) 3 0 (q 1)) 3 3 (q 2)
  if n = 9 then putBlock (putBlock (putBlock (putBlock (putBlock a 0 6 (q 3)) 6 0 (q 3)) 3 6 (q 4)) 6 3 (q 4)) 6 6 (q 5) else a

def predictTrack (sigma dt : Val) (t : TrackState) : TrackState :=
  let n := t.x.length
  let f := trackF n dt
  { t with x := matVec f t.x, p := matAdd (matMul n (matMul n f t.p) (matT n f)) (trackQ n sigma dt) }

/-- The valid detections of a list, moved into the world frame by the ego pose (R228). -/
def detections (b : Bytes) (n : Nat) (h : EgoHist) : List Det :=
  let rot := qMat h.q
  (List.range n).filterMap fun i =>
    let e := (b.drop (48 * i)).take 48
    if bit (fld e 0x26 2) 0 then
      some ⟨i, fld e 0x24 2, vecAdd (matVec rot (vec32 e 0 3)) h.p,
        matMul 3 (matMul 3 rot (fromUpper 3 (vec32 e 0xC 6))) (matT 3 rot)⟩
    else none

/-- d² of a pair. -/
def pairD2 (t : TrackState) (z : Det) : Val := mahalanobis (matAdd (subBlock t.p 0 0 3 3) z.cov) (vecSub z.z (t.x.take 3))

/-- Take candidate pairs by least d², lower slot, lower detection; the first argument bounds their number. -/
def associate : Nat → List (Val × Nat × Nat) → List (Val × Nat × Nat)
  | 0, _ => []
  | n + 1, l =>
    let best := l.foldl (fun (a : Option (Val × Nat × Nat)) e => match a with
      | none => some e
      | some b => if e.1.lt b.1 || (!b.1.lt e.1 && lexLt [e.2.1, e.2.2] [b.2.1, b.2.2]) then some e else a) none
    match best with
    | none => []
    | some b => b :: associate n (l.filter fun e => e.2.1 != b.2.1 && e.2.2 != b.2.2)

/-- Update a slot with a detection in Joseph form (R230). -/
def updateTrack (t : TrackState) (z : Det) : TrackState :=
  let n := t.x.length
  let hp := subBlock t.p 0 0 3 n
  let ch := (cholesky (matAdd (subBlock t.p 0 0 3 3) z.cov)).1
  let k := (List.range n).map fun j => cholSolve ch (hp.map fun row => row.getD j .zero)
  let kh := k.map fun row => row ++ zeroVec (n - 3)
  let ikh := matSub (matId n) kh
  let cov := matAdd (matMul n (matMul n ikh t.p) (matT n ikh)) (matMul n (matMul 3 k z.cov) (matT 3 k))
  { t with x := vecAdd t.x (matVec k (vecSub z.z (t.x.take 3))), p := symmetrise cov }

/-- Advance a slot's window of `n` steps. -/
def stepWindow (n : Nat) (hit : Bool) (t : TrackSlot) : TrackSlot :=
  { t with win := (hit :: t.win).take n, misses := if hit then 0 else satAdd 65535 t.misses 1 }

def winHits (t : TrackSlot) : Nat := t.win.countP id

/-- A slot goes after a miss (step 7). -/
def trackGone (m n del : Nat) (t : TrackSlot) : Bool :=
  if t.conf then decide (del ≤ t.misses) else decide (winHits t + (n - t.win.length) < m)

/-- A new tentative track. -/
def newTrack (id model : Nat) (vel acc : Val) (z : Det) : TrackSlot :=
  let n := if model = 0 then 6 else 9
  let v := square vel
  let a := square acc
  let p := putBlock (diagMat ((zeroVec 3) ++ [v, v, v] ++ (if n = 9 then [a, a, a] else []))) 0 0 z.cov
  ofTrack ⟨{ id := id, win := [true], cls := z.cls, det := some (z.idx, 0), x := [], p := [] }, z.z ++ zeroVec (n - 3), p⟩

/-- Start tracks for the detections left, in the lowest free slots; with the number that found none. -/
def startTracks (slots model : Nat) (vel acc : Val) (t : TrackTab) (l : List Det) : TrackTab × Nat :=
  l.foldl (fun (a : TrackTab × Nat) z =>
    match lowestFree a.1.slots 0 slots with
    | none => (a.1, a.2 + 1)
    | some i => ({ a.1 with slots := tput a.1.slots i { newTrack a.1.next model vel acc z with det := none },
                            next := if a.1.next = 0xFFFFFFFF then 1 else a.1.next + 1 }, a.2)) (t, 0)

/-- Steps 2 to 9 of R244: the table after them, SLOT_FULL and UNASSOCIATED. -/
def trackStep (d : Bytes) (t : TrackTab) (tov : Int) (dets : List Det) : TrackTab × Nat × Nat :=
  let gate := if (f32At d 8).isZero then fp32.div (.ofNat 1134) (.ofNat 100) else f32At d 8
  let m := fld d 2 1
  let n := fld d 3 1
  let live := t.slots.map fun e => (e.1, predictTrack (f32At d 0xC) (seconds (tov - t.tov)) (toTrack { e.2 with det := none }))
  let cand := live.flatMap fun e => dets.filterMap fun z =>
    let x := pairD2 e.2 z
    if x.le gate then some (x, e.1, z.idx) else none
  let got := associate 64 cand
  let slots : Tbl TrackSlot := live.filterMap fun e =>
    match got.find? fun a => a.2.1 == e.1 with
    | some (x, _, i) =>
      match dets.find? fun z => z.idx == i with
      | some z =>
        let u := ofTrack (updateTrack e.2 z)
        some (e.1, stepWindow n true { u with cls := z.cls, det := some (i, fp32.encode x) })
      | none => none
    | none =>
      let u := stepWindow n false (ofTrack e.2)
      if trackGone m n (fld d 4 1) u then none else some (e.1, u)
  let slots := slots.map fun e => (e.1, if !e.2.conf && decide (m ≤ winHits e.2) then { e.2 with conf := true } else e.2)
  let left := dets.filter fun z => !got.any fun a => a.2.2 == z.idx
  let a := startTracks (fld d 1 1) (fld d 0 1) (f32At d 0x10) (f32At d 0x14) { t with slots := slots, tov := tov } left
  (a.1, a.2, left.length)

/-! ### The Track List (Table 6.14) -/

def trackEntry (t : TrackSlot) : Bytes :=
  let y := toTrack t
  let tri (i : Nat) : Bytes := bytes32 (upperTri (subBlock y.p i i 3 3))
  le 4 t.id ++ le 1 (if t.conf then 2 else 1) ++ le 1 (winHits t) ++ le 2 t.misses ++ bytes64 (y.x.take 3) ++
    bytes32 ((y.x.drop 3).take 3) ++ (if y.x.length = 9 then bytes32 (y.x.drop 6) else le 12 0) ++ tri 0 ++ tri 3 ++ le 2 t.cls ++
    le 2 ((t.det.map (·.1)).getD 0xFFFF) ++ le 4 ((t.det.map (·.2)).getD 0) ++ le 16 0

/-- An entry of a free slot. -/
def freeEntry : Bytes := le 0x6A 0 ++ le 2 0xFFFF ++ le 0x14 0

def trackList (t : TrackTab) (full unassoc late resets : Nat) : Bytes :=
  tovBytes t.tov ++ le 2 t.slots.length ++ le 2 (t.slots.countP fun e => e.2.conf) ++ le 4 full ++ le 4 unassoc ++ le 4 late ++
    le 4 resets ++ le 32 0 ++
    (List.range 64).flatMap fun i => ((tget t.slots i).map trackEntry).getD freeEntry

/-! ### TRACK_STEP -/

/-- The check of a Track Descriptor (Table 6.11). -/
def trackDescOk (d : Bytes) : Bool :=
  decide (fld d 0 1 ≤ 1 ∧ 1 ≤ fld d 1 1 ∧ fld d 1 1 ≤ 64 ∧ 1 ≤ fld d 2 1 ∧ fld d 2 1 ≤ 8 ∧ fld d 2 1 ≤ fld d 3 1 ∧ fld d 3 1 ≤ 8 ∧
    1 ≤ fld d 4 1)

/-- The table that the live half holds: that of the last commit, or an empty one where the half was zeroed since. -/
def liveTable (s : State) (k gen : Nat) : TrackTab :=
  match tget s.tracks k with
  | some t => if t.gen = gen ∧ gen ≠ 0 then t else { gen := t.gen }
  | none => {}

/-- A table of which no slot is associated in the Leg. -/
def noDets (t : TrackTab) : TrackTab := { t with slots := t.slots.map fun e => (e.1, { e.2 with det := none }) }

/-- What a TRACK_STEP reads: descriptor, list header and entries, Filter State, the live half and its table. -/
def trackWork (s : State) (l : LegRef) (o out : OpEnt) (k : Nat) (d h ents : Bytes) (f : Filt) (sel gen tier : Nat) : State :=
  let t := liveTable s k gen
  let tov := tovAt h 0
  match poseAt (if f.state = 0 then [] else f.hist) tov with
  | some pose =>
    if tov < t.tov then
      finishLeg s l { tier := tier, writes := [(out, 0, trackList (noDets t) 0 0 1 f.resets)] }
    else
      let a := trackStep d t tov (detections ents (fld h 0x10 4) pose)
      let n := { a.1 with gen := wrap32 t.gen + 1 }
      let s := { s with tracks := tput s.tracks k n }
      let s := if 0 < a.2.1 then event s l.ctx 0x0138 0 [(0x10, 4, o.obj), (0x14, 4, a.2.1), (0x18, 8, tovInt tov)] else s
      finishLeg s l
        { cond := decide (0 < a.2.1), tier := tier,
          writes := [(out, 0, trackList a.1 a.2.1 a.2.2 0 f.resets), (o, trackHalf (1 - sel), le 8 n.gen), (o, 0, le 4 (1 - sel))] }
  | none =>
    finishLeg s l { tier := tier, writes := [(out, 0, trackList (noDets t) 0 0 1 f.resets)] }

/-- The end of a TRACK_STEP. R243 to R247 give no outcome for a Detection List whose COUNT exceeds its CAPACITY, or whose CAPACITY is not 1
to 256: the Leg completes INTEGRITY and writes nothing (DESIGN CHOICE, log 36). -/
def trackLeg (s : State) (l : LegRef) (r : EngineRun) : State :=
  match legOf s l with
  | none => s
  | some g =>
    if g.kind = 3 ∧ g.subop = 1 ∧ legRuns s l then
      let w := whoOf s l
      if !trackNear s l.ctx g then refuseLeg s l ACCESS_DENIED
      else
        match opAt g 0, opAt g 1, opAt g 2, opAt g 3, rdName s w g.desc 0 64 with
        | some o, some dl, some fs, some out, some d =>
          let sel := ((rdOp s w o 0 4).map leNat).getD 0 % 2
          let fsel := ((rdOp s w fs 0 4).map leNat).getD 0 % 2
          match rdOp s w o (trackHalf sel) 8, rdOp s w dl 0 64, rdOp s w fs (egoHalf fsel) egoBytes, objNamed s l.ctx o.obj with
          | some gen, some h, some fb, some (k, _) =>
            let n := fld h 0x10 4
            match rdOp s w dl 64 (48 * n) with
            | none => refuseLeg s l INTEGRITY
            | some ents =>
              if r.bad ∨ !trackDescOk d ∨ fld h 0xC 4 = 0 ∨ 256 < fld h 0xC 4 ∨ fld h 0xC 4 < n ∨
                  opRoom s l.ctx o < 36864 ∨ opRoom s l.ctx fs < 323584 ∨ opRoom s l.ctx out < 8256 ∨ !isOut out then
                refuseLeg s l INTEGRITY
              else trackWork s l o out k d h ents (parseFilt fb) sel (leNat gen) (opsTier s l.ctx g)
          | _, _, _, _ => refuseLeg s l INTEGRITY
        | _, _, _, _, _ => refuseLeg s l INTEGRITY
    else s

def execTrackStep (l : LegRef) (r : EngineRun) (s : State) : Host.Outcome State Fault Refusal := .next (onSnaps s l fun s => trackLeg s l r)

end Sys2Proof.Machine
end

