-- ==== Sys2Proof/Machine/Stops.lean ====
section
/-!
DEFINITION. Legs that are stopped: the output ranges of each engine, the end of an abort, the watchdog (R83, R94, R95).
The model's own: log 23 (DEDUCED).
-/
namespace Sys2Proof.Machine
open Sys2Proof

/-- The ranges that a stopped Leg may have written: its outputs and its scratch (R95, R275). A Filter State, a Track Table and a Solution,
committed by halves, stay exactly as they were (R220, R246, R272). -/
def stopRanges (s : State) (w : Who) (g : Leg) : List (OpEnt × Nat × Nat) :=
  let outs := match g.kind with
    | 0 => ((readProg s w g).map progRanges).getD []
    | 1 => ((rdName s w g.desc 0 128).map fun d => pxRanges g (parsePx d)).getD []
    | 2 => resRanges s w g
    | 3 => if g.subop = 1 then (opAt g 3).toList.map fun p => (p, 0, opRoom s w.ctx p) else []
    | 4 =>
      match rdName s w g.desc 0 256 with
      | some d =>
        (if bit (fld d 0x23 1) 1 then (opAt g 2).toList.map fun p => (p, 0, 224) else []) ++
          (if fld d 0x90 4 = 0 then [] else
            let p : OpEnt := ⟨fld d 0x90 4, 0, 0⟩
            [(p, 0, opRoom s w.ctx p)])
      | none => []
    | 5 => (opAt g 0).toList.map fun p => (p, 0, opRoom s w.ctx p)
    | _ => []
  outs ++ (scratchOf g).toList.map fun p => (p, 0, opRoom s w.ctx p)

/-- Make the output ranges of a stopped Leg undefined, but for what is no output of its own. -/
def spoil (s : State) (w : Who) (g : Leg) : State := freeRanges s w.ctx (stopRanges s w g)

/-- The same where an error has stopped it: a Tensor Leg's tally is undefined too (R83, R216). -/
def spoilAll (s : State) (w : Who) (g : Leg) : State :=
  let tally := if g.kind = 0 then ((readProg s w g).map tallyRange).getD [] else []
  freeRanges (spoil s w g) w.ctx tally

/-- The first boundary action under way in which a Leg still aborts, with what comes before and after it. -/
def splitEnding (leg : Nat) : List Ending → Option (List Ending × Ending × List Ending)
  | [] => none
  | e :: r =>
    if (e.run.legs[leg]?.map fun x => decide (x.st = .aborting)).getD false then some ([], e, r)
    else (splitEnding leg r).map fun x => (e :: x.1, x.2)

/-- A Leg is stopped part way. Whether an Adjustment Engine had begun its commit is open, and a commit begun is finished (R220, R272, R275):
a free choice (log 23). -/
def settleCommit (s : State) (w : Who) (l : LegRef) (g : Leg) (x : LegRun) (end_ : Option Nat) : State :=
  if g.kind = 4 then
    let writes := if Config.freeNat s.free % 2 = 1 then adjCommit s w l g x end_ else []
    writes.foldl (fun s e => wrOp s l.ctx e.1 e.2.1 e.2.2) { s with free := s.free + 1 }
  else s

/-- An aborting engine has stopped: its Leg completes ABORTED_BOUNDARY, stamped then, 1,000 ns after the boundary at the
latest; its outputs are undefined and no signal is applied (R94, R95, R96). -/
def legAbortDone (s : State) (l : LegRef) : State :=
  match travOf s l.ctx l.handle, legOf s l with
  | some t, some g =>
    match splitEnding l.leg t.ending with
    | none => s
    | some (a, e, b) =>
      let w := subWarn s l.ctx g ABORTED_BOUNDARY 0
      let w' : Who := { ctx := l.ctx, handle := l.handle, k := e.run.k, began := e.run.began }
      let s := match e.run.legs[l.leg]? with
        | some x => settleCommit s w' l g x (some e.at_)
        | none => s
      let s := spoil s w' g
      let run := { e.run with legs := setAt e.run.legs l.leg fun x => { x with st := .done ABORTED_BOUNDARY, warn := w } }
      let s := modTrav s l.ctx l.handle fun t => { t with ending := a ++ { e with run := run } :: b }
      record s l.ctx (.cq (legRec s t e.run.k l g ABORTED_BOUNDARY w 0 (min s.sup.now (e.at_ + 1000))))
  | _, _ => s

def execLegAbortDone (l : LegRef) (s : State) : Host.Outcome State Fault Refusal := .next (onSnaps s l fun s => legAbortDone s l)

/-- Issue cycles that a Leg's engine can have had since its start or rerun, in 64ths: those that were not paced away (R83); the Chain Unit
is not paced (R49). -/
def issuedFor (s : State) (l : LegRef) (g : Leg) (x : LegRun) : Nat :=
  if g.kind = 5 then (s.sup.now - x.from_) * 64 else issuedNow s (crewPlat s l.ctx g.stn) - x.iss

/-- A Leg's engine has issued for more than twice CYCLES. -/
def overIssued (s : State) (l : LegRef) (g : Leg) (x : LegRun) : Bool :=
  decide (g.kind ≤ 5) && legRuns s l && decide (128 * g.cycles < issuedFor s l g x)

/-- The Leg is stopped and completes INTEGRITY, its outputs undefined (R83). -/
def legWatchdogStop (s : State) (l : LegRef) : State :=
  match legOf s l with
  | some g => finishLeg { spoilAll s (whoOf s l) g with fans := s.fans.filter fun f => f.leg != l } l { status := INTEGRITY }
  | none => s

end Sys2Proof.Machine
end

