-- ==== Sys2Proof/Machine/Tie.lean ====
section
/-!
DEFINITION. The Tie Ports: frames received, retry, link states, topology and routes, landings and outlets, bulk transfers,
queries and replies from other packages (R301 to R306, R369 to R377, R394, R426 to R428).
The model's own: log 26 (DEDUCED).
-/
namespace Sys2Proof.Machine
open Sys2Proof

/-! ### Topology and routes (R426, R427) -/

/-- The link is up for routing: ACTIVE, or in RECOVERY, which loses nothing (R368, R373). -/
def tieUp (s : State) (t : Nat) : Bool := decide ((tieOf s t).st = .active) || decide ((tieOf s t).st = .recovery)

/-- The neighbour on a Tie Port as a record gives it. -/
def tieNeighbour (s : State) (t : Nat) : Nat := if t < nTie s ∧ tieUp s t then (tieOf s t).peerNode else 0xFF

/-- Both ends of a link report it. -/
def linked (r : Tbl Topo) (a b : Nat) : Bool :=
  match tget r a, tget r b with
  | some x, some y => (x.n0 == b || x.n1 == b) && (y.n0 == a || y.n1 == a)
  | _, _ => false

/-- Nodes reached from a set within a number of further hops, with their distance; `ban` is never entered. -/
def spread (r : Tbl Topo) (ban : Nat) : Nat → Nat → List (Nat × Nat) → List (Nat × Nat)
  | 0, _, seen => seen
  | n + 1, d, seen =>
    let new := (List.range 64).filter fun b => b != ban && !(seen.any fun e => e.1 == b) &&
      seen.any fun e => e.2 == d && linked r e.1 b
    spread r ban n (d + 1) (seen ++ new.map fun b => (b, d + 1))

/-- Distances from the neighbour on a port, when both ends report the link, without passing the package itself. -/
def portDist (s : State) (t : Nat) : List (Nat × Nat) :=
  let me := ownNode s
  let n := tieNeighbour s t
  if n < 64 ∧ n ≠ me ∧ linked s.tpt.records me n then spread s.tpt.records me 64 1 [(n, 1)] else []

/-- The port for each reachable node: the shorter way, TP0 when both are equally long. -/
def routesNow (s : State) : Tbl Nat :=
  let d0 := portDist s 0
  let d1 := portDist s 1
  (List.range 64).filterMap fun b =>
    match (d0.find? fun e => e.1 == b).map (·.2), (d1.find? fun e => e.1 == b).map (·.2) with
    | some x, some y => some (b, if x ≤ y then 0 else 1)
    | some _, none => some (b, 0)
    | none, some _ => some (b, 1)
    | none, none => none

/-- Adopt the routes of the records held; a change writes TIE_TOPOLOGY to the Surveyor contexts (R427, R447). -/
def reroute (s : State) : State :=
  let r := routesNow s
  if r = s.tpt.routes then s
  else
    let s := { s with tpt := { s.tpt with routes := r } }
    eventTo s (surveyors s) 0x0403 0 [(0x10, 1, r.length), (0x18, 8, r.foldl (fun m e => m + 2 ^ e.1) 0),
      (0x20, 1, (r.filter fun e => e.2 == 0).length), (0x21, 1, (r.filter fun e => e.2 == 1).length)]

/-- Send a topology record on the ACTIVE links but `not_`. -/
def sendRecord (s : State) (origin : Nat) (x : Topo) (not_ : Option Nat) : State :=
  ((List.range (nTie s)).filter fun t => decide ((tieOf s t).st = .active) && not_ != some t).foldl
    (fun s t => sendControl s t 0x05 [] (le 1 origin ++ le 1 x.n0 ++ le 1 x.n1 ++ le 1 0 ++ le 4 x.rseq ++ le 8 0)) s

/-- Make and send a new record of the package's own (R426). -/
def ownRecord (s : State) : State :=
  let n := wrap32 (s.tpt.rseq + 1)
  let x : Topo := ⟨tieNeighbour s 0, tieNeighbour s 1, n⟩
  let s := { s with tpt := { s.tpt with rseq := n, records := tput s.tpt.records (ownNode s) x, lastRec := s.sup.now } }
  reroute (sendRecord s (ownNode s) x none)

def topologyRecordTimer (s : State) : State :=
  if s.sup.running ∧ s.tpt.lastRec + 100000000 ≤ s.sup.now then ownRecord s else s

def execTopologyRecordTimer (s : State) : Host.Outcome State Fault Refusal := .next (topologyRecordTimer s)

/-! ### Outlets that wait (R375, R377) -/

/-- Let the completions that wait for an outlet settle, the first argument at most. -/
def releaseWaiting : Nat → State → Nat → State
  | 0, s, _ => s
  | n + 1, s, k =>
    if outletFull s k then s
    else
      match (tget s.outlets k).map (·.waiting) with
      | some (w :: r) => releaseWaiting n (settleOutlets (modOutlet s k fun o => { o with waiting := r }) w) k
      | _ => s

def releaseOutlet (s : State) (k : Nat) : State := releaseWaiting (((tget s.outlets k).map fun o => o.waiting.length).getD 0) s k

/-- The outlet with an unacknowledged transfer to a node's landing under a tag. -/
def findSent (s : State) (node landing tag : Nat) : Option (Nat × Sent) :=
  s.outlets.findSome? fun e =>
    if e.2.node = node ∧ e.2.landing = landing then (e.2.unacked.find? fun w => w.tag == tag).map fun w => (e.1, w) else none

/-- A transfer of an outlet unbound since, under the same names. -/
def isLoose (node landing tag : Nat) (x : Loose) : Bool := x.node == node && x.landing == landing && x.sent.tag == tag

/-- A transfer is no longer awaited. -/
def dropSent (s : State) (k tag : Nat) : State :=
  modOutlet s k fun o => { o with unacked := o.unacked.filter fun w => w.tag != tag }

/-- The outcome of a transfer arrives: first of an outlet unbound since, which sent it earlier; one that is no longer awaited is counted
(R377). -/
def transferDone (s : State) (node landing tag reason : Nat) : State :=
  match s.loose.find? (isLoose node landing tag) with
  | some x =>
    let s := { s with loose := s.loose.erase x }
    if reason = 0 then s else writeFailed s x.sent reason node
  | none =>
    match findSent s node landing tag with
    | none => { s with tpt := { s.tpt with lateAcks := satAdd max32 s.tpt.lateAcks 1 } }
    | some (k, w) =>
      let s := dropSent s k tag
      releaseOutlet (if reason = 0 then s else writeFailed s w reason node) k

/-- No answer within ACK_TIMEOUT. -/
def ackTimeout (s : State) (c h tag : Nat) : State :=
  let k := outletKey c h
  match s.loose.find? fun x => x.outlet == k && x.sent.tag == tag with
  | some x => if x.sent.limit ≤ s.sup.now then writeFailed { s with loose := s.loose.erase x } x.sent 5 x.node else s
  | none =>
    match tget s.outlets k with
    | none => s
    | some o =>
      match o.unacked.find? fun w => w.tag == tag with
      | some w => if w.limit ≤ s.sup.now then releaseOutlet (writeFailed (dropSent s k tag) w 5 o.node) k else s
      | none => s

def execAckTimeout (ctx outlet tag : Nat) (s : State) : Host.Outcome State Fault Refusal := .next (ackTimeout s ctx outlet tag)

/-! ### Link states (R373, Table 10.12) -/

/-- Variant number in HELLO. -/
def variantNum (s : State) : Nat := nPlats s

/-- Enter HELLO and send one (Table 10.11, R371). -/
def enterHello (s : State) (t : Nat) : State :=
  let s := modTie s t fun x => { x with st := .hello, retryAt := none }
  sendControl s t 0x03 [(0x14, 1, ownNode s), (0x15, 1, variantNum s), (0x16, 2, tieEpoch s), (0x18, 2, 64), (0x1A, 2, 4096),
    (0x1C, 2, 1024), (0x1E, 2, 1024)] []

/-- Fail the unacknowledged transfers that are routed over a port (R373). -/
def failRouted (s : State) (t : Nat) : State :=
  let hit := s.outlets.filter fun e => routeTo s e.2.node == some t
  let gone := s.loose.filter fun x => routeTo s x.node == some t
  let s := gone.foldl (fun s x => writeFailed { s with loose := s.loose.erase x } x.sent 6 x.node) s
  hit.foldl (fun s e => releaseOutlet (e.2.unacked.foldl (fun s w => writeFailed (dropSent s e.1 w.tag) w 6 e.2.node) s) e.1) s

/-- The link goes DOWN; one that was up loses its frames and its transfers, and leaves the topology (R373, R426). -/
def tieLinkDown (s : State) (t : Nat) (retry : Option Nat) : State :=
  let was := tieUp s t
  let s := modTie s t fun x =>
    { x with st := .down, good := [], peerNode := 0xFF, queue := [], replay := [], owed := [0, 0, 0, 0], credits := [0, 0, 0, 0],
             parts := [], session := false, txKey := [], txIv := [], rxKey := [], rxIv := [], retryAt := retry }
  let s := { s with mon := { s.mon with sessions := s.mon.sessions.filter fun x => x.resp != .tieAuth t } }
  if was then ownRecord (failRouted s t) else s

/-- REFUSED, with its event and its retry after 1 s. -/
def tieRefuse (s : State) (t reason node epoch : Nat) : State :=
  let s := modTie s t fun x => { x with st := .refused, retryAt := some (s.sup.now + 1000000000) }
  eventTo s (surveyors s) 0x0421 0 [(0x10, 1, t), (0x11, 1, reason), (0x12, 1, node), (0x14, 2, epoch)]

/-- The Tie Port may run: its Plat is released and in service, it is enabled, and neither a replaced setting (R464), nor the
Terminal state (R414), nor a thermal trip (R446) holds it DOWN. -/
def tieAllowed (s : State) (t : Nat) : Bool :=
  decide (t < nTie s) && (tieOf s t).ctrl.enable && !s.glb.tieHold && s.sup.running && !terminal s && !s.sup.tripped &&
    (decide ((platOf s (tiePlat s t)).st = .measuring) || decide ((platOf s (tiePlat s t)).st = .ready))

def tieLightDetect (s : State) (t lanes : Nat) : State :=
  let x := tieOf s t
  if tieAllowed s t ∧ x.st = .down ∧ x.retryAt.isNone ∧ 2 ≤ lanes then modTie s t fun x => { x with st := .levelRun } else s

def execTieLightDetect (t lanes : Nat) (s : State) : Host.Outcome State Fault Refusal := .next (tieLightDetect s t lanes)

def tieLightLoss (s : State) (t : Nat) : State := if t < nTie s ∧ (tieOf s t).st ≠ .down then tieLinkDown s t none else s

def execTieLightLoss (t : Nat) (s : State) : Host.Outcome State Fault Refusal := .next (tieLightLoss s t)

/-- The time of a port's retry has come. -/
def retryDue (s : State) (t : Nat) : Bool := ((tieOf s t).retryAt.map fun n => decide (n ≤ s.sup.now)).getD false

def tieRefusedRetry (s : State) (t : Nat) : State := if (tieOf s t).st = .refused ∧ retryDue s t then enterHello s t else s

def execTieRefusedRetry (t : Nat) (s : State) : Host.Outcome State Fault Refusal := .next (tieRefusedRetry s t)

def tieDownRetry (s : State) (t : Nat) : State :=
  if tieAllowed s t ∧ (tieOf s t).st = .down ∧ retryDue s t then modTie s t fun x => { x with st := .levelRun, retryAt := none } else s

def execTieDownRetry (t : Nat) (s : State) : Host.Outcome State Fault Refusal := .next (tieDownRetry s t)

/-- Send every unacknowledged frame again, with its own LSEQ, the LACK of now, and units that are owed, each once (R371, R372). -/
def resend (s : State) (t : Nat) : State :=
  let s := (tieOf s t).replay.foldl (fun s f =>
    let x := tieOf s t
    modTie (emit s (.tie t { f with lack := x.rxSeq, credit := x.owed.map (min 255) })) t fun x => { x with owed := x.owed.map (· - 255) }) s
  modTie s t fun x => { x with lackAt := s.sup.now }

/-- A Level Run of a Tie Port ends (R366 to R368). -/
def tieLevelDone (s : State) (t : Nat) (good : List Nat) : State :=
  let x := tieOf s t
  let no := some (s.sup.now + 100000000)
  match x.st with
  | .levelRun => if good.isEmpty then tieLinkDown s t no else enterHello (modTie s t fun x => { x with good := good }) t
  | .recovery =>
    if good.isEmpty then tieLinkDown s t no
    else drainTie (resend (modTie s t fun x => { x with st := .active, good := good }) t) t
  | _ => s

/-! ### Frames received (R370 to R372) -/

/-- LACK and CREDIT of a received frame: acknowledged frames leave the replay buffer, units come back, waiting frames go. -/
def gotHeader (s : State) (t : Nat) (h : TieHdr) : State :=
  let x := tieOf s t
  let kept := x.replay.filter fun f => decide (2147483648 ≤ sub32 f.lseq h.lack) == false
  let s := modTie s t fun x =>
    { x with replay := kept, credits := List.zipWith (fun a b => a + b) x.credits (h.credit ++ List.replicate 4 0),
             lackAt := if kept.length < x.replay.length then s.sup.now else x.lackAt }
  drainTie s t

/-- A control frame of `len` payload bytes is taken: its units are owed (R371), its LACK and CREDIT count. -/
def gotControl (s : State) (t : Nat) (h : TieHdr) (len : Nat) : State :=
  gotHeader (modTie s t fun x => { x with owed := setAt x.owed 0 (· + ceilDiv (32 + len + 4) 64) }) t h

/-- Count a NAK sent or received. -/
def countNak (s : State) (t : Nat) : State := modTie s t fun x => { x with naks := satAdd max32 x.naks 1 }

/-- Discard a frame whose TYPE is unknown or whose HOPS are spent (R370). -/
def badFrame (s : State) : State := { s with tpt := { s.tpt with badFrame := satAdd 65535 s.tpt.badFrame 1 } }

/-- Take a frame of class 1 to 3: its CRC, its place in the sequence, its tag, then its acknowledgement and the units it
frees (R371, R372). One that was taken before is acknowledged again (log 26). The package after it, and whether its content is taken. -/
def takeFrame (s : State) (t : Nat) (h : TieHdr) (cls len : Nat) : State × Bool :=
  let x := tieOf s t
  if t < nTie s ∧ x.st = .active then
    if !h.crcOk then (sendControl (countNak s t) t 0x02 [(0x14, 4, x.rxSeq)] [], false)
    else if h.lseq ≠ x.rxSeq then
      (if 2147483648 ≤ sub32 h.lseq x.rxSeq then sendControl s t 0x01 [] [] else s, false)
    else if !h.tagOk then
      let s := modTie s t fun x => { x with tagFails := satAdd max32 x.tagFails 1 }
      (tieLinkDown (logFault s 0x0C (tiePlat s t) 0 t 0) t none, false)
    else
      let units := ceilDiv (32 + len + 16 + 4) 64
      let s := modTie s t fun x =>
        { x with rxSeq := wrap32 (x.rxSeq + 1), owed := setAt x.owed cls (· + units) }
      (sendControl (gotHeader s t h) t 0x01 [] [], true)
  else (s, false)

/-- A frame is addressed to this package. -/
def forUs (s : State) (h : TieHdr) : Bool := h.dst == ownNode s

/-- A control frame of a link that runs. -/
def takeControl (s : State) (t : Nat) (h : TieHdr) : Bool := decide (t < nTie s) && h.crcOk && decide ((tieOf s t).st = .active)

def idleCredit (s : State) (t : Nat) (h : TieHdr) : State := if takeControl s t h then gotControl s t h 0 else s

def execIdleCredit (t : Nat) (h : TieHdr) (s : State) : Host.Outcome State Fault Refusal := .next (idleCredit s t h)

/-- NAK: what comes before the LSEQ expected is acknowledged, the rest is sent again. -/
def nak (s : State) (t : Nat) (h : TieHdr) (expected : Nat) : State :=
  if takeControl s t h then
    let s := countNak (gotControl s t { h with lack := expected } 0) t
    resend s t
  else s

def execNak (t : Nat) (h : TieHdr) (expected : Nat) (s : State) : Host.Outcome State Fault Refusal := .next (nak s t h expected)

/-- LACK has not advanced for 20,000 ns. -/
def tieReplayTimeout (s : State) (t : Nat) : State :=
  let x := tieOf s t
  if x.st = .active ∧ ¬ x.replay.isEmpty ∧ x.lackAt + 20000 ≤ s.sup.now then resend s t else s

def execTieReplayTimeout (t : Nat) (s : State) : Host.Outcome State Fault Refusal := .next (tieReplayTimeout s t)

/-- A link has entered AUTH: the package of the lower node number, as Requester, sends its GET_VERSION; not while Plat 0 switches (R394,
R410). -/
def beginAuth (s : State) (t : Nat) : State :=
  let x := tieOf s t
  if x.st = .auth ∧ ownNode s < x.peerNode ∧ ¬ (platOf s 0).switching then transmit s t (authFrame s [0x10, 0x84, 0, 0]) else s

/-- HELLO from the neighbour (Table 10.12). -/
def hello (s : State) (t : Nat) (h : TieHdr) (node epoch : Nat) (grants : List Nat) : State :=
  if t < nTie s ∧ h.crcOk ∧ (tieOf s t).st = .hello then
    let s := modTie s t fun x => { x with peerNode := node, peerEpoch := epoch, credits := grants.take 4 }
    let own := tieEpoch s
    if node = ownNode s then tieRefuse s t 1 node epoch
    else if own + 1 < epoch ∨ epoch + 1 < own then tieRefuse s t 2 node epoch
    else beginAuth (modTie s t fun x => { x with st := .auth }) t
  else s

def execHello (t : Nat) (h : TieHdr) (node variant epoch : Nat) (grants : List Nat) (s : State) :
    Host.Outcome State Fault Refusal :=
  .next (hello (if t < nTie s ∧ h.crcOk ∧ (tieOf s t).st = .hello then modTie s t fun x => { x with variant := variant } else s)
    t h node epoch grants)

/-- The checks and the session of an authentication all held: of the peer's Field Lock only where this package is locked (R394). -/
def authHolds (s : State) (a : PeerAuth) : Bool := a.root && a.session && (!s.fuses.fieldLock || a.locked)

/-- The SPDM run of a link ends: it is ACTIVE under the keys of its session, or REFUSED, its session with it (R373, R394). -/
def endAuth (s : State) (t : Nat) (ok : Bool) : State :=
  let x := tieOf s t
  if ok then
    let s := modTie s t fun x =>
      { x with st := .active, session := true, txSeq := 0, rxSeq := 0, replay := [], lackAt := s.sup.now, owed := [0, 0, 0, 0] }
    ownRecord (newLinkKeys s t true true)
  else
    let s := { s with mon := { s.mon with sessions := s.mon.sessions.filter fun x => x.resp != .tieAuth t } }
    logFault (tieRefuse s t 3 x.peerNode x.peerEpoch) 0x0C (tiePlat s t) 0 t 0

/-- An AUTH frame; one that ends the authentication brings the link to ACTIVE or to REFUSED. While Plat 0 switches it waits (R410). -/
def auth (s : State) (t : Nat) (h : TieHdr) (done : Option PeerAuth) : State :=
  if t < nTie s ∧ h.crcOk ∧ (tieOf s t).st = .auth ∧ ¬ (platOf s 0).switching ∧ s.mon.running then
    done.elim s fun a => endAuth s t (authHolds s a)
  else s

def execAuth (t : Nat) (h : TieHdr) (done : Option PeerAuth) (s : State) : Host.Outcome State Fault Refusal :=
  .next (auth s t h done)

/-- A topology record from a neighbour: a newer one is kept and sent on, an older or equal one discarded (R426). -/
def topology (s : State) (t : Nat) (h : TieHdr) (origin n0 n1 rseq : Nat) : State :=
  if takeControl s t h then
    let s := gotControl s t h 16
    let newer : Bool := match tget s.tpt.records origin with
      | none => true
      | some x => x.rseq != rseq && decide (sub32 rseq x.rseq < 2147483648)
    if newer ∧ origin ≠ ownNode s then
      let x : Topo := ⟨n0, n1, rseq⟩
      reroute (sendRecord { s with tpt := { s.tpt with records := tput s.tpt.records origin x } } origin x (some t))
    else s
  else s

def execTopology (t : Nat) (h : TieHdr) (origin n0 n1 rseq : Nat) (s : State) : Host.Outcome State Fault Refusal :=
  .next (topology s t h origin n0 n1 rseq)

/-- CLASS of a message TYPE that is forwarded (Table 10.11). -/
def typeClass : Nat → Option Nat
  | 0x10 => some 1
  | 0x20 => some 2
  | 0x11 => some 3
  | 0x12 => some 3
  | 0x21 => some 3
  | _ => none

/-- A TYPE that Table 10.11 or R426 names. -/
def typeKnown (type : Nat) : Bool := (typeClass type).isSome || (1 ≤ type && type ≤ 5)

/-- A frame of an unknown TYPE is discarded and counted, whatever its DST and the state of a link past its Level Run; one of classes 1 to 3
takes its place in the sequence, and one of class 0 its units (R370 to R372). -/
def unknownFrame (s : State) (t : Nat) (h : TieHdr) (len : Nat) : State :=
  if t < nTie s ∧ h.crcOk then
    if h.cls = 0 then
      if (tieOf s t).st = .active then gotControl (badFrame s) t h len
      else if (tieOf s t).st = .down ∨ (tieOf s t).st = .levelRun then s else badFrame s
    else let r := takeFrame s t h h.cls len; if r.2 then badFrame r.1 else r.1
  else s

/-- A frame for another node goes on by its route, with one hop less; one of an unknown TYPE is discarded, whatever its DST
(R369, R370). -/
def tieFrameForward (s : State) (t : Nat) (h : TieHdr) (type : Nat) (msg payload : Bytes) : State :=
  match typeClass type with
  | none => if typeKnown type then s else unknownFrame s t h payload.length
  | some cls =>
    if forUs s h ∨ h.dst = 0xFF then s
    else
      let r := takeFrame s t h cls payload.length
      if !r.2 then r.1
      else if h.hops = 0 then badFrame r.1
      else sendTo r.1 h.dst [{ type := type, cls := cls, dst := h.dst, src := h.src, hops := h.hops - 1, msg := [(0x14, 12, leNat msg)],
                               payload := payload }]

def execTieFrameForward (t : Nat) (h : TieHdr) (type : Nat) (msg payload : Bytes) (s : State) :
    Host.Outcome State Fault Refusal := .next (tieFrameForward s t h type msg payload)

/-! ### Landings and outlets (R374) -/

/-- The context's own object in the Near or Main tier. -/
def ownAbove (s : State) (c id : Nat) : Option Obj :=
  if 0xFFFFFF00 ≤ id then none else (objOf s c id).filter fun o => !inArchive o

def landingBind (h : CmdHdr) (n obj arrive : Nat) (s : State) (x : Ctx) : CmdRes :=
  match firstFail [need (decide (n < 256) && (tget s.landings n).isNone && (ownAbove s h.ctx obj).isSome) CONFIG_REFUSED,
      refField x arrive, refRight x arrive true] with
  | 0 => { st := { s with landings := tput s.landings n ⟨h.ctx, obj, arrive⟩ } }
  | st => .refuse s st

def execLandingBind (h : CmdHdr) (landing obj arrive : Nat) (s : State) : Host.Outcome State Fault Refusal :=
  .next (ctxCmd s (.landingBind h landing obj arrive) h true (landingBind h landing obj arrive))

def landingUnbind (h : CmdHdr) (n : Nat) (s : State) (_ : Ctx) : CmdRes :=
  match tget s.landings n with
  | some l => if l.ctx = h.ctx then { st := { s with landings := tdel s.landings n } } else .refuse s CONFIG_REFUSED
  | none => .refuse s CONFIG_REFUSED

def execLandingUnbind (h : CmdHdr) (landing : Nat) (s : State) : Host.Outcome State Fault Refusal :=
  .next (ctxCmd s (.landingUnbind h landing) h true (landingUnbind h landing))

def outletBind (h : CmdHdr) (obj node landing off : Nat) (s : State) (_ : Ctx) : CmdRes :=
  if (ownAbove s h.ctx obj).isNone ∨ 63 < node ∨ 255 < landing ∨ 2 ^ 48 ≤ off then .refuse s CONFIG_REFUSED
  else
    match lowestFree s.outlets (outletKey h.ctx 0) 64 with
    | none => .refuse s RESOURCE_FULL
    | some n =>
      { st := { s with outlets := tput s.outlets (outletKey h.ctx n) { ctx := h.ctx, obj := obj, node := node, landing := landing, offset := off } },
        result := n }

def execOutletBind (h : CmdHdr) (obj node landing offset : Nat) (s : State) : Host.Outcome State Fault Refusal :=
  .next (ctxCmd s (.outletBind h obj node landing offset) h false (outletBind h obj node landing offset))

/-- Unbind an outlet: the completions that wait for it form no transfer into it; the transfers it has sent are awaited as before (R377). -/
def endOutlet (s : State) (k : Nat) : State :=
  match tget s.outlets k with
  | none => s
  | some o =>
    let s := { s with outlets := tdel s.outlets k,
                      loose := s.loose ++ o.unacked.map fun w => ({ outlet := k, node := o.node, landing := o.landing, sent := w } : Loose) }
    o.waiting.foldl (fun s w => settleOutlets s { w with data := w.data.filter fun e => e.1 != k }) s

def outletUnbind (h : CmdHdr) (n : Nat) (s : State) (_ : Ctx) : CmdRes :=
  if n < 64 ∧ (tget s.outlets (outletKey h.ctx n)).isSome then { st := endOutlet s (outletKey h.ctx n) } else .refuse s CONFIG_REFUSED

def execOutletUnbind (h : CmdHdr) (outlet : Nat) (s : State) : Host.Outcome State Fault Refusal :=
  .next (ctxCmd s (.outletUnbind h outlet) h true (outletUnbind h outlet))

/-! ### Bulk writes received (R376, R377) -/

/-- Far status code of a reason (Table 10.14). -/
def farStatus (reason : Nat) : Nat :=
  match reason with
  | 3 => INTEGRITY
  | 4 => NOT_READY
  | _ => ACCESS_DENIED

/-- Why a frame cannot be written into its landing, 0 where it can. -/
def landingFails (s : State) (n off len : Nat) (bad : Bool) : Nat :=
  match (tget s.landings n).bind fun l => objOf s l.ctx l.obj with
  | none => 1
  | some o =>
    if !ready s o.home then 4
    else if inArchive o then 1
    else if o.length < off + len then 2
    else if bad then 3 else 0

/-- The transfer that a source sends to a landing. -/
def isXfer (src landing tag : Nat) (x : Xfer) : Bool := x.src == src && x.landing == landing && x.tag == tag

/-- The end of a transfer: the ARRIVE Stake and BULK_ACK, or the bytes undefined, LATE_FAULT and LANDING_FAULT. -/
def endTransfer (s : State) (x : Xfer) : State :=
  let frame (type : Nat) (m : List Fld) : TieFrame :=
    { type := type, cls := 3, dst := x.src, src := ownNode s, hops := 63, msg := (0x14, 1, x.landing) :: (0x16, 2, x.tag) :: m }
  match tget s.landings x.landing with
  | some l =>
    if x.fail = 0 then sendTo (signal s l.ctx none l.arrive 1) x.src [frame 0x11 [(0x18, 4, x.bytes)]]
    else
      let o : OpEnt := ⟨l.obj, 0, 0⟩
      let s := freeRanges s l.ctx (x.ranges.map fun r => (o, r.1, r.2))
      let s := sendTo s x.src [frame 0x12 [(0x15, 1, x.fail), (0x18, 2, farStatus x.fail)]]
      event s l.ctx 0x0422 (farStatus x.fail) [(0x10, 1, x.landing), (0x11, 1, x.fail), (0x12, 1, x.src), (0x14, 2, x.tag), (0x18, 8, x.first)]
  | none => sendTo s x.src [frame 0x12 [(0x15, 1, 1), (0x18, 2, ACCESS_DENIED)]]

/-- A BULK_WRITE frame for this package. -/
def bulkWrite (s : State) (t : Nat) (h : TieHdr) (landing : Nat) (first last : Bool) (tag off : Nat) (d : Bytes) (bad : Bool) : State :=
  if !forUs s h then s
  else
    let r := takeFrame s t h 1 d.length
    if !r.2 then r.1
    else
      let s := r.1
      let old := if first then none else s.xfers.find? (isXfer h.src landing tag)
      let x : Xfer := old.getD { src := h.src, landing := landing, tag := tag, bytes := 0, fail := 0, first := off }
      let why := landingFails s landing off d.length bad
      let s := match tget s.landings landing with
        | some l => if why = 0 then wrObj s (objKey l.ctx l.obj) off d else s
        | none => s
      let x := { x with bytes := x.bytes + d.length, fail := if x.fail = 0 then why else x.fail, ranges := x.ranges ++ [(off, d.length)] }
      let rest := s.xfers.filter fun y => !isXfer h.src landing tag y
      if last then endTransfer { s with xfers := rest } x else { s with xfers := rest ++ [x] }

def execBulkWrite (t : Nat) (h : TieHdr) (landing : Nat) (first last : Bool) (tag offset : Nat) (data : Bytes) (bad : Bool) (s : State) :
    Host.Outcome State Fault Refusal := .next (bulkWrite s t h landing first last tag offset data bad)

/-- BULK_ACK for this package. -/
def bulkAck (s : State) (t : Nat) (h : TieHdr) (landing tag : Nat) : State :=
  if !forUs s h then s
  else
    let r := takeFrame s t h 3 0
    if r.2 then transferDone r.1 h.src landing tag 0 else r.1

def execBulkAck (t : Nat) (h : TieHdr) (landing tag _bytes : Nat) (s : State) : Host.Outcome State Fault Refusal :=
  .next (bulkAck s t h landing tag)

/-- LATE_FAULT for this package. -/
def lateFault (s : State) (t : Nat) (h : TieHdr) (landing reason tag : Nat) : State :=
  if !forUs s h then s
  else
    let r := takeFrame s t h 3 0
    if r.2 then transferDone r.1 h.src landing tag reason else r.1

def execLateFault (t : Nat) (h : TieHdr) (landing reason tag _far : Nat) (s : State) : Host.Outcome State Fault Refusal :=
  .next (lateFault s t h landing reason tag)

/-! ### Queries and replies (R303, R306) -/

/-- Refuse a query: its slot header with the reason, and QUERY_REFUSED to the serving context if there is one. -/
def refuseQuery (s : State) (node service tag qtag reason : Nat) : State :=
  let s := sendTo s node (replyFrames s node tag (slotHeader 0 reason 0xFFFF 0 qtag (ownNode s) {}))
  match tget s.services service with
  | some v => event s v.ctx 0x0153 0 [(0x14, 1, service), (0x15, 1, reason), (0x16, 1, node)]
  | none => s

/-- A whole query has arrived (R303). -/
def queryArrives (s : State) (node service tag budget : Nat) (q : Bytes) : State :=
  let qtag := fld q 16 4
  match tget s.services service with
  | none => refuseQuery s node service tag qtag 2
  | some v =>
    let w : Who := { ctx := v.ctx, handle := 0xFFFF }
    let ix := (rdObj s (objKey v.ctx v.index) 0 64).getD []
    let n := fld q 0 4
    if fld q 4 2 ≠ fld ix 6 2 ∨ ¬ formatListed s 4 (fld ix 4 2) ∨ n = 0 ∨ v.qcap < n ∨ q.length ≠ 64 + n * queryBytes (fld q 4 2) then
      refuseQuery s node service tag qtag 5
    else
      let (hd, tl) := inboxEnds s w v.inbox
      if v.depth ≤ sub32 tl hd then refuseQuery s node service tag qtag 3
      else
        let env := le 1 node ++ le 1 service ++ le 2 0 ++ le 4 tag ++ le 8 s.sup.now ++ le 8 (s.sup.now + budget) ++ le 40 0
        let s := wrInbox s v (inboxAt s w v.inbox v.depth tl) (env ++ q)
        signal (wrInbox s v 4 (le 4 (wrap32 (tl + 1)))) v.ctx none v.stake 1

/-- A QUERY frame for this package; `budget` is the budget in the FIRST frame and a byte offset in the others. -/
def query (s : State) (t : Nat) (h : TieHdr) (service : Nat) (first last : Bool) (tag budget : Nat) (d : Bytes) : State :=
  if !forUs s h then s
  else
    let r := takeFrame s t h 2 d.length
    if !r.2 then r.1
    else
      let s := r.1
      let k := h.src * 4294967296 + tag
      let e : Option (Nat × Nat × Bytes) :=
        if first then some (service, budget, d) else (tget (tieOf s t).parts k).map fun p => (p.1, p.2.1, p.2.2.take budget ++ d)
      match e with
      | none => s
      | some e =>
        if last then queryArrives (modTie s t fun x => { x with parts := tdel x.parts k }) h.src e.1 tag e.2.1 e.2.2
        else modTie s t fun x => { x with parts := tput x.parts k e }

def execQuery (t : Nat) (h : TieHdr) (service : Nat) (first last : Bool) (tag budget : Nat) (data : Bytes) (s : State) :
    Host.Outcome State Fault Refusal := .next (query s t h service first last tag budget data)

/-- A list of a received slot carries PARTIAL. -/
def slotPartial (len : Nat) (b : Bytes) : Bool := (List.range (fld b 4 4)).any fun i => bit (fld b (64 + i * len + 0x14) 2) 0

/-- A FAN_OUT runs and waits: it has not completed, an interruption included (R436), and its t_cut lies ahead (R302, R306). -/
def fanWaits (s : State) (f : Fan) : Bool :=
  match runOf s f.leg with
  | some x => decide (x.st = .running) && inTime s f.leg && (x.tcut.map fun t => decide (s.sup.now < t)).getD true
  | none => false

/-- A REPLY frame for this package: its slot is written once it is whole, or it is discarded with LATE_REPLY (R306). -/
def replyReceived (s : State) (t : Nat) (h : TieHdr) (first last : Bool) (tag off : Nat) (d : Bytes) : State :=
  if !forUs s h then s
  else
    let r := takeFrame s t h 3 d.length
    if !r.2 then r.1
    else
      let s := r.1
      let id := tag / 256
      let slot := tag % 256
      match s.fans.find? fun f => f.id == id && fanWaits s f && f.missing.contains slot && f.nodes.contains (slot, h.src) with
      | some f =>
        let have_ := if first then [] else tgetD f.parts slot []
        let b := have_.take off ++ d
        let put (g : Fan → Fan) (s : State) : State := { s with fans := s.fans.map fun x => if x.id = id then g x else x }
        if last then
          let s := onSnaps s f.leg fun s => wrOp s f.leg.ctx ⟨f.obj, f.off, 0⟩ (slot * f.slotLen) (b.take f.slotLen)
          put (fun x => { x with missing := x.missing.filter (· != slot), parts := tdel x.parts slot,
                                 part := x.part || slotPartial f.listLen b }) s
        else put (fun x => { x with parts := tput x.parts slot b }) s
      | none =>
        if !last then s
        else
          match tget s.fanLegs id with
          | some l => event s l.ctx 0x0152 0 [(0x10, 2, l.handle), (0x12, 2, l.leg), (0x14, 1, h.src), (0x18, 4, tag)]
          | none => s

def execReplyReceived (t : Nat) (h : TieHdr) (first last : Bool) (tag offset : Nat) (data : Bytes) (s : State) :
    Host.Outcome State Fault Refusal := .next (replyReceived s t h first last tag offset data)

end Sys2Proof.Machine
end

