-- ==== Sys2Proof/Machine/Traverses.lean ====
section
/-!
DEFINITION. The Traverse commands: LOAD_TRAVERSE with its checks (R80, R81, Tables 2.11 to 2.13), UNLOAD_TRAVERSE,
RUN_TRAVERSE, ARM_PERIODIC, DISARM and CANCEL (R91, R97).
The model's own: log 19 (DEDUCED).
-/
namespace Sys2Proof.Machine
open Sys2Proof

/-! ### Reading an image -/

/-- Wait entry `i` of a Leg (Tables 2.13, 2.14). -/
def parseWait (b : Bytes) (i : Nat) : WaitEnt := ⟨fld b (0x10 + 8 * i) 2, fld b (0x12 + 8 * i) 1, fld b (0x14 + 8 * i) 4⟩

def parseSig (b : Bytes) (i : Nat) : SigEnt := ⟨fld b (0x30 + 8 * i) 2, fld b (0x32 + 8 * i) 1, fld b (0x34 + 8 * i) 4⟩

def parseOp (b : Bytes) (i : Nat) : OpEnt := ⟨fld b (0x50 + 12 * i) 4, fld b (0x54 + 12 * i) 6, fld b (0x5A + 12 * i) 2⟩

/-- A Leg from its 128 bytes (Table 2.13). -/
def parseLeg (b : Bytes) : Leg :=
  { kind := fld b 0 1, lflags := fld b 1 1, stn := fld b 2 2, cycles := fld b 4 4, subop := fld b 0x0A 2,
    desc := fld b 0x0C 4, waits := (List.range (fld b 8 1 % 16)).map (parseWait b),
    sigs := (List.range (fld b 8 1 / 16)).map (parseSig b), ops := (List.range 4).map (parseOp b) }

/-- The Legs of an image, in Leg index order. -/
def parseLegs (b : Bytes) (n : Nat) : List Leg := (List.range n).map fun i => parseLeg ((b.drop (256 + 128 * i)).take 128)

/-! ### The load checks -/

/-- The Plats of a Crew, ascending (R42). -/
def crewPlats (x : Ctx) : List Nat := ((List.range 8).filter fun p => x.crew.any fun c => c.plat == p)

/-- The Station counts of a Crew's shape, unmapped indices counted on their original Plats (R42, R45). -/
def crewShape (x : Ctx) : List Nat := (crewPlats x).map fun p => (x.crew.filter fun c => c.plat == p).length

/-- The shape that an image's header gives: as many counts as PLATS says, and nothing in the unused entries. -/
def shapeMatches (x : Ctx) (b : Bytes) : Bool :=
  decide (fld b 0x0B 1 = (crewShape x).length) &&
  decide ((List.range 8).map (fun i => fld b (0x10 + 2 * i) 2) = crewShape x ++ List.replicate (8 - (crewShape x).length) 0)

/-- A Stake reference of a Leg is in range (Table 2.14); one of a local Stake at or beyond the image's LOCAL_STAKES counts as out of
range (log 22). -/
def refInRange (x : Ctx) (locals r : Nat) : Bool :=
  match refSpace r with
  | 0 => decide (refNum r < x.stakes.length)
  | 1 => decide (refNum r < locals)
  | 2 => decide (refNum r < 256)
  | _ => false

/-- Every field of a Leg is in range (Table 2.13). -/
def legInRange (x : Ctx) (locals : Nat) (l : Leg) : Bool :=
  decide (l.kind ≤ 7) && decide (l.stn < x.crew.length) && (decide (l.kind < 6) || decide (l.cycles = 0)) &&
  decide (l.waits.length ≤ 4) && decide (l.sigs.length ≤ 4) &&
  l.waits.all (fun w => decide (w.mode ≤ 1) && refInRange x locals w.ref) &&
  l.sigs.all fun e => decide (e.when_ ≤ 3) && refInRange x locals e.ref

/-- Waits on local Stake `n` by Legs on Plat `p`. -/
def waitsOn (x : Ctx) (legs : List Leg) (n p : Nat) : Nat :=
  ((legs.filter fun l => (x.crew[l.stn]?.map (·.plat)) == some p).flatMap (·.waits)).countP fun w => w.ref == 0x4000 + n

/-- Home Plat of local Stake `n`: the Plat of the Crew whose Legs wait on it most often, the lowest of equals (R87). -/
def localHome (x : Ctx) (legs : List Leg) (n : Nat) : Nat :=
  match crewPlats x with
  | [] => 0
  | p :: r => r.foldl (fun b q => if waitsOn x legs n b < waitsOn x legs n q then q else b) p

/-- Stakes homed on a Plat: context Stakes on the lowest Plat of their Crew, and local Stakes (R59, R87). -/
def stakesOn (s : State) (p : Nat) : Nat :=
  ((s.ctxs.map fun e => if (crewPlats e.2).head? = some p then e.2.stakes.length else 0).foldl (· + ·) 0) +
  ((s.travs.map fun e => e.2.locals.countP fun l => l.home == p).foldl (· + ·) 0)

/-- Home Plats of an image's local Stakes (R87). -/
def localHomes (x : Ctx) (b : Bytes) : List Nat :=
  (List.range (fld b 0x0A 1)).map (localHome x (parseLegs b (fld b 8 2)))

/-- The checks of Table 2.11 on an image that has been read, in order. -/
def imageStatus (s : State) (x : Ctx) (length : Nat) (b : Bytes) : Nat :=
  let count := fld b 8 2
  let locals := fld b 0x0A 1
  firstFail [
    need (decide (fld b 0 4 = 0x56544E41) && decide (1 ≤ count ∧ count ≤ 4096) && decide (locals ≤ 32) &&
      decide (1 ≤ fld b 0x0B 1 ∧ fld b 0x0B 1 ≤ 8) && decide (length = 256 + 128 * count)) CONFIG_REFUSED,
    need (formatListed s 1 (fld b 4 2) && epochAccepted s (fld b 6 2)) VERSION_REFUSED,
    need (decide (sha256 ((b.drop 256).take (128 * count)) = (b.drop 0xC0).take 32)) INTEGRITY,
    need (shapeMatches x b) CONFIG_REFUSED,
    need ((parseLegs b count).all (legInRange x locals)) CONFIG_REFUSED,
    need ((crewPlats x).all (ready s)) NOT_READY,
    need ((crewPlats x).all fun p => decide (stakesOn s p + (localHomes x b).countP (· == p) ≤ 8192)) RESOURCE_FULL]

/-- The Traverse of an accepted image: its Legs, and its local Stakes at their initial values (R80, R87, Table 2.12). -/
def travOfImage (c : Nat) (x : Ctx) (n : Nat) (b : Bytes) : Trav :=
  let init (i : Nat) := fld b (0x40 + 4 * i) 4
  { ctx := c, handle := n, legs := parseLegs b (fld b 8 2),
    locals := (enum (localHomes x b)).map fun e => ⟨init e.1, init e.1, e.2⟩ }

/-- LOAD_TRAVERSE: the checks of Table 2.11, then the lowest free handle (R80). -/
def loadTraverse (h : CmdHdr) (length : Nat) (image : Option Bytes) (s : State) (x : Ctx) : CmdRes :=
  match lowestFree s.travs (travKey h.ctx 0) 64 with
  | none => .refuse s RESOURCE_FULL
  | some n =>
    if 4096 ≤ s.travs.length then .refuse s RESOURCE_FULL
    else
      match image with
      | none => .refuse s INTEGRITY
      | some b =>
        match imageStatus s x length b with
        | 0 => { st := { s with travs := tput s.travs (travKey h.ctx n) (travOfImage h.ctx x n b) }, result := n, trav := n }
        | st => .refuse s st

def execLoadTraverse (h : CmdHdr) (length : Nat) (image : Option Bytes) (s : State) : Host.Outcome State Fault Refusal :=
  .next (if hostHeld s h.ctx then s else ctxCmd s (.loadTraverse h length image) h false (loadTraverse h length image))

/-! ### Table 2.15 -/

/-- A Traverse that is unloaded names no Inbox any more (R304). -/
def freeInbox (s : State) (c handle : Nat) : State :=
  { s with services := s.services.map fun e => (e.1, { e.2 with trav := e.2.trav.filter fun h => !(e.2.ctx == c && h == handle) }) }

/-- A command on a Traverse that its state does not allow, or that names none: CONFIG_REFUSED (R91). -/
def refuseTrav (s : State) (handle : Nat) : CmdRes := { st := s, status := CONFIG_REFUSED, trav := handle }

def unloadTraverse (h : CmdHdr) (handle : Nat) (s : State) (_ : Ctx) : CmdRes :=
  match travOf s h.ctx handle with
  | none => refuseTrav s handle
  | some t =>
    if t.st = .resident ∧ handle < 64 then
      { st := freeInbox { s with travs := tdel s.travs (travKey h.ctx handle) } h.ctx handle, trav := handle }
    else refuseTrav s handle

def execUnloadTraverse (h : CmdHdr) (handle : Nat) (s : State) : Host.Outcome State Fault Refusal :=
  .next (ctxCmd s (.unloadTraverse h handle) h true (unloadTraverse h handle))

/-- RUN_TRAVERSE: the run starts now, or at its start time, until when the command is under way (Table 2.15). -/
def runTraverse (h : CmdHdr) (handle start deadline : Nat) (s : State) (_ : Ctx) : CmdRes :=
  match travOf s h.ctx handle with
  | none => refuseTrav s handle
  | some t =>
    if t.st = .resident ∧ handle < 64 then
      if start ≤ s.sup.now then
        { st := startRun s h.ctx handle h.tag h.flags s.sup.now deadline, trav := handle }
      else
        let s := modTrav s h.ctx handle fun t => { t with tag := h.tag, flags := h.flags, start := start, deadline := deadline }
        later s h.ctx (.run handle h.tag h.flags)
    else refuseTrav s handle

def execRunTraverse (h : CmdHdr) (handle start deadline : Nat) (s : State) : Host.Outcome State Fault Refusal :=
  .next (ctxCmd s (.runTraverse h handle start deadline) h false (runTraverse h handle start deadline))

/-- ARM_PERIODIC: B0 at least 10,000 ns ahead, P in range; the bases are taken now (R85, R91). -/
def armPeriodic (h : CmdHdr) (handle period b0 count : Nat) (s : State) (_ : Ctx) : CmdRes :=
  match travOf s h.ctx handle with
  | none => refuseTrav s handle
  | some t =>
    if t.st = .resident ∧ handle < 64 ∧ s.sup.now + 10000 ≤ b0 ∧ 100000 ≤ period ∧ period ≤ 1000000000 then
      { st := modTrav s h.ctx handle fun t =>
          { t with st := .armed, tag := h.tag, flags := h.flags, b0 := b0, period := period, count := count, next := 0,
                   bases := takeBases s t, disarm := false, skipped := 0 }, trav := handle }
    else refuseTrav s handle

def execArmPeriodic (h : CmdHdr) (handle period b0 count : Nat) (s : State) : Host.Outcome State Fault Refusal :=
  .next (ctxCmd s (.armPeriodic h handle period b0 count) h false (armPeriodic h handle period b0 count))

/-- DISARM: an armed Traverse is RESIDENT at once; of a periodic one, and while boundary actions take a Traverse to RESIDENT, it
is pending until their summary (R91, Table 2.15). -/
def disarm (h : CmdHdr) (handle : Nat) (s : State) (_ : Ctx) : CmdRes :=
  match travOf s h.ctx handle with
  | none => refuseTrav s handle
  | some t =>
    if 64 ≤ handle then refuseTrav s handle
    else if t.st = .armed then { st := modTrav s h.ctx handle fun t => { t with st := .resident }, trav := handle }
    else if t.st = .periodic ∨ stopping t then
      later (modTrav s h.ctx handle fun t => { t with disarm := true }) h.ctx (.disarm handle h.tag h.flags)
    else refuseTrav s handle

def execDisarm (h : CmdHdr) (handle : Nat) (s : State) : Host.Outcome State Fault Refusal :=
  .next (ctxCmd s (.disarm h handle) h false (disarm h handle))

/-- CANCEL: boundary actions at once, or joining those that already take the Traverse to RESIDENT; its completion follows
the summary (R91, R97). A Traverse in a skipped period has no Leg and no summary to wait for (R72). -/
def cancel (h : CmdHdr) (handle : Nat) (s : State) (_ : Ctx) : CmdRes :=
  match travOf s h.ctx handle with
  | none => refuseTrav s handle
  | some t =>
    if 64 ≤ handle ∨ t.st = .resident then refuseTrav s handle
    else if t.st = .armed then { st := modTrav s h.ctx handle fun t => { t with st := .resident }, trav := handle }
    else if t.run.isNone ∧ t.ending.isEmpty then
      { st := modTrav s h.ctx handle fun t => { t with st := .resident, disarm := false }, trav := handle }
    else
      let s := if stopping t then s
        else if t.run.isNone then
          modTrav s h.ctx handle fun t => { t with ending := t.ending.map fun e => { e with stop := true } }
        else boundary s h.ctx handle s.sup.now true
      later s h.ctx (.cancel handle h.tag h.flags)

def execCancel (h : CmdHdr) (handle : Nat) (s : State) : Host.Outcome State Fault Refusal :=
  .next (ctxCmd s (.cancel h handle) h false (cancel h handle))

end Sys2Proof.Machine
end

