-- ==== Sys2Proof/Machine/Contexts.lean ====
section
/-!
DEFINITION. Contexts: the close that CLOSE_CONTEXT, resets of functions and TDI errors share (R60, R396), OPEN_CONTEXT,
CLOSE_CONTEXT, QUERY_CONTEXTS, opcodes that a ring does not accept, the zeroing of Stations (R41 to R43, R53 to R61).
The model's own: log 22 (DEDUCED).
-/
namespace Sys2Proof.Machine
open Sys2Proof

/-! ### Closing a context (R60) -/

/-- Abort a context's Legs that run or abort: their outputs are undefined, and no completion is written. -/
def abortAll (s : State) (c : Nat) : State :=
  let l := s.travs.flatMap fun e =>
    if e.2.ctx = c then (runsOf e.2).flatMap fun r =>
      ((e.2.legs.zip r.legs).filter fun p => onEngine p.2).map fun p =>
        (({ ctx := c, handle := e.2.handle, k := r.k, began := r.began } : Who), p.1)
    else []
  l.foldl (fun s x => spoil s x.1 x.2) s

/-- Revoke the Stake grants that a context gave (R88). -/
def revokeGiven (s : State) (c : Nat) : State :=
  let l := s.ctxs.flatMap fun e => (e.2.grants.filter fun g => g.2.ctx == c).map fun g => (e.1, g.1)
  l.foldl (fun s x => revokeGrant s x.1 x.2) s

/-- Release a context's Crew: its Stations are zeroed before they are free again (R43). -/
def releaseCrew (s : State) (x : Ctx) : State :=
  x.crew.foldl (fun s k => match k.stn with
    | some n => modPlat s k.plat fun p => { p with owner := tdel p.owner n, zeroing := p.zeroing ++ [n] }
    | none => s) s

/-- End what a context has bound: Chain Groups, cameras with their pairs, services, landings, outlets, FAN_OUTs. -/
def unbindAll (s : State) (c : Nat) : State :=
  let s := (s.groups.filter fun e => e.2.ctx == c).foldl (fun s e => endGroup s e.2) s
  let s := (s.cams.filter fun e => e.2.ctx == c).foldl (fun s e => endCam s e.1) s
  let s := (s.services.filter fun e => e.2.ctx == c).foldl (fun s e => endService s e.1) s
  { s with landings := s.landings.filter (fun e => e.2.ctx != c), outlets := s.outlets.filter (fun e => e.2.ctx != c),
           loose := s.loose.filter (fun x => x.sent.ctx != c),
           fans := s.fans.filter (fun f => f.leg.ctx != c) }

/-- A context's claims and grants on the objects of others end; its DONE Stakes are gone, so nothing is signalled (R322,
R330). -/
def leaveObjects (s : State) (c : Nat) : State :=
  let l := (s.objs.filter fun e => e.2.ctx != c && ((e.2.grants.any fun g => g.ctx == c) || e.2.claims.any fun q => q.ctx == c)).map (·.1)
  l.foldl (fun s k => replan (modObj s k fun o =>
    { o with grants := o.grants.filter (fun g => g.ctx != c), claims := o.claims.filter fun q => q.ctx != c }) k) s

/-- Release a context's placements: every object it owns is destroyed, persistent objects stay in the Cadastre (R322); its
update commands complete no more (R60). -/
def releaseObjects (s : State) (c : Nat) : State :=
  let mine (g : Group) : Bool := match g.use with
    | .write c' _ _ _ _ _ _ => c' == c
    | _ => false
  let orphan (g : Group) : Group := match g.use with
    | .staging (some q) a => if q.1 = c then { g with use := .staging none a } else g
    | _ => g
  let touched := s.cads.flatMap fun e => e.2.groups.filterMap fun g => match g.use with
    | .write c' _ _ k _ _ _ => if c' = c then some (e.1, k) else none
    | _ => none
  let s := touched.foldl (fun s e => takeBack s e.1 e.2 mine) s
  let s := { s with cads := s.cads.map fun (e : Nat × Cad) => (e.1, { e.2 with groups := e.2.groups.map orphan }) }
  let l := (s.objs.filter fun e => e.2.ctx == c).map fun e => (e.1, e.2.name.isSome)
  let s := l.foldl (fun s e => removeObj s e.1 2 e.2) s
  { s with tracks := s.tracks.filter fun e => (tget s.objs e.1).isSome }

/-- Detach a Holding: its unwrapped keys are destroyed, in the key slots as well (R389). -/
def detachHolding (s : State) (k : Nat) : State :=
  sendKeys { s with mon := { s.mon with holdings := tmod s.mon.holdings k fun x => { x with ctx := none, keys := none } } }

/-- The waiting request whose context has gone longest since its last chunk; ties go to the lower context number (R102). -/
def nextReq : List EngReq → Option EngReq
  | [] => none
  | r :: l =>
    match nextReq l with
    | none => some r
    | some q => if lexLt [q.since, q.ctx] [r.since, r.ctx] then some q else some r

/-- The engine's state at a chunk boundary: the request served next. -/
def serveNext (l : List EngReq) : SharedEng :=
  match nextReq l with
  | none => {}
  | some r => { cur := some r, wait := l.erase r }

/-- Take a context's requests and saved state off a shared engine (R103); an engine that its chunk was on turns to the next request. -/
def SharedEng.without (e : SharedEng) (c : Nat) : SharedEng :=
  let wait := e.wait.filter fun r => r.ctx != c
  if e.cur.any fun r => r.ctx == c then serveNext wait else { e with wait := wait }

/-- What the Monument holds for a context goes (R389). -/
def leaveMonument (s : State) (c : Nat) : State :=
  let s := (s.mon.holdings.filter fun e => e.2.ctx == some c).foldl (fun s e => detachHolding s e.1) s
  { s with mon := { s.mon with
      gcm := s.mon.gcm.without c, hash := s.mon.hash.without c } }

/-- A TDI that was locked has entered ERROR: TDI_ERROR to the PF (R396, R416). -/
def tdiError (s : State) (p vf cause : Nat) : State :=
  let s := modPort s p fun x => { x with tdiErr := if x.tdiErr.contains vf then x.tdiErr else x.tdiErr ++ [vf] }
  adminRec s p (.ev { type := 0x0308, status := ACCESS_DENIED, evseq := 0, stamp := s.sup.now, payload := [(0x10, 1, vf), (0x11, 1, cause)] })

/-- Close a context by steps 1 to 5 of R60, for a cause of TDI_ERROR. -/
def closeCtx (s : State) (c cause : Nat) : State :=
  match ctxOf s c with
  | none => s
  | some x =>
    let s := abortAll s c
    let s := revokeGiven s c
    let s := unbindAll s c
    let s := { s with travs := s.travs.filter fun e => e.2.ctx != c }
    let s := leaveMonument s c
    let s := { releaseCrew s x with ctxs := tdel s.ctxs c }
    let s := sendKeys (releaseObjects (leaveObjects s c) c)
    let s := if tdiHeld x then tdiError s x.port x.vf cause else s
    markScan (instantiateAll (rescan s))

/-! ### Forming a Crew (R41, R42, R58) -/

/-- The free enabled logical Stations of a Plat, in ascending order. -/
def freeStations (s : State) (p : Nat) : List Nat :=
  let x := platOf s p
  (List.range 88).filter fun n =>
    (x.map.getD n none).isSome && (tget x.owner n).isNone && !x.zeroing.contains n

/-- Take Stations from each ready Plat in turn until a count is met. -/
def takeAcross (s : State) : List Nat → Nat → List CrewSlot
  | [], _ => []
  | p :: r, n =>
    let l := (freeStations s p).take n
    l.map (fun i => (⟨p, some i, false⟩ : CrewSlot)) ++ takeAcross s r (n - l.length)

/-- The Crew of a request, none when the free Stations cannot hold it. A Leg is marked SUBSTITUTED for the substitutions that its own
Crew meets: a logical Station that moved to a spare before the Crew was formed counts as the Crew's original one (log 22). -/
def formCrew (s : State) (b : OpenBody) : Option (List CrewSlot) :=
  let from_ (p n : Nat) : List CrewSlot := ((freeStations s p).take n).map fun i => ⟨p, some i, false⟩
  if b.perPlat then
    let l := (List.range (nPlats s)).flatMap fun p => from_ p (b.counts.getD p 0)
    if l.length = b.counts.foldl (· + ·) 0 then some l else none
  else
    let ps := (List.range (nPlats s)).filter (ready s)
    match ps.find? fun p => decide (b.total ≤ (freeStations s p).length) with
    | some p => some (from_ p b.total)
    | none => let l := takeAcross s ps b.total; if l.length = b.total then some l else none

/-! ### OPEN_CONTEXT (R55 to R59, R61) -/

/-- A field of OPEN_CONTEXT is malformed. -/
def openMalformed (s : State) (b : OpenBody) : Bool :=
  let base (a : Nat) : Bool := decide (a = 0 ∨ a % 4096 ≠ 0)
  let log (n : Nat) : Bool := decide (n < 4 ∨ 16 < n)
  base b.sqBase || base b.cqBase || base b.eqBase || base b.dbBase || log b.sqLog || log b.cqLog || log b.eqLog ||
    decide (4096 < b.stakes ∨ 32 ≤ b.cqVec ∨ 32 ≤ b.eqVec) ||
    (if b.perPlat then
      (b.counts.any fun n => decide (88 < n)) || (b.counts.drop (nPlats s)).any (fun n => n != 0) || b.counts.all fun n => n == 0
    else b.total == 0)

/-- The port allows the open: Surveyor rights and number, IDE (R55, R61). -/
def openAllowed (s : State) (p : Nat) (b : OpenBody) : Bool :=
  let x := portOf s p
  (!b.surveyor || (decide ((surveyors s).length < 4) && bit x.cfg.inForce 2)) &&
    (!bit x.cfg.inForce 3 || x.ide.any fun e => e.2.secure)

/-- The lowest-numbered free virtual function of a port. -/
def freeVf (s : State) (p : Nat) : Nat :=
  ((List.range 64).find? fun v => !s.ctxs.any fun e => e.2.port == p && e.2.vf == v).getD 0

/-- Open a context in slot `c` with a Crew; its Main and Archive keys come from the DRBG (R388). -/
def openIn (s : State) (p c : Nat) (b : OpenBody) (crew : List CrewSlot) : CmdRes :=
  let vf := freeVf s p
  let d := drawKey s 128
  let x : Ctx :=
    { port := p, vf := vf, surveyor := b.surveyor, sqBase := b.sqBase, cqBase := b.cqBase, eqBase := b.eqBase, dbBase := b.dbBase,
      sqLog := b.sqLog, cqLog := b.cqLog, eqLog := b.eqLog, cqVec := b.cqVec, eqVec := b.eqVec, crew := crew,
      stakes := List.replicate b.stakes 0, keyGen := s.mon.keyCount + 1, keys := d.1 }
  let s := d.2
  let s := sendKeys { s with ctxs := tput s.ctxs c x, mon := { s.mon with keyCount := s.mon.keyCount + 1 } }
  let s := crew.foldl (fun s k => modPlat s k.plat fun q => { q with owner := tput q.owner (k.stn.getD 0) c }) s
  { st := s, result := c + 256 * vf + 65536 * crew.length }

/-- OPEN_CONTEXT: the checks of R55 in order, NOT_READY while Plat 0 switches (R410), then the context. -/
def openContext (h : AdmHdr) (b : OpenBody) (s : State) : CmdRes :=
  match lowestFree s.ctxs 0 64 with
  | none => .refuse s CONTEXT_FULL
  | some c =>
    let named := (List.range (nPlats s)).filter fun p => b.perPlat && decide (0 < b.counts.getD p 0)
    match firstFail [need (!openMalformed s b && openAllowed s h.port b) CONFIG_REFUSED, 
        need (named.all (ready s) && !(platOf s 0).switching) NOT_READY] with
    | 0 =>
      match formCrew s b with
      | none => .refuse s RESOURCE_FULL
      | some crew =>
        let home := (crew.map (·.plat)).headD 0
        if stakesOn s home + b.stakes ≤ 8192 then openIn s h.port c b crew else .refuse s RESOURCE_FULL
    | st => .refuse s st

/-- An Admin command that the Terminal state does not carry out (R415). -/
def notTerminal (body : State → CmdRes) (s : State) : CmdRes := if terminal s then .refuse s TERMINAL else body s

def execOpenContext (h : AdmHdr) (b : OpenBody) (s : State) : Host.Outcome State Fault Refusal :=
  .next (adminCmd s (.openContext h b) h (notTerminal (openContext h b)))

/-- CLOSE_CONTEXT (R60). -/
def closeContext (h : AdmHdr) (c : Nat) (s : State) : CmdRes :=
  match ctxOf s c with
  | none => .refuse s CONFIG_REFUSED
  | some x => if 63 < c then .refuse s CONFIG_REFUSED else if x.port ≠ h.port then .refuse s ACCESS_DENIED else { st := closeCtx s c 1 }

def execCloseContext (h : AdmHdr) (ctx : Nat) (s : State) : Host.Outcome State Fault Refusal :=
  .next (adminCmd s (.closeContext h ctx) h (closeContext h ctx))

/-- The free enabled Stations of the ready Plats. -/
def freeTotal (s : State) : Nat :=
  (((List.range (nPlats s)).filter (ready s)).map fun p => (freeStations s p).length).foldl (· + ·) 0

/-- QUERY_CONTEXTS (Table 2.8): open contexts, open Surveyor contexts, free enabled Stations of the ready Plats. -/
def queryContexts (s : State) : CmdRes :=
  { st := s, result := s.ctxs.length + 256 * (surveyors s).length + 65536 * freeTotal s }

def execQueryContexts (h : AdmHdr) (s : State) : Host.Outcome State Fault Refusal := .next (adminCmd s (.queryContexts h) h queryContexts)

/-- An opcode that a ring does not accept (R54, R74). -/
def unknownOpcode (s : State) (r : RingId) (tag flags : Nat) : State :=
  match r with
  | .admin p => adminCmd s (.unknownOpcode r tag flags) ⟨p, tag, flags⟩ (notTerminal fun s => .refuse s CONFIG_REFUSED)
  | .context c => ctxCmd s (.unknownOpcode r tag flags) ⟨c, tag, flags⟩ false fun s _ => .refuse s CONFIG_REFUSED

def execUnknownOpcode (r : RingId) (tag flags : Nat) (s : State) : Host.Outcome State Fault Refusal :=
  .next (unknownOpcode s r tag flags)

/-! ### Zeroing (R43) -/

/-- A Station has been zeroed, its Hand-off Flags cleared: it is free. -/
def stationZeroingDone (s : State) (p n : Nat) : State :=
  if p < nPlats s ∧ (platOf s p).zeroing.contains n then
    modPlat s p fun x => { x with zeroing := x.zeroing.filter (· != n), flags := tdel x.flags n }
  else s

def execStationZeroingDone (plat station : Nat) (s : State) : Host.Outcome State Fault Refusal :=
  .next (stationZeroingDone s plat station)

end Sys2Proof.Machine
end

