-- ==== Sys2Proof/Machine/Settings.lean ====
section
/-!
DEFINITION. Persistent settings (R413, R456): their defaults, what a reset loads, what a write stores, when it is durable.
A setting is keyed by the BAR0 offset of its register.
The model's own: log 41 (DEDUCED).
-/
namespace Sys2Proof.Machine
open Sys2Proof

/-- BAR0 offsets of the blocks (Table 13.3). -/
abbrev glbAt : Nat := 0x0
abbrev dtmAt : Nat := 0x4000
abbrev thmAt : Nat := 0x8000
def hptAt (n : Nat) : Nat := 0x10000 + n * 0x2000
abbrev tptAt : Nat := 0x18000
def tptPortAt (t : Nat) : Nat := 0x19000 + t * 0x1000
def ctxAt (c : Nat) : Nat := 0x20000 + c * 0x100
abbrev memAt : Nat := 0x30000
abbrev cadAt : Nat := 0x40000
abbrev fltAt : Nat := 0x50000
abbrev monAt : Nat := 0x60000
def pltAt (p : Nat) : Nat := 0x80000 + p * 0x10000

/-- The defaults: the "P: d" of Tables 13.5 to 13.21. -/
def settingDefaults (s : State) : List (Nat × Nat) :=
  [(0x10, pplDefault s), (0x28, 1), (0x30, 3), (dtmAt + 0x10, 1000000), (dtmAt + 0x14, 100), (dtmAt + 0x18, 0),
    (tptAt, 0), (tptAt + 4, 10), (fltAt + 4, 60 * 65536 + 3), (fltAt + 8, 2)] ++
  ((List.range (nHost s)).flatMap fun n =>
    [(hptAt n, 1), (hptAt n + 4, (portReset n).cfg.inForce), (hptAt n + 8, 4), (hptAt n + 0xC, 100)]) ++
  (List.range (nTie s)).map fun t => (tptPortAt t, 1)

/-- The durable value of a setting. -/
def settingOf (s : State) (d : List (Nat × Nat)) (key : Nat) : Nat :=
  match tget s.settings key with
  | some x => x.durable
  | none => ((d.find? fun e => e.1 == key).map (·.2)).getD 0

/-- An RWE register that holds one value, written and in force. -/
def Rwe.of (v : Nat) : Rwe := ⟨v, v⟩

/-- Load every persistent setting into its register. -/
def loadSettings (s : State) : State :=
  let g := settingOf s (settingDefaults s)
  let s := { s with glb := { s.glb with ppl := g 0x10, setupPorts := g 0x28, alertEn := g 0x30 },
                    dtm := { s.dtm with ptmInterval := .of (g (dtmAt + 0x10)), mapInterval := .of (g (dtmAt + 0x14)),
                                        syncCfg := .of (g (dtmAt + 0x18)) },
                    tpt := { s.tpt with node := .of (g tptAt), ackMs := g (tptAt + 4) },
                    flt := { s.flt with window := .of (g (fltAt + 4)), sparesMin := .of (g (fltAt + 8)) } }
  let s := (List.range (nHost s)).foldl (fun s n => modPort s n fun x =>
    { x with ctrl := { x.ctrl with enable := g (hptAt n) == 1 }, cfg := .of (g (hptAt n + 4)), sweep := g (hptAt n + 8),
             sweepNew := none, graceMs := g (hptAt n + 0xC) }) s
  (List.range (nTie s)).foldl (fun s t => modTie s t fun x =>
    { x with ctrl := { x.ctrl with enable := g (tptPortAt t) == 1 } }) s

/-- Store a setting that a write has changed: durable later, the old value standing until then. A write ends
SETTINGS_DEFAULTED; one of TPT_NODE ends the hold of the Tie links (R413, R464). -/
def storeSetting (s : State) (key v : Nat) : State :=
  let old := settingOf s (settingDefaults s) key
  { s with settings := tput s.settings key { durable := old, pending := some v },
           glb := { s.glb with defaulted := false, tieHold := s.glb.tieHold && key != tptAt } }

/-- A stored setting is durable. The blob lies in the Staging Area of Plat 0's Cadastre, which must be mounted. -/
def settingDurable (s : State) (key : Nat) : State :=
  match tget s.settings key with
  | some ⟨_, some v⟩ =>
    if (cadOf s 0).st = 2 then { s with settings := tput s.settings key { durable := v } } else s
  | _ => s

def execSettingDurable (key : Nat) (s : State) : Host.Outcome State Fault Refusal := .next (settingDurable s key)

/-- Replace the blob by the image's defaults. -/
def defaultSettings (s : State) : State :=
  loadSettings { s with settings := [], glb := { s.glb with defaulted := true, tieHold := true } }

end Sys2Proof.Machine
end

