-- ==== Sys2Proof/Machine/Monument.lean ====
section
/-!
DEFINITION. The Monument: Holdings (R334, R390), the shared engines (R101 to R103, R397), firmware update (R399 to R405), the
Update Reset and activation (R406 to R413), the fuses (R398, R407), the Terminal state (R414).
The model's own: log 24 (DEDUCED), log 38 (DEDUCED), log 39 (DEDUCED).
-/
namespace Sys2Proof.Machine
open Sys2Proof

/-! ### The Terminal state (R414) -/

/-- A Leg on an engine stops without a completion. -/
def haltLeg (r : LegRun) : LegRun := if onEngine r then { r with st := .done ABORTED_BOUNDARY } else r

def haltRun (r : Run) : Run := { r with legs := r.legs.map haltLeg }

/-- Every running Leg of every Plat is aborted, its outputs undefined. -/
def haltLegs (s : State) : State :=
  let s := (openCtxs s).foldl abortAll s
  { s with travs := s.travs.map fun (e : Nat × Trav) =>
      (e.1, { e.2 with run := e.2.run.map haltRun, ending := e.2.ending.map fun x => { x with run := haltRun x.run } }) }

/-- TAG and FLAGS of a command under way. -/
def busyTag : Busy → Nat × Nat
  | .run _ t f => (t, f)
  | .disarm _ t f => (t, f)
  | .cancel _ t f => (t, f)
  | .archive t f => (t, f)
  | .flush _ t f => (t, f)
  | .quiesce _ t f => (t, f)
  | .parcel _ _ t f => (t, f)
  | .activate t f => (t, f)
  | .fieldLock t f => (t, f)

/-- The Traverse handle that a command under way names (Table 2.7). -/
def busyTrav : Busy → Nat
  | .run n _ _ => n
  | .disarm n _ _ => n
  | .cancel n _ _ => n
  | _ => 0xFFFF

/-- The commands under way complete 0x03FF, but for a Field Lock burn, which runs to its end (R398, R415). -/
def endTerminal (s : State) (e : Nat × Ctx) : State :=
  match e.2.busy with
  | none => s
  | some (.fieldLock _ _) => s
  | some b => finishBusy s e.1 (busyTag b).1 (busyTag b).2 (busyTrav b) TERMINAL 0

/-- Every Tie link goes to DOWN and stays there. -/
def tiesDown (s : State) : State := (List.range (nTie s)).foldl (fun s t => tieLinkDown s t none) s

/-- Enter the Terminal state for a Plat, a cause (1 self-check, 2 no bootable slot) and a check code. -/
def enterTerminal (s : State) (p cause code : Nat) : State :=
  let s := haltLegs { s with fuses := { s.fuses with terminal := true } }
  let s := { s with mon := { s.mon with activation := none, udsLocked := true },
                    plats := s.plats.map fun (e : Nat × Plat) => (e.1, { e.2 with hold := false, switching := false }) }
  let s := s.ctxs.foldl endTerminal s
  eventAll (tiesDown s) 0x0306 TERMINAL [(0x10, 1, p), (0x11, 1, cause), (0x14, 4, code)]

/-! ### Holdings (R334, R344, R389, R390) -/

/-- The Monument answers commands: its firmware runs, and Plat 0 is not switching (R410). -/
def monReady (s : State) : Bool := s.mon.running && !(platOf s 0).switching

/-- The AUTH_VALUE of an authorisation object of 64 bytes that names the Holding. -/
def authValue (s : State) (c id name : Nat) : Option Bytes :=
  match cmdObj s c id 0 with
  | .error _ => none
  | .ok (k, _) =>
    match rdObj s k 0 64 with
    | none => none
    | some b => if fld b 0 8 = name then some ((b.drop 8).take 32) else none

/-- The MAC of an AUTH_VALUE: HMAC-SHA-384 under the Storage Root Key (R390). -/
def authMac (s : State) (v : Bytes) : Bytes := hmac384 s.mon.keys.storage v

/-- Attach a Holding to a context, its failures forgotten and its keys unwrapped into the key slots. -/
def attach (s : State) (c k : Nat) (x : Holding) : CmdRes :=
  let x := { x with fails := 0, ctx := some c, keys := unwrapKey s.mon.keys.storage x.wrapped }
  { st := sendKeys { s with mon := { s.mon with holdings := tput s.mon.holdings k x } }, result := k }

/-- HOLDING_ATTACH without CREATE: an unknown name and a wrong value fail; 16 failures in a row close the Holding until the
next package reset. -/
def attachExisting (s : State) (c name : Nat) (v : Option Bytes) : CmdRes :=
  match s.mon.holdings.find? fun e => e.2.name == name with
  | none => .refuse s ACCESS_DENIED
  | some (k, x) =>
    if 16 ≤ x.fails then .refuse s ACCESS_DENIED
    else if v.map (authMac s) = some x.mac then
      if x.ctx.isSome then .refuse s CONFIG_REFUSED else attach s c k x
    else .refuse { s with mon := { s.mon with holdings := tput s.mon.holdings k { x with fails := x.fails + 1 } } } ACCESS_DENIED

/-- HOLDING_ATTACH with CREATE: new keys from the DRBG, kept wrapped under the Storage Root Key (Table 11.1). -/
def attachNew (s : State) (c name : Nat) (v : Bytes) : CmdRes :=
  if s.mon.holdings.any fun e => e.2.name == name then .refuse s CONFIG_REFUSED
  else
    match lowestFree s.mon.holdings 0 256 with
    | none => .refuse s RESOURCE_FULL
    | some k =>
      let d := drawKey s 128
      let s := d.2
      attach { s with mon := { s.mon with keyCount := s.mon.keyCount + 1 } } c k
        { name := name, mac := authMac s v, wrapped := wrapKey s.mon.keys.storage d.1 }

/-- HOLDING_ATTACH. The wrapped keys lie in Plat 0's Cadastre, which must be mounted (R344, R400). -/
def holdingAttach (h : CmdHdr) (name auth : Nat) (create : Bool) (s : State) (_ : Ctx) : CmdRes :=
  if !mounted s 0 then .refuse s NOT_READY
  else
    let v := authValue s h.ctx auth name
    if create then v.elim (.refuse s ACCESS_DENIED) (attachNew s h.ctx name) else attachExisting s h.ctx name v

/-- While Plat 0 switches the command waits (R410). -/
def execHoldingAttach (h : CmdHdr) (name auth : Nat) (create : Bool) (s : State) : Host.Outcome State Fault Refusal :=
  .next (if (platOf s 0).switching then s else ctxCmd s (.holdingAttach h name auth create) h false (holdingAttach h name auth create))

/-- HOLDING_DETACH: the bindings of the Holding's objects end with its keys; the objects stay in the Cadastre. -/
def holdingDetach (h : CmdHdr) (k : Nat) (s : State) (_ : Ctx) : CmdRes :=
  if !holds s h.ctx k then .refuse s ACCESS_DENIED
  else
    let l := (s.objs.filter fun e => e.2.ctx == h.ctx && e.2.key == some k).map (·.1)
    { st := detachHolding (l.foldl (fun s o => removeObj s o 1 true) s) k }

def execHoldingDetach (h : CmdHdr) (handle : Nat) (s : State) : Host.Outcome State Fault Refusal :=
  .next (ctxCmd s (.holdingDetach h handle) h true (holdingDetach h handle))

/-! ### Shared engines (R101, R102) -/

def engineOf (s : State) : SharedEngine → SharedEng
  | .gcm => s.mon.gcm
  | .hash => s.mon.hash

def setEngine (s : State) (e : SharedEngine) (x : SharedEng) : State :=
  match e with
  | .gcm => { s with mon := { s.mon with gcm := x } }
  | .hash => { s with mon := { s.mon with hash := x } }

/-- A message comes to a shared engine: an idle one takes it. -/
def engineAsk (s : State) (e : SharedEngine) (c : Nat) (msg : Bytes) (w : EngWork) : State :=
  let x := engineOf s e
  let r : EngReq := { ctx := c, todo := msg, work := w, since := s.sup.now }
  setEngine s e (if x.cur.isNone then { x with cur := some r } else { x with wait := x.wait ++ [r] })

/-- A message to be hashed: it starts at the initial value. -/
def askHash (s : State) (c : Nat) (msg : Bytes) : State := engineAsk s .hash c msg (.hash sha384Init 0)

/-- A message to be decrypted and authenticated: its additional data goes with the first chunk. -/
def askGcm (s : State) (c : Nat) (key nonce aad msg : Bytes) : State :=
  engineAsk s .gcm c msg (.gcm key nonce aad.length (ghashOver key 0 aad) 0)

/-- What is saved of a message after a chunk of it: a hash takes whole blocks, the remainder of its last chunk only as the digest is
formed. -/
def EngWork.next (w : EngWork) (d : Bytes) : EngWork :=
  match w with
  | .hash v n =>
    .hash ((List.range (d.length / 128)).foldl (fun v i => shaBlock sha384Kind v ((d.drop (128 * i)).take 128)) v) (n + d.length)
  | .gcm k c a y n => .gcm k c a (ghashOver k y d) (n + d.length)

/-- The tag that an AES-GCM message's saved state comes to at its end. -/
def EngWork.tag : EngWork → Bytes
  | .gcm k c a y n => gcmFinish k c y a n
  | .hash _ _ => []

/-! ### Update commands (R399 to R405) -/

/-- The command checks that the update commands share: Surveyor, then the Cadastre of Plat 0 and its switch. -/
def updateCheck (s : State) (x : Ctx) : Nat :=
  firstFail [need x.surveyor ACCESS_DENIED, need (mounted s 0 && !(platOf s 0).switching) NOT_READY]

/-- Run an update command's body after its checks. -/
def updateCmd (body : State → Ctx → CmdRes) (s : State) (x : Ctx) : CmdRes :=
  match updateCheck s x with
  | 0 => body s x
  | st => .refuse s st

/-- Write in the Staging Area, as a commit group of Plat 0: the command completes once it is durable (R339, R400). -/
def stage (s : State) (h : CmdHdr) (a : StageAct) : CmdRes :=
  let s := newGroup s 0 [] (.staging (some (h.ctx, h.tag, h.flags)) a) []
  later s h.ctx (.archive h.tag h.flags)

/-- The image key that a manifest holds: `secret` is what the public-key engine gives for EPH and KEM_CT under the Update keys, the ECDH
secret and then the decapsulated one (R401). -/
def imageKey (b secret : Bytes) : Option Bytes :=
  let kek := hkdf384 ((b.drop 8).take 8) secret ("VLH image key".toList.map fun c => BitVec.ofNat 8 c.toNat) 32
  unwrapKey kek ((b.drop 0x788).take 40)

/-- The image that a manifest describes. -/
def manifestImage (b secret : Bytes) : Image :=
  { id := fld b 8 8, parcels := fld b 0x10 4, lastLen := fld b 0x14 4, svn := fld b 0x18 1, rolling := bit (fld b 0x19 1) 0,
    epoch := fld b 6 2, settings := fld b 0x1A 2, target := fld b 0x1C 4,
    formats := ((List.range 16).map fun i => (fld b (0x50 + 4 * i) 2, fld b (0x52 + 4 * i) 2)).filter fun e => e.1 != 0,
    digest := (b.drop 0x20).take 48, key := (imageKey b secret).getD [] }

/-- Bit of TARGET for a variant. -/
def targetBit : Variant → Nat
  | .vlh2 => 0
  | .vlh4 => 1
  | .vlh8 => 2

/-- The first checks of Table 11.10, which no signature enters. -/
def beginFields (s : State) (b : Bytes) (i : Image) : Nat :=
  firstFail [
    need (decide (s.mon.upd ≠ .armed ∧ s.mon.upd ≠ .activating)) CONFIG_REFUSED,
    need (decide (fld b 0 4 = 0x54534E4D ∧ 1 ≤ i.parcels ∧ i.parcels ≤ 768 ∧ 1 ≤ i.lastLen ∧ i.lastLen ≤ 65536 ∧ i.svn ≤ 64) &&
      i.formats.all fun e => decide (e.1 ≤ 4)) CONFIG_REFUSED,
    need (Config.manifestKnown s.mon.image.id (fld b 4 2)) VERSION_REFUSED]

/-- The checks of Table 11.10, in order. -/
def beginCheck (s : State) (replace : Bool) (b : Bytes) (proof : ManifestProof) : Nat :=
  let m := s.mon
  let i := manifestImage b proof.secret
  firstFail [
    beginFields s b i,
    need (proof.signed && decide ((b.drop 0x90).take 48 = sha384 m.keys.deviceId) && (imageKey b proof.secret).isSome) INTEGRITY,
    need (decide (s.fuses.counter ≤ i.svn) && bit i.target (targetBit s.part.variant)) VERSION_REFUSED,
    need (m.staged.all fun x => if x.id = i.id then decide (m.upd ≠ .complete) else replace) CONFIG_REFUSED]

/-- UPDATE_BEGIN. The signed part of the manifest goes through the hash engine, its signatures and secrets through the public-key engine. -/
def updateBegin (h : CmdHdr) (replace : Bool) (manifest : Option Bytes) (proof : ManifestProof) (s : State) (_ : Ctx) : CmdRes :=
  match manifest with
  | none => .refuse s INTEGRITY
  | some b =>
    let i := manifestImage b proof.secret
    let u := if beginFields s b i = 0 then askPk (askHash s h.ctx (b.take 2048)) [.verify, .verifyPq, .agree, .decapsulate] else s
    match beginCheck s replace b proof with
    | 0 => stage u h (.manifest i ((s.mon.staged.map (·.id)) = some i.id))
    | st => .refuse u st

def execUpdateBegin (h : CmdHdr) (replace : Bool) (manifest : Option Bytes) (proof : ManifestProof) (s : State) :
    Host.Outcome State Fault Refusal :=
  .next (if hostHeld s h.ctx then s
    else ctxCmd s (.updateBegin h replace manifest proof) h true (updateCmd (updateBegin h replace manifest proof)))

/-- Bytes of image in Parcel `n`. -/
def parcelLen (i : Image) (n : Nat) : Nat := if n + 1 = i.parcels then i.lastLen else 65536

/-- The GCM nonce of a Parcel (R402). -/
def parcelNonce (image n : Nat) : Bytes := le 8 image ++ le 4 n

/-- UPDATE_PARCEL: the first case of R402 that applies; the tag is checked when the AES-GCM engine has done the last chunk. The image key is
unwrapped again where a reset has destroyed it. -/
def updateParcel (h : CmdHdr) (len : Nat) (parcel : Option Bytes) (s : State) (_ : Ctx) : CmdRes :=
  match s.mon.staged, parcel with
  | some i, some b =>
    let n := fld b 4 4
    let size := fld b 0x10 4
    if s.mon.upd ≠ .receiving then .refuse s CONFIG_REFUSED
    else if fld b 0 4 ≠ 0x4C435250 ∨ i.parcels ≤ n ∨ fld b 8 8 ≠ i.id ∨ size ≠ parcelLen i n ∨ len ≠ 80 + size then
      .refuse s CONFIG_REFUSED
    else if (tget s.mon.parcels n).isSome then { st := s }
    else
      let s := { s with mon := { s.mon with keys := { s.mon.keys with image := some i.key } } }
      let s := askGcm s h.ctx i.key (parcelNonce i.id n) (b.take 64) ((b.drop 64).take size)
      later s h.ctx (.parcel n ((b.drop 64).take (size + 16)) h.tag h.flags)
  | none, _ => .refuse s CONFIG_REFUSED
  | some _, none => .refuse s (if s.mon.upd = .receiving then INTEGRITY else CONFIG_REFUSED)

def execUpdateParcel (h : CmdHdr) (length address : Nat) (parcel : Option Bytes) (s : State) : Host.Outcome State Fault Refusal :=
  .next (if hostHeld s h.ctx then s
    else ctxCmd s (.updateParcel h length address parcel) h true (updateCmd (updateParcel h length parcel)))

/-- The AES-GCM engine has done the last chunk of a context's Parcel and found a tag: one that differs from the Parcel's own, its last 16
bytes, stores nothing, as does a Parcel of an image no longer staged. -/
def parcelDone (s : State) (c : Nat) (found : Bytes) : State :=
  match (ctxOf s c).bind (·.busy) with
  | some (.parcel n d tag flags) =>
    if d.drop (d.length - 16) ≠ found then finishBusy s c tag flags 0xFFFF INTEGRITY 0
    else
      match s.mon.staged with
      | none => finishBusy s c tag flags 0xFFFF CONFIG_REFUSED 0
      | some i =>
        let s := newGroup s 0 [] (.staging (some (c, tag, flags)) (.parcel i.id n d)) []
        modCtx s c fun x => { x with busy := some (.archive tag flags) }
  | _ => s

/-- A chunk ends, of 4,096 bytes or the last and shorter: the request goes on waiting with what is left and with its saved state, or is
done; the engine turns to the request that waited longest (R101, R102). -/
def sharedEngineChunkDone (s : State) (e : SharedEngine) : State :=
  let x := engineOf s e
  match x.cur with
  | none => s
  | some r =>
    let w := r.work.next (r.todo.take 4096)
    if 4096 < r.todo.length then
      setEngine s e (serveNext (x.wait ++ [{ r with todo := r.todo.drop 4096, work := w, since := s.sup.now }]))
    else
      let s := setEngine s e (serveNext x.wait)
      match e with
      | .gcm => parcelDone s r.ctx w.tag
      | .hash => s

def execSharedEngineChunkDone (e : SharedEngine) (s : State) : Host.Outcome State Fault Refusal := .next (sharedEngineChunkDone s e)

/-- Update states as numbers (Table 13.23). -/
def updNum : Upd → Nat
  | .empty => 0
  | .receiving => 1
  | .complete => 2
  | .armed => 3
  | .activating => 4

/-- UPDATE_STATUS. -/
def updateStatus (s : State) (_ : Ctx) : CmdRes :=
  { st := s, result := s.mon.parcels.length + 4096 * updNum s.mon.upd + 65536 * s.fuses.counter }

def execUpdateStatus (h : CmdHdr) (s : State) : Host.Outcome State Fault Refusal :=
  .next (ctxCmd s (.updateStatus h) h false (updateCmd updateStatus))

/-- The plaintext of the staged image, Parcel after Parcel. -/
def imagePlain (s : State) (i : Image) : Bytes :=
  s.mon.parcels.flatMap fun e => gcmStream i.key (parcelNonce i.id e.1) (e.2.take (e.2.length - 16))

/-- The full-image pass ends (R403): every Parcel of the staged image is held, and the SHA-384 of the plaintext decides; a page of the Staging
Area that could not be read back has another plaintext. -/
def imageVerifyDone (s : State) (readOk : Bool) : State :=
  match s.mon.staged with
  | none => s
  | some i =>
    if s.mon.upd = .receiving ∧ s.mon.parcels.length = i.parcels then
      if readOk ∧ sha384 (imagePlain s i) = i.digest then
        eventTo { s with mon := { s.mon with upd := .complete } } (surveyors s) 0x0300 0 [(0x10, 8, i.id), (0x18, 2, i.parcels)]
      else
        eventTo { s with mon := { s.mon with upd := .empty, staged := none, parcels := [], keys := { s.mon.keys with image := none } } }
          (surveyors s) 0x0301 INTEGRITY [(0x10, 8, i.id), (0x18, 1, 1)]
    else s

def execImageVerifyDone (readOk : Bool) (s : State) : Host.Outcome State Fault Refusal := .next (imageVerifyDone s readOk)

/-- The staged image has the ID that a command names. -/
def stagedIs (s : State) (image : Nat) : Bool := (s.mon.staged.map (·.id)) == some image

/-- UPDATE_ARM (R405): the SVN again; the slot written and read back. -/
def updateArm (h : CmdHdr) (image : Nat) (readBack : Bool) (s : State) (_ : Ctx) : CmdRes :=
  match s.mon.staged with
  | none => .refuse s CONFIG_REFUSED
  | some i =>
    if s.mon.upd ≠ .complete ∨ i.id ≠ image then .refuse s CONFIG_REFUSED
    else if i.svn < s.fuses.counter then .refuse s VERSION_REFUSED
    else if readBack then stage s h .arm
    else .refuse (eventTo s (surveyors s) 0x0301 INTEGRITY [(0x10, 8, i.id), (0x18, 1, 2)]) INTEGRITY

def execUpdateArm (h : CmdHdr) (image : Nat) (readBack : Bool) (s : State) : Host.Outcome State Fault Refusal :=
  .next (ctxCmd s (.updateArm h image readBack) h false (updateCmd (updateArm h image readBack)))

/-- UPDATE_ABANDON from RECEIVING, COMPLETE or ARMED. -/
def updateAbandon (h : CmdHdr) (image : Nat) (s : State) (_ : Ctx) : CmdRes :=
  if s.mon.upd = .empty ∨ s.mon.upd = .activating ∨ ¬ stagedIs s image then .refuse s CONFIG_REFUSED else stage s h .abandon

def execUpdateAbandon (h : CmdHdr) (image : Nat) (s : State) : Host.Outcome State Fault Refusal :=
  .next (ctxCmd s (.updateAbandon h image) h true (updateCmd (updateAbandon h image)))

/-! ### Update Reset (R406 to R413) -/

/-- Plat `p` holds (R409): PLAT_SWITCH to every open context. -/
def holdPlat (s : State) (p : Nat) : State :=
  let s := modPlat s p fun x => { x with hold := true }
  eventAll { s with mon := { s.mon with activation := some ⟨p, s.sup.now⟩ } } 0x0302 0 [(0x10, 1, p), (0x18, 8, s.sup.now)]

/-- What refuses an Update Reset (R406). -/
def activateCheck (s : State) (i : Image) : Nat :=
  let ps := List.range (nPlats s)
  firstFail [
    need (ps.all (ready s)) NOT_READY,
    need (i.rolling && (ps.all fun p => decide (i.epoch ≤ (platOf s p).epoch + 1 ∧ (platOf s p).epoch ≤ i.epoch + 1)) &&
      s.mon.image.formats.all i.formats.contains) VERSION_REFUSED]

/-- UPDATE_ACTIVATE: the Update Reset starts at once; the completion marks its end (R75). -/
def updateActivate (h : CmdHdr) (image : Nat) (s : State) (_ : Ctx) : CmdRes :=
  match s.mon.staged with
  | none => .refuse s CONFIG_REFUSED
  | some i =>
    if s.mon.upd ≠ .armed ∨ i.id ≠ image then .refuse s CONFIG_REFUSED
    else
      match activateCheck s i with
      | 0 => later (holdPlat { s with mon := { s.mon with upd := .activating } } 0) h.ctx (.activate h.tag h.flags)
      | st => .refuse s st

def execUpdateActivate (h : CmdHdr) (image : Nat) (s : State) : Host.Outcome State Fault Refusal :=
  .next (ctxCmd s (.updateActivate h image) h false (updateCmd (updateActivate h image)))

/-- The Plat that an Update Reset has reached. -/
def activating (s : State) : Option Nat := s.mon.activation.map (·.plat)

/-- A Leg is on an engine of Plat `p`. -/
def platRuns (s : State) (p : Nat) : Bool :=
  (allLegs s).any fun e => decide (e.2.1.kind < 6) && onEngine e.2.2 && crewPlat s e.1.ctx e.2.1.stn == p

/-- Plat 0's switch ends every SPDM session but those of the Tie links; the TDIs that were locked enter ERROR (R410). -/
def endSessions (s : State) : State :=
  let tie (r : Responder) : Bool := match r with
    | .tieAuth _ => true
    | _ => false
  let s := { s with mon := { s.mon with sessions := s.mon.sessions.filter fun x => tie x.resp } }
  ((s.ctxs.filter fun e => tdiHeld e.2).map (·.1)).foldl (fun s c => closeCtx s c 6) s

/-- The held Plat's engines are idle: its switch begins. That of Plat 0 restarts the Monument from the ROM, which reads the UDS again
(R410). -/
def platSwitchBegin (s : State) (p : Nat) : State :=
  if activating s = some p ∧ ¬ (platOf s p).switching ∧ ¬ platRuns s p then
    let s := modPlat s p fun x => { x with switching := true, checked := false }
    if p = 0 then endSessions { s with mon := { s.mon with udsLocked := false } } else s
  else s

def execPlatSwitchBegin (plat : Nat) (s : State) : Host.Outcome State Fault Refusal := .next (platSwitchBegin s plat)

/-- Plat 0 activates an image: a blob of another Settings Format is replaced by the image's defaults, and the Tie links are
held DOWN (R413). -/
def checkSettings (s : State) (i : Image) : State :=
  if s.mon.blobFormat = i.settings then s
  else
    let old := s.mon.blobFormat
    let s := tiesDown (defaultSettings { s with mon := { s.mon with blobFormat := i.settings } })
    eventAll s 0x0305 0 [(0x10, 2, old), (0x12, 2, i.settings)]

/-- The image in the Boot Slot that is not the active one. -/
def otherSlot (m : Mon) : Option Image := if m.activeB then m.slotA else m.slotB

/-- Burn towards an SVN, the first step 1 ms later (R407). -/
def startBurn (s : State) (svn : Nat) : State :=
  if s.fuses.counter < svn then { s with mon := { s.mon with fuseTo := some svn, lastBurn := some s.sup.now } } else s

/-- The last Plat has passed: the armed slot becomes active, ACTIVATION_DONE, and the fuse counter is burnt (R404, R407). -/
def endActivation (s : State) (i : Image) : State :=
  let s := { s with mon := { s.mon with upd := .empty, activeB := !s.mon.activeB, armed := false, staged := none, parcels := [],
                                        activation := none } }
  let s := eventTo s (surveyors s) 0x0304 0 [(0x10, 8, i.id), (0x18, 1, i.svn), (0x19, 1, max s.fuses.counter i.svn)]
  let s := startBurn s i.svn
  s.ctxs.foldl (fun s e => match e.2.busy with
    | some (.activate tag flags) => finishBusy s e.1 tag flags 0xFFFF 0 0
    | _ => s) s

/-- The next ready Plat after `p` holds, or the Update Reset ends. -/
def nextHold (s : State) (p : Nat) (i : Image) : State :=
  match (List.range (nPlats s)).find? fun q => decide (p < q) && ready s q with
  | some q => holdPlat s q
  | none => endActivation s i

/-- The Monument runs the new firmware: CDI_M and the Alias key are those of its image, the other keys stand; what the switch held back on
the Tie links goes on (R410). -/
def newMonument (s : State) (i : Image) : State :=
  let s := romDerive { s with mon := { s.mon with image := i } } i
  (List.range (nTie s)).foldl (fun s t => beginAuth (tieRekey s t) t) s

/-- A Plat's switch ends: it runs the image and resumes (R409). -/
def platActivated (s : State) (p : Nat) : State :=
  match otherSlot s.mon with
  | none => s
  | some i =>
    if activating s = some p ∧ (platOf s p).switching ∧ (platOf s p).checked then
      let s := modPlat s p fun x =>
        { x with hold := false, switching := false, checked := false, epoch := i.epoch, imageId := i.id }
      let s := if p = 0 then newMonument s i else s
      let s := eventAll s 0x0303 0 [(0x10, 1, p), (0x12, 2, i.epoch), (0x18, 8, s.sup.now)]
      nextHold s p i
    else s

def execPlatActivated (plat : Nat) (s : State) : Host.Outcome State Fault Refusal := .next (platActivated s plat)

/-! ### Fuses (R398, R407) -/

/-- One step of the fuse counter, at most one per 1 ms. -/
def fuseCounterBurn (s : State) : State :=
  match s.mon.fuseTo with
  | none => s
  | some n =>
    if (s.mon.lastBurn.map fun t => decide (t + 1000000 ≤ s.sup.now)).getD true then
      let c := min 64 (s.fuses.counter + 1)
      { s with fuses := { s.fuses with counter := c },
               mon := { s.mon with lastBurn := some s.sup.now, fuseTo := if n ≤ c then none else some n } }
    else s

def execFuseCounterBurn (s : State) : Host.Outcome State Fault Refusal := .next (fuseCounterBurn s)

/-- FIELD_LOCK: Surveyor and the confirmation word; the burn begins. -/
def fieldLock (h : CmdHdr) (word : Nat) (s : State) (x : Ctx) : CmdRes :=
  if !x.surveyor || word != 0x4C4F434B then .refuse s ACCESS_DENIED
  else later { s with mon := { s.mon with burn := true } } h.ctx (.fieldLock h.tag h.flags)

/-- While Plat 0 switches the command waits (R399). -/
def execFieldLock (h : CmdHdr) (word : Nat) (s : State) : Host.Outcome State Fault Refusal :=
  .next (if (platOf s 0).switching then s else ctxCmd s (.fieldLock h word) h false (fieldLock h word))

/-- The burn ends: the fuse is blown, and the commands that wait for it complete. -/
def fieldLockBurnDone (s : State) : State :=
  if s.mon.burn then
    let s := { s with fuses := { s.fuses with fieldLock := true }, mon := { s.mon with burn := false }, svcHeld := none, svcStall := none }
    s.ctxs.foldl (fun s e => match e.2.busy with
      | some (.fieldLock tag flags) => finishBusy s e.1 tag flags 0xFFFF 0 0
      | _ => s) s
  else s

def execFieldLockBurnDone (s : State) : Host.Outcome State Fault Refusal := .next (fieldLockBurnDone s)

end Sys2Proof.Machine
end

