-- ==== Sys2Proof/Machine/Spdm.lean ====
section
/-!
DEFINITION. What the Monument answers over SPDM, IDE_KM, TDISP and DOE Discovery (R353, R391 to R396, R415): codes and
message layouts of DSP0274, IDE_KM and TDISP are PRESUMED (log 14).
The model's own: log 14 (PRESUMED), log 39 (DEDUCED).
-/
namespace Sys2Proof.Machine
open Sys2Proof

/-! ### Who is answered (Tables 11.3, 12.2; R410, R415) -/

/-- DSP0274 ErrorCodes. -/
abbrev invalidRequest : Nat := 1
abbrev spdmBusy : Nat := 3
abbrev decryptError : Nat := 6
abbrev unsupportedRequest : Nat := 7
abbrev versionMismatch : Nat := 0x41

/-- The Monument takes a request from this asker now; in the Terminal state it answers though no Boot Slot passed (R415). -/
def answers (s : State) (r : Responder) : Bool :=
  (monReady s || terminal s) && (match r with
    | .doePf p => decide (p < nHost s) && linkUp s p
    | .doeVf p v => decide (p < nHost s ∧ v < 64) && linkUp s p
    | .ring c => (ctxOf s c).isSome
    | .tieAuth t => decide (t < nTie s) && (tieUp s t || decide ((tieOf s t).st = .auth)))

/-- A row of Table 11.3 is answered: 1 and 2 always, 3 in neither SPDM_EXCHANGE nor the Terminal state. -/
def rowAnswered (s : State) (r : Responder) (row : Nat) : Bool :=
  decide (row ≤ 2) || (!terminal s && match r with
    | .ring _ => false
    | _ => true)

/-- Answer a request of a row, or ERROR UnsupportedRequest. -/
def spdmReply (s : State) (r : Responder) (row : Nat) (body : State → State × SpdmResp) : State :=
  if answers s r then
    if rowAnswered s r row then emit (body s).1 (.spdm r (body s).2) else emit s (.spdm r (.error unsupportedRequest))
  else s

/-- The versions of DSP0274 that the device answers under (R391), as SPDMVersion spells them. -/
def spdmVersions : List Nat := [0x12, 0x13]

/-- Answer a request of a row, made under a version that the device answers, or ERROR. -/
def spdmAsk (s : State) (a : Asker) (row : Nat) (body : State → State × SpdmResp) : State :=
  spdmReply s a.who row fun s => if spdmVersions.contains a.version then body s else (s, .error versionMismatch)

/-- A signature by the Alias key, which the public-key engine makes (R388, R397). -/
def aliasSign (s : State) : Bytes × State :=
  (Config.ecdsaSign s.mon.keys.alias_ s.free, askPk { s with free := s.free + 1 } [.sign])

/-- An answer that changes nothing else. -/
def only (a : State → SpdmResp) (s : State) : State × SpdmResp := (s, a s)

/-! ### Rows 1 and 2 of Table 11.3 -/

/-- GET_VERSION tells the versions; it is answered whatever its own version byte. -/
def execGetVersion (a : Asker) (s : State) : Host.Outcome State Fault Refusal :=
  .next (spdmReply s a.who 1 (only fun _ => .version spdmVersions))

def execGetCapabilities (a : Asker) (s : State) : Host.Outcome State Fault Refusal :=
  .next (spdmAsk s a 1 (only fun _ => .capabilities))

/-- NEGOTIATE_ALGORITHMS: one of each kind, or InvalidRequest (R391). -/
def algAnswer (o : AlgOffer) : SpdmResp :=
  if o.ecdsaP384 && o.sha384 && o.secp384r1 && o.aes256gcm && o.dmtf then .algorithms else .error invalidRequest

def execNegotiateAlgorithms (a : Asker) (o : AlgOffer) (s : State) : Host.Outcome State Fault Refusal :=
  .next (spdmAsk s a 1 (only fun _ => algAnswer o))

/-- Certificate slot 0 alone (R388). -/
def digestsAnswer (s : State) : SpdmResp := .digests 1 (sha384 s.mon.keys.chain)

def execGetDigests (a : Asker) (s : State) : Host.Outcome State Fault Refusal := .next (spdmAsk s a 2 (only digestsAnswer))

def certAnswer (slot off len : Nat) (s : State) : SpdmResp :=
  if slot = 0 then .certificate off ((s.mon.keys.chain.drop off).take len) else .error invalidRequest

def execGetCertificate (a : Asker) (slot offset length : Nat) (s : State) : Host.Outcome State Fault Refusal :=
  .next (spdmAsk s a 2 (only (certAnswer slot offset length)))

def challengeAnswer (slot : Nat) (s : State) : State × SpdmResp :=
  if slot = 0 then ((aliasSign s).2, .challengeAuth (aliasSign s).1) else (s, .error invalidRequest)

def execChallenge (a : Asker) (slot : Nat) (s : State) : Host.Outcome State Fault Refusal :=
  .next (spdmAsk s a 2 (challengeAnswer slot))

/-- Plats run different images (R409, R460). -/
def mixedImages (s : State) : Bool :=
  let l := ((List.range (nPlats s)).filter fun p => decide ((platOf s p).st = .ready)).map fun p => (platOf s p).imageId
  l.any fun i => i != l.headD 0

/-- IMAGE_DIGEST of an image that a Plat runs. -/
def digestOf (s : State) (id : Nat) : Bytes :=
  ((s.mon.image :: (s.mon.slotA.toList ++ s.mon.slotB.toList)).find? fun i => i.id == id).elim [] (·.digest)

/-- The measurement blocks (Table 11.4). -/
def measBlocks (s : State) : List (Nat × Bytes) :=
  [(1, Config.measured 1 [s.part.stepping]), (2, Config.firmwareDigest s.mon.image.digest),
    (3, le 8 s.mon.image.svn ++ le 1 s.fuses.counter ++
      le 1 (b2n s.fuses.fieldLock + 2 * b2n (terminal s) + 4 * b2n (mixedImages s)) ++ le 2 (platOf s 0).epoch),
    (4, Config.measured 4 (s.mon.blobFormat :: s.settings.flatMap fun e => [e.1, e.2.durable]))] ++
  ((List.range (nPlats s)).filter (ready s)).map fun p => (0x10 + p, digestOf s (platOf s p).imageId)

/-- Measurement blocks as asked, signed by the Alias key where that is requested. -/
def measOf (l : List (Nat × Bytes)) (signed : Bool) (s : State) : State × SpdmResp :=
  if signed then ((aliasSign s).2, .measurements l (some (aliasSign s).1)) else (s, .measurements l none)

/-- GET_MEASUREMENTS: index 0 asks for the number of blocks, 0xFF for all. -/
def measAnswer (index : Nat) (signed : Bool) (s : State) : State × SpdmResp :=
  let l := measBlocks s
  if index = 0 then (s, .measCount l.length)
  else if index = 0xFF then measOf l signed s
  else match l.filter fun b => b.1 == index with
    | [] => (s, .error invalidRequest)
    | b => measOf b signed s

def execGetMeasurements (a : Asker) (index : Nat) (signed : Bool) (s : State) : Host.Outcome State Fault Refusal :=
  .next (spdmAsk s a 2 (measAnswer index signed))

def execUnsupportedSpdmRequest (a : Asker) (_code : Nat) (s : State) : Host.Outcome State Fault Refusal :=
  .next (spdmAsk s a 1 (only fun _ => .error unsupportedRequest))

/-! ### Sessions (R392) -/

/-- Sessions that an asker may hold. -/
def sessionLimit : Responder → Nat
  | .doePf _ => 8
  | _ => 1

def sessionsOf (s : State) (r : Responder) : List Session := s.mon.sessions.filter fun x => x.resp == r

/-- KEY_EXCHANGE with mutual authentication: a session begins under keys of its own, or Busy beyond the limit. -/
def keyExchange (a : Asker) (mutualAuth : Bool) (s : State) : State × SpdmResp :=
  if !mutualAuth then (s, .error unsupportedRequest)
  else if sessionLimit a.who ≤ (sessionsOf s a.who).length then (s, .error spdmBusy)
  else
    let n := s.mon.nextSess
    let k := freeBytes (askPk s [.agree]) 88
    let g := aliasSign k.2
    let x : Session := { id := n, resp := a.who, version := a.version, keys := k.1 }
    ({ g.2 with mon := { g.2.mon with sessions := g.2.mon.sessions ++ [x], nextSess := n + 1 } }, .keyExchange n g.1)

def execKeyExchange (a : Asker) (mutualAuth : Bool) (s : State) : Host.Outcome State Fault Refusal :=
  .next (spdmAsk s a 3 (keyExchange a mutualAuth))

/-- An asker holds this session, established or not. -/
def hasSession (s : State) (r : Responder) (n : Nat) (done : Bool) : Bool :=
  s.mon.sessions.any fun x => x.id == n && x.resp == r && x.finished == done

def dropSession (s : State) (n : Nat) : State :=
  { s with mon := { s.mon with sessions := s.mon.sessions.filter fun x => x.id != n } }

/-- Change a session. -/
def modSession (s : State) (n : Nat) (f : Session → Session) : State :=
  { s with mon := { s.mon with sessions := s.mon.sessions.map fun x => if x.id = n then f x else x } }

/-- FINISH: the requester's signature holds and the handshake completes, or it fails and its session with it. -/
def finishSession (r : Responder) (n : Nat) (ok : Bool) (s : State) : State × SpdmResp :=
  if !hasSession s r n false then (s, .error invalidRequest)
  else
    let s := askPk s [.verify]
    if ok then (modSession s n fun x => { x with finished := true }, .finish n) else (dropSession s n, .error decryptError)

def execFinish (a : Asker) (session : Nat) (ok : Bool) (s : State) : Host.Outcome State Fault Refusal :=
  .next (spdmAsk s a 3 (finishSession a.who session ok))

/-- KEY_UPDATE: the session has new keys; of a Tie link the neighbour's direction, whose sender asks (R394). -/
def keyUpdate (r : Responder) (n : Nat) (s : State) : State × SpdmResp :=
  match r with
  | .tieAuth t =>
    if (tieOf s t).session || hasSession s r n true then (newLinkKeys s t false true, .keyUpdate n) else (s, .error invalidRequest)
  | _ =>
    if hasSession s r n true then
      let k := freeBytes s 88
      (modSession k.2 n fun x => { x with keys := k.1 }, .keyUpdate n)
    else (s, .error invalidRequest)

def execKeyUpdate (a : Asker) (session : Nat) (s : State) : Host.Outcome State Fault Refusal :=
  .next (spdmAsk s a 3 (keyUpdate a.who session))

def execHeartbeat (a : Asker) (session : Nat) (s : State) : Host.Outcome State Fault Refusal :=
  .next (spdmAsk s a 3 (only fun s => if hasSession s a.who session true then .heartbeat session else .error invalidRequest))

/-- The TDIs locked in a session of a PF enter ERROR with its end (R396). -/
def sessionGone (s : State) (r : Responder) (n : Nat) : State :=
  match r with
  | .doePf p =>
    ((s.ctxs.filter fun e => e.2.port == p && e.2.session == n && tdiHeld e.2).map (·.1)).foldl (fun s c => closeCtx s c 5) s
  | _ => s

/-- END_SESSION: the session's keys are destroyed (R389). -/
def endSession (r : Responder) (n : Nat) (s : State) : State × SpdmResp :=
  if hasSession s r n true || hasSession s r n false then (sessionGone (dropSession s n) r n, .endSession n)
  else (s, .error invalidRequest)

def execEndSession (a : Asker) (session : Nat) (s : State) : Host.Outcome State Fault Refusal :=
  .next (spdmAsk s a 3 (endSession a.who session))

/-! ### SPDM_EXCHANGE (R391, R399) -/

/-- What a NEGOTIATE_ALGORITHMS message offers (DSP0274, PRESUMED). -/
def algOffer (b : Bytes) : AlgOffer :=
  let at_ := 32 + 4 * (fld b 28 1 + fld b 29 1)
  let tab (type bitNo : Nat) : Bool := (List.range (fld b 2 1)).any fun i =>
    fld b (at_ + 4 * i) 1 == type && bit (fld b (at_ + 4 * i + 2) 2) bitNo
  { ecdsaP384 := bit (fld b 8 4) 7, sha384 := bit (fld b 12 4) 1, secp384r1 := tab 2 4, aes256gcm := tab 3 1, dmtf := bit (fld b 6 1) 0 }

/-- The answer to a request by its version and RequestResponseCode (DSP0274, PRESUMED). -/
def ringAnswer (b : Bytes) (s : State) : State × SpdmResp :=
  if fld b 1 1 = 0x84 then (s, .version spdmVersions)
  else if !spdmVersions.contains (fld b 0 1) then (s, .error versionMismatch)
  else
    match fld b 1 1 with
    | 0xE1 => (s, .capabilities)
    | 0xE3 => (s, algAnswer (algOffer b))
    | 0x81 => (s, digestsAnswer s)
    | 0x82 => (s, certAnswer (fld b 2 1) (fld b 4 2) (fld b 6 2) s)
    | 0x83 => challengeAnswer (fld b 2 1) s
    | 0xE0 => measAnswer (fld b 3 1) (bit (fld b 2 1) 0) s
    | _ => (s, .error unsupportedRequest)

/-- SPDM_EXCHANGE: the response is written to host memory, its length returned. -/
def spdmExchange (h : CmdHdr) (cap address : Nat) (request : Option Bytes) (s : State) (x : Ctx) : CmdRes :=
  match request with
  | none => .refuse s INTEGRITY
  | some b =>
    if b.length < 4 ∨ 4096 < b.length ∨ 65536 < cap then .refuse s CONFIG_REFUSED
    else
      let a := ringAnswer b (askHash s h.ctx b)
      let s := { a.1 with free := a.1.free + 1 }
      let d := Config.spdmBytes a.1.free
      if cap < d.length then .refuse s CONFIG_REFUSED
      else { st := postData (emit s (.spdm (.ring h.ctx) a.2)) x.port (.vf x.vf) address d, result := d.length }

/-- Carried out in the Terminal state as well; while Plat 0 switches it waits (R410, R415). -/
def execSpdmExchange (h : CmdHdr) (capacity address : Nat) (request : Option Bytes) (s : State) : Host.Outcome State Fault Refusal :=
  .next (if (platOf s 0).switching || hostHeld s h.ctx then s
    else ctxCmdAlways s (.spdmExchange h capacity address request) h (spdmExchange h capacity address request))

/-! ### IDE_KM (R361, R393) -/

/-- A vendor-defined message in an established session with a port's PF; `outside` answers one that is not. -/
def vendorAsk (s : State) (p n : Nat) (outside : SpdmResp) (body : State → State × SpdmResp) : State :=
  spdmReply s (.doePf p) 3 fun s => if hasSession s (.doePf p) n true then body s else (s, outside)

/-- The port can take the keys of a stream: one link stream, four selective ones. -/
def streamRoom (x : Port) (stream : Nat) (sel : Option Fn) : Bool :=
  let others := x.ide.filter fun e => e.1 != stream
  match sel with
  | none => others.all fun e => e.2.selective.isSome
  | some _ => decide ((others.filter fun e => e.2.selective.isSome).length < 4)

def keyProg (p n stream : Nat) (sel : Option Fn) (key : Bytes) (s : State) : State × SpdmResp :=
  let x := portOf s p
  if streamRoom x stream sel then
    let was := ((tget x.ide stream).map fun e => e.secure && e.selective == sel).getD false
    (modPort s p fun x => { x with ide := tput x.ide stream { selective := sel, key := key, secure := was, session := n } }, .ideKm 0 stream)
  else (s, .ideKm 1 stream)

def execKeyProg (port session : Nat) (k : StreamKey) (selective : Option Fn) (s : State) : Host.Outcome State Fault Refusal :=
  .next (vendorAsk s port session (.error unsupportedRequest) (keyProg port session k.stream selective k.key))

/-- Put a keyed stream in or out of the Secure state; `code` acknowledges it. -/
def keySet (p stream code : Nat) (on : Bool) (s : State) : State × SpdmResp :=
  match tget (portOf s p).ide stream with
  | none => (s, .ideKm 1 stream)
  | some e => (modPort s p fun x => { x with ide := tput x.ide stream { e with secure := on } }, .ideKm code stream)

def execKSetGo (port session stream : Nat) (s : State) : Host.Outcome State Fault Refusal :=
  .next (vendorAsk s port session (.error unsupportedRequest) (keySet port stream 2 true))

def execKSetStop (port session stream : Nat) (s : State) : Host.Outcome State Fault Refusal :=
  .next (vendorAsk s port session (.error unsupportedRequest) (keySet port stream 3 false))

/-- IDE integrity checking fails on a stream: it is insecure, a security fault is entered, and the TDIs that use it enter
ERROR (R393, R396, R440). -/
def ideFailure (s : State) (p stream : Nat) : State :=
  match tget (portOf s p).ide stream with
  | none => s
  | some e =>
    if p < nHost s ∧ e.secure then
      let s := modPort s p fun x => { x with ide := tput x.ide stream { e with secure := false } }
      let s := logFault s 0x0C (hostPlat s p) 0 p 0
      ((s.ctxs.filter fun c => c.2.port == p && c.2.stream == some stream && tdiHeld c.2).map (·.1)).foldl
        (fun s c => closeCtx s c 4) s
    else s

def execIdeFailure (port stream : Nat) (s : State) : Host.Outcome State Fault Refusal := .next (ideFailure s port stream)

/-! ### TDISP (R395, R396) -/

/-- State of a TDI: ERROR outlives the context that it closed. -/
def tdiState (s : State) (p v : Nat) : Tdi :=
  if (portOf s p).tdiErr.contains v then .error else ((vfCtx s p v).map (·.2.tdi)).getD .unlocked

def tdiNum : Tdi → Nat
  | .unlocked => 0
  | .locked => 1
  | .run => 2
  | .error => 3

def setTdi (s : State) (c : Nat) (t : Tdi) (stream : Option Nat) (session : Nat) : State :=
  modCtx s c fun x => { x with tdi := t, stream := stream, session := session }

/-- A TDISP request to one of the port's 64 virtual functions. -/
def tdispAsk (s : State) (p n vf : Nat) (body : State → State × SpdmResp) : State :=
  vendorAsk s p n (.error unsupportedRequest) fun s => if vf < 64 then body s else (s, .tdispError)

def execGetTdispVersion (port session vf : Nat) (s : State) : Host.Outcome State Fault Refusal :=
  .next (tdispAsk s port session vf (only fun _ => .tdisp 1 [0x10]))

def execGetTdispCapabilities (port session vf : Nat) (s : State) : Host.Outcome State Fault Refusal :=
  .next (tdispAsk s port session vf (only fun _ => .tdisp 2 []))

/-- LOCK_INTERFACE_REQUEST: an open context that is no Surveyor's, a selective stream bound to the VF, a session with the PF;
else a TDISP error. -/
def lockInterface (p n vf : Nat) (s : State) : State × SpdmResp :=
  match vfCtx s p vf, (portOf s p).ide.find? fun e => e.2.selective == some (.vf vf) with
  | some (c, x), some (k, _) =>
    if x.surveyor || decide (tdiState s p vf ≠ .unlocked) then (s, .tdispError) else (setTdi s c .locked (some k) n, .tdisp 3 [])
  | _, _ => (s, .tdispError)

def execLockInterfaceRequest (port session vf : Nat) (s : State) : Host.Outcome State Fault Refusal :=
  .next (vendorAsk s port session .tdispError (lockInterface port session vf))

/-- The report of R395: BAR0 range, vectors, context number, Crew size, Stakes, ring bases and depths, identifiers of the Main and
the Archive key. -/
def interfaceReport (p vf : Nat) (s : State) : SpdmResp :=
  match vfCtx s p vf with
  | none => .tdispError
  | some (c, x) => .tdisp 4 [16384, 32, c, x.crew.length, x.stakes.length, x.sqBase, x.cqBase, x.eqBase, x.dbBase,
      2 ^ x.sqLog, 2 ^ x.cqLog, 2 ^ x.eqLog, 2 * x.keyGen, 2 * x.keyGen + 1]

def execGetDeviceInterfaceReport (port session vf : Nat) (s : State) : Host.Outcome State Fault Refusal :=
  .next (tdispAsk s port session vf (only (interfaceReport port vf)))

def execGetDeviceInterfaceState (port session vf : Nat) (s : State) : Host.Outcome State Fault Refusal :=
  .next (tdispAsk s port session vf (only fun s => .tdisp 5 [tdiNum (tdiState s port vf)]))

/-- START_INTERFACE_REQUEST: a locked TDI goes to RUN. -/
def startInterface (p vf : Nat) (s : State) : State × SpdmResp :=
  match vfCtx s p vf with
  | some (c, x) => if tdiState s p vf = .locked then (setTdi s c .run x.stream x.session, .tdisp 6 []) else (s, .tdispError)
  | none => (s, .tdispError)

def execStartInterfaceRequest (port session vf : Nat) (s : State) : Host.Outcome State Fault Refusal :=
  .next (tdispAsk s port session vf (startInterface port vf))

/-- STOP_INTERFACE_REQUEST returns the TDI to CONFIG_UNLOCKED, from ERROR as well (R396). -/
def stopInterface (p vf : Nat) (s : State) : State × SpdmResp :=
  let s := modPort s p fun x => { x with tdiErr := x.tdiErr.filter (· != vf) }
  match vfCtx s p vf with
  | some (c, _) => (setTdi s c .unlocked none 0, .tdisp 7 [])
  | none => (s, .tdisp 7 [])

def execStopInterfaceRequest (port session vf : Nat) (s : State) : Host.Outcome State Fault Refusal :=
  .next (tdispAsk s port session vf (stopInterface port vf))

/-! ### DOE Discovery (R353) -/

/-- The protocol at an index of the discovery, and the next index: DOE Discovery, CMA-SPDM, Secured CMA-SPDM. -/
def discovery (index : Nat) : SpdmResp := .protocols (if index < 3 then [index, (index + 1) % 3] else [])

def doeDiscovery (s : State) (p : Nat) (f : Fn) (index : Nat) : State :=
  let r : Responder := match f with
    | .pf => .doePf p
    | .vf v => .doeVf p v
  if answers s r then emit s (.doe p f (discovery index)) else s

def execDoeDiscovery (port : Nat) (f : Fn) (index : Nat) (s : State) : Host.Outcome State Fault Refusal :=
  .next (doeDiscovery s port f index)

end Sys2Proof.Machine
end

