-- ==== Sys2Proof/Machine/HostPort.lean ====
section
/-!
DEFINITION. Host Ports (R351 to R362, R366 to R368): Level Runs and links, link-downs and their grace, resets and power
states of functions, MSI-X masks, configuration writes, failed host reads.
The model's own: log 5 (PRESUMED), log 25 (DEDUCED), log 44 (PRESUMED).
-/
namespace Sys2Proof.Machine
open Sys2Proof

/-! ### Level Runs and links (R352, R361, R366 to R368) -/

/-- A Host Port may run: the variant has it, its Plat is released and in service, the Monument runs, the package has not
tripped (Table 12.1, R424, R446). -/
def hostAllowed (s : State) (p : Nat) : Bool :=
  decide (p < nHost s) && s.sup.running && !s.sup.tripped && s.mon.running &&
    (decide ((platOf s (hostPlat s p)).st = .measuring) || decide ((platOf s (hostPlat s p)).st = .ready))

/-- A Host Port's full Level Run starts. -/
def startLevel (s : State) (p : Nat) : State :=
  emit (modPort s p fun x => { x with link := 1, levelAt := s.sup.now }) (.levelRun (.host p) false)

/-- A Level Run starts: a full one on a port that is down, a short one on a port whose lane has failed. -/
def levelRun (s : State) (p : PortRef) (short : Bool) : State :=
  match p with
  | .host n =>
    if short then (if n < nHost s ∧ (portOf s n).link = 4 then emit s (.levelRun p true) else s)
    else if hostAllowed s n ∧ (portOf s n).link = 0 then startLevel s n else s
  | .tie t =>
    if (if short then decide ((tieOf s t).st = .recovery) else decide ((tieOf s t).st = .levelRun)) && decide (t < nTie s) then
      emit s (.levelRun p short)
    else s

def execLevelRun (p : PortRef) (short : Bool) (s : State) : Host.Outcome State Fault Refusal := .next (levelRun s p short)

/-- Plat of a port. -/
def portPlat (s : State) : PortRef → Nat
  | .host n => hostPlat s n
  | .tie t => tiePlat s t

/-- A port has lost its spare lane: SPARES_LOW of kind 2 (R433). -/
def tellLane (s : State) (p : PortRef) : State :=
  eventAll s 0x0405 0 [(0x10, 1, portPlat s p), (0x11, 1, 2), (0x12, 1, 0), (0x13, 1, match p with | .host n => n | .tie t => t)]

/-- CRC-16 of R366 over the top 48 bits of a Lane Word, most significant first. -/
def laneCrc (w : Nat) : Nat :=
  ((List.range 48).reverse.map fun i => bit w (16 + i)).foldl
    (fun c b => if bit c 15 != b then (c * 2 % 65536) ^^^ 0x1021 else c * 2 % 65536) 0xFFFF

/-- The Lane Word that a lane sends (R366): port kind 1 for a Host Port, 2 for a Tie Port; the lane, 4 for S; the lanes that this side
receives well. -/
def laneWord (kind lane good : Nat) : Nat :=
  let w := 0xC3A5 * 2 ^ 48 + kind * 2 ^ 44 + lane * 2 ^ 40 + good * 2 ^ 35
  w + laneCrc w

/-- Physical lanes of a port as Lane Words number them, lane S last. -/
def physLanes : PortRef → List Nat
  | .host _ => [0, 1, 2, 3, 4]
  | .tie _ => [0, 1, 4]

/-- Port kind in Lane Words. -/
def portKind : PortRef → Nat
  | .host _ => 1
  | .tie _ => 2

/-- Bits [39:35] of the Lane Words that this side sends: the lanes whose PRBS it received with at most 16 errors, or, in a short run, with
none. -/
def rxGood (p : PortRef) (short : Bool) (l : List LaneRx) : Nat :=
  (enum (physLanes p)).foldl (fun n e =>
    n + 2 ^ e.2 * b2n ((l[e.1]?.map fun x => decide (x.errors ≤ if short then 0 else 16)).getD false)) 0

/-- The lanes that the far end receives well, as the Lane Words of its lanes show. -/
def peerGood (p : PortRef) (l : List LaneRx) : Nat :=
  ((enum (physLanes p)).filterMap fun e => (l[e.1]?.bind (·.word)).bind fun w =>
    let good := bits w 39 35
    if w = laneWord (portKind p) e.2 good then some good else none).foldl (· ||| ·) 0

/-- The lanes good in both directions, in the port's order: 0 first, S last (R366, R367). -/
def goodLanes (p : PortRef) (short : Bool) (l : List LaneRx) : List Nat :=
  ((enum (physLanes p)).filter fun e => bit (rxGood p short l) e.2 && bit (peerGood p l) e.2).map (·.1)

/-- The run under way on a port is a short one: its lane has failed (R368). -/
def shortRun (s : State) : PortRef → Bool
  | .host n => (portOf s n).link == 4
  | .tie t => decide ((tieOf s t).st = .recovery)

/-- The spare lane is there while every lane is good. -/
def hostLanes (s : State) (p : Nat) (good : List Nat) : State :=
  let spare := decide (good.length = 5)
  let tell := (portOf s p).spareLane && !spare
  let s := modPort s p fun x => { x with good := good, width := if 4 ≤ good.length then 4 else 2, spareLane := spare }
  if tell then tellLane s (.host p) else s

/-- A Host Port's link is down: its lanes are free, LINK_GRACE runs if it had been up (R360). -/
def hostDown (s : State) (p : Nat) : State :=
  let was := linkUp s p
  modPort s p fun x =>
    let d : Option Down := if was && (x.down.all fun d => d.up.isSome) then some { at_ := s.sup.now, graceMs := x.graceMs } else x.down
    { x with link := 0, width := 0, good := [], down := d, downDrops := if was then 0 else x.downDrops }

/-- Logical lanes are mapped (R352, R367): with fewer than two good lanes a Host Port does not train. -/
def mapLanes (s : State) (p : PortRef) (l : List Nat) : State :=
  match p with
  | .host n =>
    if l.length < 2 then hostDown s n
    else modPort (hostLanes s n l) n fun x => { x with link := if x.link = 1 then 2 else 3 }
  | .tie t =>
    let spare := decide (l.length = 3)
    let tell := (tieOf s t).spareLane && !spare
    let s := tieLevelDone (modTie s t fun x => { x with spareLane := spare }) t l
    if tell then tellLane s p else s

/-- A Level Run is under way on a port. -/
def levelling (s : State) : PortRef → Bool
  | .host n => decide (n < nHost s) && ((portOf s n).link == 1 || (portOf s n).link == 4)
  | .tie t => decide (t < nTie s) && (decide ((tieOf s t).st = .levelRun) || decide ((tieOf s t).st = .recovery))

/-- A Level Run ends: both sides have sent their Lane Words, and the lanes good in both directions are mapped. -/
def levelRunDone (s : State) (p : PortRef) (rx : List LaneRx) : State :=
  if levelling s p then
    let short := shortRun s p
    let words := (physLanes p).map fun i => laneWord (portKind p) i (rxGood p short rx)
    mapLanes (emit s (.laneWords p words)) p (goodLanes p short rx)
  else s

def execLevelRunDone (p : PortRef) (lanes : List LaneRx) (s : State) : Host.Outcome State Fault Refusal :=
  .next (levelRunDone s p lanes)

/-- The partner is incompatible: the link does not reach L0, and the Level Run is repeated every 100 ms (Table 10.5). -/
def levelRunRetry (s : State) (p : Nat) : State :=
  let x := portOf s p
  if hostAllowed s p ∧ x.link = 2 ∧ x.levelAt + 100000000 ≤ s.sup.now then
    startLevel (modPort s p fun x => { x with incompat := true, width := 0, good := [] }) p
  else s

def execLevelRunRetry (port : Nat) (s : State) : Host.Outcome State Fault Refusal := .next (levelRunRetry s port)

/-- The functions of a port send the messages they hold (R360). -/
def sendAllPending (s : State) (p : Nat) : State := (portFns s p).foldl (fun s f => sendPending s p f) s

/-- A Host Port's training ends in L0, at 64 or 32 GT/s, at x4, or at x2 where only two or three of its lanes are good (R352). -/
def linkL0 (s : State) (p width : Nat) (fast : Bool) : State :=
  if hostAllowed s p ∧ (portOf s p).link = 2 ∧ width = (portOf s p).width then
    let s := modPort s p fun x =>
      { x with link := 3, width := width, fast := fast, incompat := false, down := x.down.map fun d => { d with up := some s.sup.now } }
    markScan (sendAllPending s p)
  else s

def execLinkL0 (port width : Nat) (fast : Bool) (s : State) : Host.Outcome State Fault Refusal := .next (linkL0 s port width fast)

/-- A lane of a running port loses signal or is declared lasting: traffic stops until a short Level Run is done (R368). -/
def laneFault (s : State) (p : PortRef) (lane : Nat) : State :=
  match p with
  | .host n =>
    if n < nHost s ∧ (portOf s n).link = 3 ∧ (portOf s n).good.contains lane then
      modPort s n fun x => { x with link := 4, good := x.good.filter (· != lane) }
    else s
  | .tie t =>
    if t < nTie s ∧ (tieOf s t).st = .active ∧ (tieOf s t).good.contains lane then
      modTie s t fun x => { x with st := .recovery, good := x.good.filter (· != lane) }
    else s

def execLaneFault (p : PortRef) (lane : Nat) (s : State) : Host.Outcome State Fault Refusal := .next (laneFault s p lane)

/-! ### Link-downs and resets (R360, Table 10.4) -/

/-- DL_Down. Marks no longer wait for the port (R104). -/
def dlDown (s : State) (p : Nat) : State :=
  if p < nHost s ∧ (portOf s p).link ≠ 0 then markScan (hostDown s p) else s

def execDlDown (port : Nat) (s : State) : Host.Outcome State Fault Refusal := .next (dlDown s port)

/-- The link is back in L0 within LINK_GRACE: PORT_RESUMED to each context bound to the port. -/
def portResumed (s : State) (p : Nat) : State :=
  let x := portOf s p
  match x.down with
  | some ⟨t, _, some u⟩ =>
    if p < nHost s ∧ linkUp s p then
      let s := modPort s p fun x => { x with down := none, downDrops := 0, firstDrop := 0, lastDrop := 0 }
      eventTo s (ctxsOn s p) 0x0420 0
        [(0x10, 1, p), (0x14, 4, x.downDrops), (0x18, 8, x.firstDrop), (0x20, 8, x.lastDrop), (0x28, 8, t), (0x30, 8, u)]
    else s
  | _ => s

def execPortResumed (port : Nat) (s : State) : Host.Outcome State Fault Refusal := .next (portResumed s port)

/-- What FLR of the PF and a Hot Reset do, for a cause of TDI_ERROR: the port's contexts close, the Admin bases and depths are
cleared, its functions are as after reset (Table 10.4, R359, R463). -/
def resetPf (s : State) (p cause : Nat) : State :=
  let s := (ctxsOn s p).foldl (fun s c => closeCtx s c cause) s
  modPort s p fun x =>
    { x with asqLo := {}, asqHi := {}, acqLo := {}, acqHi := {}, adbLo := {}, adbHi := {}, adepth := {}, ring := {}, aheld := [],
             rtt := 0, lats := [], rttRetryAt := none, fns := [], carried := none, flushing := none }

/-- LINK_GRACE expires on a link that is still down: as FLR of the PF, the link's IDE keys gone. -/
def linkGraceExpire (s : State) (p : Nat) : State :=
  match (portOf s p).down with
  | some ⟨t, g, none⟩ =>
    if p < nHost s ∧ t + g * 1000000 ≤ s.sup.now then
      markScan (modPort (resetPf s p 3) p fun x => { x with down := none, downDrops := 0, firstDrop := 0, lastDrop := 0, ide := [] })
    else s
  | _ => s

def execLinkGraceExpire (port : Nat) (s : State) : Host.Outcome State Fault Refusal := .next (linkGraceExpire s port)

/-- FLR of a VF closes its context; the function is as after reset. -/
def flrVf (s : State) (p v : Nat) : State :=
  if p < nHost s ∧ v < 64 ∧ linkUp s p then
    let s := match vfCtx s p v with
      | some (c, _) => closeCtx s c 2
      | none => s
    modPort s p fun x => { x with fns := tdel x.fns (fnKey (.vf v)) }
  else s

def execFlrVf (port vf : Nat) (s : State) : Host.Outcome State Fault Refusal := .next (flrVf s port vf)

/-- FLR of the PF, or a Hot Reset, which resets the link and with it the IDE keys. -/
def flrPf (s : State) (p : Nat) (hot : Bool) : State :=
  if p < nHost s ∧ linkUp s p then
    let s := resetPf s p 2
    markScan (if hot then modPort s p fun x => { x with ide := [] } else s)
  else s

def execFlrPf (port : Nat) (hotReset : Bool) (s : State) : Host.Outcome State Fault Refusal := .next (flrPf s port hotReset)

/-- A function that the port has. -/
def fnExists : Fn → Bool
  | .pf => true
  | .vf v => decide (v < 64)

/-- A function enters or leaves D3hot; back in D0 it sends what it holds. -/
def powerStateChange (s : State) (p : Nat) (f : Fn) (d3 : Bool) : State :=
  if p < nHost s ∧ linkUp s p ∧ fnExists f then
    let s := modFn s p f fun x => { x with d3 := d3 }
    markScan (if d3 then s else sendAllPending s p)
  else s

def execPowerStateChange (port : Nat) (f : Fn) (d3 : Bool) (s : State) : Host.Outcome State Fault Refusal :=
  .next (powerStateChange s port f d3)

/-! ### MSI-X masks and configuration (R353, R360, R361) -/

/-- Vectors of a function. -/
def vectors : Fn → Nat
  | .pf => 8
  | .vf _ => 32

/-- Mask or unmask a vector; one unmasked sends the message it holds. -/
def maskVector (s : State) (p : Nat) (f : Fn) (v : Nat) (masked : Bool) : State :=
  if v < vectors f ∧ fnExists f then
    let s := modFn s p f fun x =>
      { x with unmasked := if masked then x.unmasked.filter (· != v) else if x.unmasked.contains v then x.unmasked else x.unmasked ++ [v] }
    if masked then s else sendPending s p f
  else s

def msixUnmask (s : State) (p : Nat) (f : Fn) (v : Nat) : State := if p < nHost s ∧ linkUp s p then maskVector s p f v false else s

def execMsixUnmask (port : Nat) (f : Fn) (vector : Nat) (s : State) : Host.Outcome State Fault Refusal :=
  .next (msixUnmask s port f vector)

/-- What a function's configuration space shows (Table 10.2); no other capability is there, and its place reads zero. Times are in ns. -/
def configValue (s : State) (p : Nat) (f : Fn) (i : CfgItem) : Nat :=
  let x := fnOf s p f
  let pf := decide (f = .pf)
  let inPf (n : Nat) : Nat := if pf then n else 0
  match i with
  | .maxPayloadSupported => 512
  | .maxPayload => x.maxPayload
  | .maxReadRequest => x.maxRead
  | .tenBitTags => b2n x.tenBit
  | .completionTimeoutNs => x.cplNs
  | .flr => 1
  | .powerState => 3 * b2n x.d3
  | .msixVectors => vectors f
  | .totalVfs => inPf 64
  | .numVfs => inPf x.numVfs
  | .vfEnable => inPf (b2n x.vfEnable)
  | .vfBarBytes => inPf 16384
  | .ari => inPf 1
  | .uncorrectableErrors => inPf x.aerUnc
  | .correctableErrors => inPf x.aerCor
  | .ptmRequester => inPf 1
  | .doeProtocols => 3
  | .ideLinkStreams => inPf 1
  | .ideSelectiveStreams => inPf 4
  | .tdisp => if pf then 0 else 1
  | .scaledFlowControl => inPf 1
  | .serialNumber => inPf s.part.serial
  | .other _ => 0

/-- A size of requests or payloads that PCI Express encodes, from 128 bytes to a largest. -/
def sizeCode (top n : Nat) : Bool := [128, 256, 512, 1024, 2048, 4096].contains n && decide (n ≤ top)

/-- A completion timeout in ranges A to D, 50 µs to 64 s. -/
def timeoutCode (ns : Nat) : Bool := decide (50000 ≤ ns ∧ ns ≤ 64000000000)

/-- The partner accesses a function's configuration space: what the device supports it adopts; an ASPM or L0p enable, and a write where no
capability of Table 10.2 lies, change nothing. -/
def configurationWrite (s : State) (p : Nat) (f : Fn) (w : CfgWrite) : State :=
  if p < nHost s ∧ linkUp s p ∧ fnExists f then
    match w with
    | .read i => emit s (.config p f i (configValue s p f i))
    | .maxPayload n => if sizeCode 512 n then modFn s p f fun x => { x with maxPayload := n } else s
    | .maxReadRequest n => if sizeCode 4096 n then modFn s p f fun x => { x with maxRead := n } else s
    | .completionTimeoutNs n => if timeoutCode n then modFn s p f fun x => { x with cplNs := n } else s
    | .vfs n on => if f = .pf ∧ n ≤ 64 then modFn s p f fun x => { x with numVfs := n, vfEnable := on } else s
    | .clearErrors u c =>
      modFn s p f fun x => { x with aerUnc := x.aerUnc - (x.aerUnc &&& u), aerCor := x.aerCor - (x.aerCor &&& c) }
    | .tenBitTags on => modFn s p f fun x => { x with tenBit := on }
    | .maskVector v m => maskVector s p f v m
    | .aspm _ => s
    | .other _ _ => s
  else s

def execConfigurationWrite (port : Nat) (f : Fn) (w : CfgWrite) (s : State) : Host.Outcome State Fault Refusal :=
  .next (configurationWrite s port f w)

/-- A request that the device does not support is entered in the error status of its PF: bit 20 of PCI Express's uncorrectable errors
(log 44). -/
def unsupported (s : State) (p : Nat) (path : Path) (offset : Nat) : State :=
  modFn (emit s (.unsupported path offset)) p .pf fun x => { x with aerUnc := x.aerUnc ||| 2 ^ 20 }

/-! ### Failed reads (R362) -/

/-- A host read fails. One of the sweep, of entries or of t_rt is counted; the command that needed data has its own outcome,
INTEGRITY, in that command's operand. -/
def hostReadFailure (s : State) (p : Nat) (k : ReadKind) : State :=
  match k with
  | .sweep r =>
    if swept s r && ringPort s r == p then sweepFail (modRing s r fun g => { g with swps := g.swps - 1 }) p else s
  | .fetch r => if swept s r && ringPort s r == p then sweepFail (modRing s r fun g => { g with asked := 0 }) p else s
  | .rtt => if p < nHost s then sweepFail s p else s
  | .data => s

def execHostReadFailure (port : Nat) (k : ReadKind) (s : State) : Host.Outcome State Fault Refusal := .next (hostReadFailure s port k)

end Sys2Proof.Machine
end

