-- ==== Sys2Proof/Machine/Faults.lean ====
section
/-!
DEFINITION. Faults, spares and repair (R423 to R425, R429 to R437, R440 to R442): counted events and the Fault Tracker, repairs
in order, Station substitution, Plats leaving service, ring links, FAULT_LOG_TAKE.
The model's own: log 40 (DEDUCED).
-/
namespace Sys2Proof.Machine
open Sys2Proof

/-! ### Resources (Tables 12.3, 12.9) -/

/-- KIND of a Fault Log entry. -/
def resKind : Resource → Nat
  | .fmRow _ _ _ => 1
  | .psRow _ _ => 1
  | .station _ => 2
  | .dramLane _ => 3
  | .mainPage _ => 4
  | .opticalLane _ _ => 5
  | .linkLane _ _ => 6
  | .cadBlock _ => 7

/-- SOURCE of a Fault Log entry; `n` stands in where a page number does not fit. -/
def resSource (n : Nat) : Resource → Nat
  | .fmRow st b r => st + 256 * b + 65536 * r
  | .psRow b r => 256 * b + 65536 * r
  | .station st => st
  | .dramLane l => 256 * l
  | .mainPage pg => 65536 * (if pg < 65536 then pg else n)
  | .opticalLane c l => c + 256 * l
  | .linkLane k l => k + 256 * l
  | .cadBlock b => 65536 * b

/-- The Fault Tracker's number of a resource. -/
def trackerNo (x : Plat) (r : Resource) : Nat := ((x.tracker.find? fun t => t.res == r).map (·.slot)).getD 0

/-- Enter an event of a resource in the Fault Log. -/
def logRes (s : State) (cls p : Nat) (r : Resource) (detail : Nat) : State :=
  logFault s cls p (resKind r) (resSource (trackerNo (platOf s p) r) r) detail

/-! ### Spares (R433) -/

/-- SPARES_LOW when a Plat's free spare Stations fall below the threshold. -/
def checkSpares (s : State) (p : Nat) : State :=
  let x := platOf s p
  let low := decide (x.spares.length < s.flt.sparesMin.inForce)
  let s := modPlat s p fun x => { x with sparesLow := low }
  if low && !x.sparesLow then eventAll s 0x0405 0 [(0x10, 1, p), (0x11, 1, 1), (0x12, 1, x.spares.length), (0x13, 1, 0)] else s

/-- The logical Station that a physical one serves. -/
def logicalOf (x : Plat) (phys : Nat) : Option Nat := (List.range 88).find? fun n => x.map.getD n none == some phys

/-- The context and Crew-relative index of a logical Station. -/
def crewIndex (s : State) (p n : Nat) : Option (Nat × Nat) :=
  (tget (platOf s p).owner n).bind fun c =>
    (ctxOf s c).bind fun x => ((List.range x.crew.length).find? fun i =>
      (x.crew[i]?.map fun k => k.plat == p && k.stn == some n).getD false).map fun i => (c, i)

def modCrew (s : State) (c i : Nat) (f : CrewSlot → CrewSlot) : State := modCtx s c fun x => { x with crew := setAt x.crew i f }

/-- The Legs that run on a Crew-relative index, each with its run. -/
def legsOnIndex (s : State) (c i : Nat) : List (LegRef × Leg × LegRun) :=
  (allLegs s).filter fun e => e.1.ctx == c && e.2.1.stn == i && decide (e.2.1.kind < 6) && decide (e.2.2.st = .running)

/-- The Period Boundary or deadline ahead of a Leg. -/
def endOf (s : State) (l : LegRef) : Option Nat := (travOf s l.ctx l.handle).bind fun t => t.run.bind (runEnd t)

/-- Complete the running Legs of an index with an error, their outputs undefined; a FAN_OUT among them is over. -/
def failLegs (s : State) (c i status : Nat) : State :=
  (legsOnIndex s c i).foldl (fun s e => onSnaps s e.1 fun s =>
    let s := settleCommit s (whoOf s e.1) e.1 e.2.1 e.2.2 (endOf s e.1)
    completeLeg { spoilAll s (whoOf s e.1) e.2.1 with fans := s.fans.filter fun f => f.leg != e.1 } e.1 status 0 false 0) s

/-- The Chain Groups of an index lose their partial accumulations and restart on the next accepted block (R129). -/
def moveGroups (s : State) (c i : Nat) : State :=
  (s.groups.filter fun e => e.2.ctx == c && e.2.stn == i).foldl (fun s e =>
    modGroup s e.1 fun g => { restartGroup g with again := true, blocks := [] }) s

/-! ### Substitution (R44, R45, R434, R435) -/

/-- No spare is left: the index maps to no Station, INDEX_UNMAPPED; its Chain Groups stop. Table 2.16 lets only a Leg that has not
started be dropped, so its running Legs complete INTEGRITY as R435's do (log 23). -/
def unmapIndex (s : State) (p n : Nat) : State :=
  match crewIndex s p n with
  | none => s
  | some (c, i) =>
    let s := failLegs s c i INTEGRITY
    let s := modCrew s c i fun k => { k with stn := none }
    let s := (s.groups.filter fun e => e.2.ctx == c && e.2.stn == i).foldl (fun s e =>
      modGroup s e.1 fun g => { restartGroup g with st := .stopped, blocks := [], starveAt := none }) s
    event (modPlat s p fun x => { x with owner := tdel x.owner n }) c 0x0002 DROPPED_FAULT [(0x10, 2, i)]

/-- A failed logical Station without a spare: it is enabled no more. -/
def loseStation (s : State) (p n phys : Nat) : State :=
  let s := logRes s 0x09 p (.station phys) 0
  modPlat (unmapIndex s p n) p fun x => { x with map := setAt x.map n fun _ => none, flags := tdel x.flags n,
                                                 zeroing := x.zeroing.filter (· != n) }

/-- Map a logical Station to a spare: SUBSTITUTION to its context, whose Legs there carry SUBSTITUTED from then on. -/
def remap (s : State) (p n spare : Nat) : State :=
  let s := modPlat s p fun x => { x with map := setAt x.map n fun _ => some spare, spares := x.spares.filter (· != spare) }
  let s := match crewIndex s p n with
    | none => s
    | some (c, i) => moveGroups (event (modCrew s c i fun k => { k with sub := true }) c 0x0008 4 [(0x10, 2, i)]) c i
  checkSpares s p

/-- Objects whose Near copy lay in a lost Station read zero; OBJECT_LOST tells owner and grantees (R350, R435). -/
def zeroNear (s : State) (c i : Nat) : State :=
  let l := (s.objs.filter fun e => e.2.ctx == c && e.2.site == some i && decide (e.2.present = .near)).map (·.1)
  l.foldl (fun s k =>
    match tget s.objs k with
    | none => s
    | some o =>
      let s := modObj { s with tracks := tdel s.tracks k } k fun o => { o with mem := [] }
      (holders o).foldl (fun s q => event s q 0x0203 INTEGRITY
        [(0x10, 4, nameFor s q k), (0x14, 1, 2), (0x18, 8, 0), (0x20, 4, o.length)]) s) s

/-- Entries of an output queue that lay in a lost Station are lost (R435). -/
def loseQueues (s : State) (c i : Nat) : State :=
  (s.groups.filter fun e => e.2.ctx == c && e.2.stn == i).foldl (fun s e =>
    match objNamed s c e.2.queueObj with
    | some (_, o) =>
      if o.site = some i ∧ o.present = .near then
        modGroup s e.1 fun g => { g with queue := [], lostN := satAdd max32 g.lostN g.queue.length, disc := true }
      else s
    | none => s) s

/-! ### Repairs in order (R432, R433) -/

/-- Stop the engines of a Station whose planned substitution begins: their Legs are interrupted, to be rerun. -/
def interrupt (s : State) (p n : Nat) : State :=
  match crewIndex s p n with
  | none => s
  | some (c, i) => (legsOnIndex s c i).foldl (fun s e =>
      modRun (onSnaps s e.1 fun s => settleCommit s (whoOf s e.1) e.1 e.2.1 e.2.2 (endOf s e.1)) e.1 fun r => { r with intr := true }) s

/-- The first repair of a Plat begins. -/
def beginHead (s : State) (p : Nat) : State :=
  match (platOf s p).repairs with
  | { stn := some n, .. } :: _ => interrupt s p n
  | _ => s

/-- Queue a repair behind those declared before it; ties go to the lower logical Station. One that is alone begins. -/
def queueRepair (s : State) (p : Nat) (r : Resource) (stn : Option Nat) : State :=
  let x := platOf s p
  let q : Repair := { res := r, at_ := s.sup.now, stn := stn }
  if x.repairs.any fun y => y.res == r then s
  else
    match x.repairs with
    | [] => beginHead (modPlat s p fun x => { x with repairs := [q] }) p
    | h :: l =>
      let lt (a b : Repair) : Bool := lexLt [a.at_, a.stn.getD 0] [b.at_, b.stn.getD 0]
      modPlat s p fun x => { x with repairs := h :: insBy lt q l }

/-- A planned substitution of a physical Station: queued for the logical one it serves; without a spare the Station is lost;
a spare that fails is a spare no more. -/
def planStation (s : State) (p phys : Nat) : State :=
  let x := platOf s p
  match logicalOf x phys with
  | some n => if x.spares.isEmpty then loseStation s p n phys else queueRepair s p (.station phys) (some n)
  | none => checkSpares (modPlat s p fun x => { x with spares := x.spares.filter (· != phys) }) p

/-- The port of an optical lane's controller: controller 0 of a Plat its Host Port, 1 its Tie Port (R25, R31). -/
def controllerPort (s : State) (p c : Nat) : Option PortRef :=
  if c = 0 then ((List.range (nHost s)).find? fun n => hostPlat s n == p).map .host
  else ((List.range (nTie s)).find? fun t => tiePlat s t == p).map .tie

/-- Start the repair of a resource declared lasting (Table 12.4). -/
def startRepair (s : State) (p : Nat) (r : Resource) : State :=
  let x := platOf s p
  match r with
  | .fmRow st b _ => if x.fmRows.contains (st, b) then planStation s p st else queueRepair s p r none
  | .psRow b _ => if x.psRows.contains b then logRes s 0x09 p r 0 else queueRepair s p r none
  | .station st => planStation s p st
  | .dramLane _ => if x.lanes = 0 then logRes s 0x09 p r 0 else queueRepair s p r none
  | .mainPage _ => if x.mainSpare = 0 then logRes s 0x09 p r 0 else queueRepair s p r none
  | .opticalLane c l =>
    match controllerPort s p c with
    | some q => laneFault s q l
    | none => s
  | .linkLane _ _ => queueRepair s p r none
  | .cadBlock b => logRes (retireBlock s p b) 0x08 p r 0

/-- What a finished repair has used. -/
def useSpare (x : Plat) : Resource → Plat
  | .fmRow st b _ => { x with fmRows := x.fmRows ++ [(st, b)] }
  | .psRow b _ => { x with psRows := x.psRows ++ [b] }
  | .dramLane _ => { x with lanes := x.lanes - 1 }
  | .mainPage _ => { x with mainSpare := x.mainSpare - 1, retired := x.retired + 1 }
  | _ => x

/-- A repair may end: its Plat is released, in service and not in an Update Reset switch (R433). -/
def repairing (s : State) (p : Nat) : Bool :=
  decide (p < nPlats s) && decide ((platOf s p).st = .ready) && !(platOf s p).switching && !s.sup.tripped

/-- A row, lane, page or link repair ends: it is entered in the Fault Log, and the next repair begins. -/
def repairDone (s : State) (p : Nat) : State :=
  match (platOf s p).repairs with
  | ⟨r, _, none⟩ :: l =>
    if repairing s p then beginHead (logRes (modPlat s p fun x => { useSpare x r with repairs := l }) 0x08 p r 0) p else s
  | _ => s

def execRepairDone (plat : Nat) (s : State) : Host.Outcome State Fault Refusal := .next (repairDone s plat)

/-- Interrupted Legs of an index start again from their first cycle (R434). What their dispatch fixed stays fixed (R268, R290); a SEARCH's
cut-off is met anew (R307). -/
def rerun (s : State) (p n : Nat) : State :=
  match crewIndex s p n with
  | none => s
  | some (c, i) =>
    ((legsOnIndex s c i).filter fun e => e.2.2.intr).foldl (fun s e =>
      modRun { s with fans := s.fans.filter fun f => f.leg != e.1 } e.1 fun r =>
        { r with intr := false, from_ := s.sup.now, iss := issuedNow s p, cut := none, taken := [], sent := [] }) s

/-- A planned substitution ends: the Field Memory, flags and Chain Groups are on the lowest-numbered spare, interrupted Legs
rerun, and dispatch resumes. -/
def stationSubstitutionDone (s : State) (p : Nat) : State :=
  match (platOf s p).repairs with
  | ⟨r, _, some n⟩ :: l =>
    if repairing s p then
      let s := modPlat s p fun x => { x with repairs := l }
      let s := match (platOf s p).spares with
        | [] => loseStation s p n (((platOf s p).map.getD n none).getD 0)
        | q :: _ => rerun (logRes (remap s p n q) 0x08 p r q) p n
      beginHead s p
    else s
  | _ => s

def execStationSubstitutionDone (plat : Nat) (s : State) : Host.Outcome State Fault Refusal := .next (stationSubstitutionDone s plat)

/-- A physical Station stops answering: an abrupt substitution to a zeroed spare. Its running Legs complete INTEGRITY, its Field
Memory reads zero, its flags are EMPTY (R435). -/
def stationLost (s : State) (p phys : Nat) : State :=
  let x := platOf s p
  if p < nPlats s ∧ x.st = .ready ∧ (x.spares.contains phys ∨ (logicalOf x phys).isSome) then
    let s := logRes (logRes s 0x05 p (.station phys) 0) 0x07 p (.station phys) 0
    let s := modPlat s p fun x => { x with repairs := x.repairs.filter fun r => r.res != .station phys }
    match logicalOf x phys, x.spares with
    | none, _ => checkSpares (modPlat s p fun x => { x with spares := x.spares.filter (· != phys) }) p
    | some n, [] => beginHead (loseStation s p n phys) p
    | some n, q :: _ =>
      let s := modPlat (remap s p n q) p fun x => { x with flags := tdel x.flags n }
      let s := match crewIndex s p n with
        | none => s
        | some (c, i) => loseQueues (zeroNear (failLegs s c i INTEGRITY) c i) c i
      beginHead (logRes s 0x08 p (.station phys) q) p
  else s

def execStationLost (plat station : Nat) (s : State) : Host.Outcome State Fault Refusal := .next (stationLost s plat station)

/-! ### Plats leaving service (R34, R424, R425) -/

/-- Unmap every Crew index on a Plat. -/
def unmapPlat (s : State) (p : Nat) : State := ((platOf s p).owner.map (·.1)).foldl (fun s n => unmapIndex s p n) s

/-- Take a Plat's ports down. -/
def portsDown (s : State) (p : Nat) : State :=
  let s := ((List.range (nHost s)).filter fun n => hostPlat s n == p).foldl hostDown s
  ((List.range (nTie s)).filter fun t => tiePlat s t == p).foldl (fun s t => tieLinkDown s t none) s

/-- An armed image is being activated by a package reset (R408). -/
def activatingReset (s : State) : Bool := decide (s.mon.upd = .activating) && s.mon.activation.isNone

/-- Every Plat is through: ready, out of service, or not to be released. -/
def allThrough (s : State) : Bool :=
  (List.range (nPlats s)).all fun p =>
    let x := platOf s p
    decide (x.st = .ready) || decide (x.st = .out) || x.unproven

/-- The last Plat of an activating reset has passed (R404, R407). -/
def tryEnd (s : State) : State := if activatingReset s && allThrough s then endActivation s s.mon.image else s

/-- A Plat leaves service until the next package reset. An Update Reset that has reached it goes on to the next. With Plat 0
every Plat stops dispatch and every port goes down (R425). -/
def platOut (s : State) (p cause : Nat) : State :=
  if (platOf s p).st = .out then s
  else
    let s := logFault s 0x0A p 0 0 cause
    let s := modPlat s p fun x => { x with st := .out, cause := cause, moves := [], repairs := [], hold := false, switching := false }
    let s := modCad s p fun c => { c with st := 0, groups := [], open_ := none }
    let s := eventAll s 0x0401 INTEGRITY [(0x10, 1, p), (0x11, 1, cause)]
    let s := unmapPlat s p
    let s := portsDown s p
    if p = 0 then
      let s := (List.range (nPlats s)).foldl (fun s q => portsDown (modPlat s q fun x => { x with hold := true }) q) (haltLegs s)
      markScan s
    else
      match activating s, otherSlot s.mon with
      | some q, some i => markScan (if q = p then nextHold s p i else s)
      | _, _ => markScan (tryEnd s)

/-- The Plats that reach Plat 0 over the ring links that have not failed, by hops from it (R32, R34). -/
def ringReach (s : State) : Nat → List Nat → List Nat
  | 0, l => l
  | k + 1, l =>
    let n := nPlats s
    let up (a : Nat) : Bool := !(platOf s a).ringDown && (decide (2 < n) || a == 0)
    ringReach s k ((List.range n).filter fun q => l.contains q || (l.any fun a =>
      (decide ((a + 1) % n = q) && up a) || (decide ((q + 1) % n = a) && up q)))

/-- Link `p` of the ring fails: traffic goes the other way; the Plats that can no longer reach Plat 0, released or not, leave
service (R34, R424). -/
def ringLinkDown (s : State) (p : Nat) : State :=
  let s := modPlat s p fun x => { x with ringDown := true }
  let l := ringReach s (nPlats s) [0]
  ((List.range (nPlats s)).filter fun q => !l.contains q).foldl (fun s q => platOut s q 1) s

/-! ### FAULT_EVENT (R429 to R431) -/

/-- Free numbers of the tracker. -/
def freeTrack (l : List Track) : Option Nat := (List.range 512).find? fun n => l.all fun t => t.slot != n

/-- The entry whose newest event is oldest. -/
def oldestTrack : List Track → Option Track
  | [] => none
  | t :: l =>
    match oldestTrack l with
    | none => some t
    | some u => if u.stamps.headD 0 < t.stamps.headD 0 then some u else some t

/-- Enter an event's stamp for a resource, taking an entry at its first; a replaced entry is entered in the Fault Log. -/
def track (s : State) (p : Nat) (r : Resource) : State :=
  let x := platOf s p
  let t := s.sup.now
  if x.tracker.any fun e => e.res == r then
    modPlat s p fun x => { x with tracker := x.tracker.map fun e => if e.res = r then { e with stamps := (t :: e.stamps).take 14 } else e }
  else
    match freeTrack x.tracker with
    | some n => modPlat s p fun x => { x with tracker := x.tracker ++ [⟨n, r, [t]⟩] }
    | none =>
      match oldestTrack x.tracker with
      | none => s
      | some u =>
        let s := logRes s 0x0D p u.res 0
        modPlat s p fun x => { x with tracker := x.tracker.map fun e => if e.slot = u.slot then ⟨e.slot, r, [t]⟩ else e }

/-- The resource has N events within a span of W seconds, the one just come counted. -/
def lasting (s : State) (p : Nat) (r : Resource) : Bool :=
  let n := bits s.flt.window.inForce 3 0
  let w := bits s.flt.window.inForce 27 16 * 1000000000
  let old := ((platOf s p).tracker.find? fun e => e.res == r).elim [] (·.stamps)
  match (s.sup.now :: old)[n - 1]? with
  | some t => decide (s.sup.now ≤ t + w)
  | none => false

/-- A resource whose corrected words are written back and read again (R430). -/
def inMemory : Resource → Bool
  | .fmRow _ _ _ => true
  | .psRow _ _ => true
  | .dramLane _ => true
  | .mainPage _ => true
  | _ => false

/-- A counted event: logged, tracked, and where it declares its resource lasting, declared and repaired; a failure of a whole
link, of a Plat's logic or of its HBM4 stack does what R34 and R424 say. With FLT disabled nothing is declared. -/
def faultEvent (s : State) (e : FaultEv) : State :=
  if e.plat < nPlats s ∧ s.sup.running ∧ (platOf s e.plat).st ≠ .unreleased ∧ ¬ s.sup.tripped then
    let s := logRes s e.cls e.plat e.resource e.detail
    let hit := e.lasting || (e.again && !e.unc && inMemory e.resource) || lasting s e.plat e.resource
    let s := track s e.plat e.resource
    let s := if hit && s.flt.ctrl.enable then startRepair (logRes s 0x07 e.plat e.resource 0) e.plat e.resource else s
    match e.loss with
    | .none => s
    | .ringLink => ringLinkDown s e.plat
    | .logic => platOut s e.plat 2
    | .hbm => platOut s e.plat 3
  else s

def execFaultEvent (e : FaultEv) (s : State) : Host.Outcome State Fault Refusal := .next (faultEvent s e)

/-- The Station on which a Leg runs, with its Plat. -/
def legStation (s : State) (l : LegRef) (g : Leg) : Option (Nat × Nat) :=
  ((ctxOf s l.ctx).bind fun x => x.crew[g.stn]?).bind fun k =>
    k.stn.bind fun n => ((platOf s k.plat).map.getD n none).map fun q => (k.plat, q)

/-- The issue watchdog stops a Leg (R83): the stop is an event against its Station (R429, Table 12.3). -/
def watchdogStop (s : State) (l : LegRef) : State :=
  match legOf s l, runOf s l with
  | some g, some x =>
    if overIssued s l g x then
      let u := legWatchdogStop s l
      (legStation s l g).elim u fun e => faultEvent u ⟨e.1, 4, .station e.2, false, false, false, .none, 0⟩
    else s
  | _, _ => s

def execLegWatchdogStop (l : LegRef) (s : State) : Host.Outcome State Fault Refusal := .next (onSnaps s l fun s => watchdogStop s l)

/-- A Fault Tracker entry is freed when its newest event is more than W old. -/
def faultTrackerExpire (s : State) (p : Nat) (r : Resource) : State :=
  let w := bits s.flt.window.inForce 27 16 * 1000000000
  modPlat s p fun x => { x with tracker := x.tracker.filter fun e => e.res != r || decide (s.sup.now ≤ e.stamps.headD 0 + w) }

def execFaultTrackerExpire (plat : Nat) (r : Resource) (s : State) : Host.Outcome State Fault Refusal :=
  .next (faultTrackerExpire s plat r)

/-- A patrol pass over the Main tier is counted; what the scrub corrects comes as counted events. -/
def patrolScrub (s : State) (p : Nat) (o : Scrub) : State :=
  if p < nPlats s ∧ (platOf s p).st = .ready ∧ o.pass then modPlat s p fun x => { x with scrubs := satAdd max32 x.scrubs 1 } else s

def execPatrolScrub (plat : Nat) (o : Scrub) (s : State) : Host.Outcome State Fault Refusal := .next (patrolScrub s plat o)

/-! ### FAULT_LOG_TAKE (R442) -/

/-- The 64 bytes of an entry (Table 12.9). -/
def logBytes (e : LogEntry) : Bytes :=
  le 1 e.cls ++ le 1 e.plat ++ le 2 e.kind ++ le 4 e.source ++ le 8 e.first ++ le 8 e.last ++ le 4 e.count ++ le 4 e.eseq ++
    le 16 e.detail ++ le 16 0

def faultLogTake (_h : CmdHdr) (address max : Nat) (s : State) (x : Ctx) : CmdRes :=
  if !x.surveyor then .refuse s ACCESS_DENIED
  else if max = 0 ∨ 4096 < max then .refuse s CONFIG_REFUSED
  else
    let l := s.flt.log.take max
    let s := { s with flt := { s.flt with log := s.flt.log.drop max, reported := [] } }
    let s := if l.isEmpty then s else postData s x.port (.vf x.vf) address (l.flatMap logBytes)
    { st := s, result := l.length }

def execFaultLogTake (h : CmdHdr) (address max : Nat) (s : State) : Host.Outcome State Fault Refusal :=
  .next (ctxCmd s (.faultLogTake h address max) h false (faultLogTake h address max))

end Sys2Proof.Machine
end

