-- ==== Sys2Proof/Machine/Thermal.lean ====
section
/-!
DEFINITION. Thermal control (R443 to R446) and the Power Governor (R47 to R52).
The model's own: log 18 (DEDUCED), log 42 (DEDUCED).
-/
namespace Sys2Proof.Machine
open Sys2Proof

/-! ### Judging a sample (R443) -/

/-- Twice the median of readings. -/
def median2 (l : List Int) : Int :=
  let r := sortBy (fun a b => decide (a < b)) l
  let n := r.length
  if n % 2 = 1 then 2 * r.getD (n / 2) 0 else r.getD (n / 2 - 1) 0 + r.getD (n / 2) 0

/-- The sensors that have failed after steps 1 to 3, of 16, in ascending order. -/
def judge (failed : List Nat) (r : List Int) : List Nat :=
  let at_ (i : Nat) : Int := r.getD i 0
  let f1 := (List.range 16).filter fun i => failed.contains i || decide (at_ i < -240) || decide (600 < at_ i)
  let m := median2 (((List.range 16).filter fun i => !f1.contains i).map at_)
  (List.range 16).filter fun i => f1.contains i || decide (160 < 2 * at_ i - m) || decide (2 * at_ i - m < -160)

/-- The hottest sensor that has not failed. -/
def hottest (failed : List Nat) (r : List Int) : Option (Nat × Int) :=
  ((List.range 16).filter fun i => !failed.contains i).foldl (fun a i =>
    match a with
    | none => some (i, r.getD i 0)
    | some (j, t) => if t < r.getD i 0 then some (i, r.getD i 0) else some (j, t)) none

/-! ### States (R444, R445) -/

/-- A consecutive-sample counter, up to 8. -/
def dwell (hit : Bool) (n : Nat) : Nat := if hit then min 8 (n + 1) else 0

/-- The counters after a sample of temperature `t`. -/
def countSample (x : Thermal) (t : Int) : Thermal :=
  { x with hotEntry := dwell (decide (420 ≤ t)) x.hotEntry, hotExit := dwell (decide (t ≤ 404)) x.hotExit,
           warmEntry := dwell (decide (380 ≤ t)) x.warmEntry, warmExit := dwell (decide (t ≤ 364)) x.warmExit }

/-- The state that the counters, or too few sensors, call for. -/
def nextTherm (x : Thermal) : Therm :=
  if 8 < x.failed.length then .hot
  else
    match x.st with
    | .normal => if x.hotEntry = 8 then .hot else if x.warmEntry = 8 then .warm else .normal
    | .warm => if x.hotEntry = 8 then .hot else if x.warmExit = 8 then .normal else .warm
    | .hot => if x.hotExit = 8 then (if x.warmExit = 8 then .normal else .warm) else .hot

def thermNum : Therm → Nat
  | .normal => 0
  | .warm => 1
  | .hot => 2

/-- Thermal ratio of a state. -/
def thermRatio : Therm → Nat
  | .normal => 64
  | .warm => 48
  | .hot => 16

/-- A change of state: the counters at zero, the ratio 1,000 ns later, THERMAL_STATE, a Fault Log entry. -/
def changeTherm (s : State) (p : Nat) (n : Therm) : State :=
  let s := modPlat s p fun x =>
    { x with thermal := { x.thermal with st := n, hotEntry := 0, hotExit := 0, warmEntry := 0, warmExit := 0,
                                         due := some (thermRatio n, s.sup.now + 1000) } }
  let x := (platOf s p).thermal
  let s := logFault s 0x0B p 0 x.sensor 1
  eventAll s 0x0402 0 [(0x10, 1, p), (0x11, 1, thermNum n), (0x12, 1, thermRatio n), (0x13, 1, x.sensor), (0x14, 2, unsigned 16 x.temp)]

/-- A trip: THERMTRIP_N latched low, every engine stopped, every optical transmitter off (R446). -/
def trip (s : State) (p sensor : Nat) : State :=
  let s := haltLegs { s with sup := { s.sup with thermtrip := true, tripped := true, tripPlat := some (p, sensor) } }
  let s := (List.range (nHost s)).foldl hostDown s
  { s with ties := s.ties.map fun (e : Nat × TiePort) =>
      (e.1, { e.2 with st := .down, good := [], peerNode := 0xFF, queue := [], replay := [], parts := [], session := false,
                       txKey := [], txIv := [], rxKey := [], rxIv := [] }) }

/-- What a sample leaves of a Plat's sensors and counters: `failed` have failed by then. -/
def sampled (x : Thermal) (failed : List Nat) (r : List Int) : Thermal :=
  let y : Thermal := { x with failed := failed, raw := r.take 16 }
  match hottest failed r with
  | none => y
  | some (i, t) => countSample { y with temp := t, sensor := i } t

/-- Take up the state that a sample calls for. -/
def settleTherm (s : State) (p : Nat) : State :=
  let x := (platOf s p).thermal
  if nextTherm x = x.st then s else changeTherm s p (nextTherm x)

/-- Enter each sensor that has failed in the Fault Log (R443). -/
def logSensors (s : State) (p : Nat) (r : List Int) (new : List Nat) : State :=
  new.foldl (fun s i => logFault s 0x0B p 0 i (3 + 65536 * unsigned 16 (r.getD i 0))) s

/-- A Plat's 16 sensors are read, at a multiple of 100,000. -/
def thermalSample (s : State) (p : Nat) (r : List Int) : State :=
  if p < nPlats s ∧ s.sup.running ∧ s.sup.now % 100000 = 0 ∧ (platOf s p).st ≠ .unreleased ∧ ¬ s.sup.tripped then
    let old := (platOf s p).thermal.failed
    let failed := judge old r
    let s := modPlat (logSensors s p r (failed.filter fun i => !old.contains i)) p fun x =>
      { x with thermal := sampled x.thermal failed r }
    match hottest failed r with
    | some (i, t) => if 480 ≤ t then trip s p i else settleTherm s p
    | none => settleTherm s p
  else s

def execThermalSample (plat : Nat) (readings : List Int) (s : State) : Host.Outcome State Fault Refusal :=
  .next (thermalSample s plat readings)

/-- The new thermal ratio takes effect. -/
def thermalRatioApply (s : State) (p : Nat) : State :=
  match (platOf s p).thermal.due with
  | some (r, t) =>
    if t ≤ s.sup.now then modPlat (settlePace s p) p fun x => { x with thermal := { x.thermal with ratio := r, due := none } } else s
  | none => s

def execThermalRatioApply (plat : Nat) (s : State) : Host.Outcome State Fault Refusal := .next (thermalRatioApply s plat)

/-! ### Power Governor (R48, R51) -/

/-- The samples of the last 1 ms. -/
def lastMs (now : Nat) (l : List (Nat × Nat)) : List (Nat × Nat) := l.filter fun e => decide (now < e.1 + 1000000)

def sumNat (l : List Nat) : Nat := l.foldl (· + ·) 0

/-- A sample of VMAIN input power in mW, at a multiple of 10,000; GLB_POWER shows the mean of the last 1 ms. -/
def powerSample (s : State) (mw : Nat) : State :=
  if s.sup.running ∧ s.sup.now % 10000 = 0 then
    let l := lastMs s.sup.now ((s.sup.now, mw) :: s.glb.samples)
    { s with glb := { s.glb with samples := l, meanMw := sumNat (l.map (·.2)) / l.length } }
  else s

def execPowerSample (mw : Nat) (s : State) : Host.Outcome State Fault Refusal := .next (powerSample s mw)

/-- The window of a control interval: the last 1 ms, or the samples strictly after the last change. -/
def window (s : State) : List Nat :=
  let l := lastMs s.sup.now s.glb.samples
  (match s.glb.lastChange with
    | some t => l.filter fun (e : Nat × Nat) => decide (t < e.1)
    | none => l).map Prod.snd

/-- The numerator that a window's mean calls for. -/
def nextPace (n ppl : Nat) (w : List Nat) : Nat :=
  let sum := sumNat w
  let limit := ppl * 1000 * w.length
  if w.isEmpty then n
  else if limit < sum then (if n < 16 then 8 else n - 8)
  else if sum * 100 < limit * 97 then min 64 (n + 1)
  else n

/-- A control interval, at a multiple of 50,000: the mean against the limit sets the Pace Ratio; PACE_CHANGE when it falls below
64/64 and when it returns. -/
def governorControl (s : State) : State :=
  if s.sup.running ∧ s.sup.now % 50000 = 0 then
    let n := s.glb.pace
    let m := nextPace n s.glb.ppl (window s)
    if m = n then s
    else
      let low := min s.glb.lowest m
      let s := (List.range (nPlats s)).foldl settlePace s
      let s := { s with glb := { s.glb with pace := m, lowest := if m = 64 then 64 else low, lastChange := some s.sup.now } }
      if n = 64 ∨ m = 64 then eventAll s 0x0001 0 [(0x10, 1, m), (0x11, 1, low)] else s
  else s

def execGovernorControl (s : State) : Host.Outcome State Fault Refusal := .next (governorControl s)

end Sys2Proof.Machine
end

