-- ==== Sys2Proof/Machine/Bringup.lean ====
section
/-!
DEFINITION. Supplies, resets and bring-up (R109, R349, R378 to R381, R386, R387, R408, R417 to R422, R441): what a package
reset keeps, Datum Time's start, the Monument's boot, the release, measurement and self-check of Plats.
The model's own: log 3 (DESIGN CHOICE), log 4 (DESIGN CHOICE), log 7 (DESIGN CHOICE), log 40 (DEDUCED).
-/
namespace Sys2Proof.Machine
open Sys2Proof

/-! ### What a package reset leaves (R349, R389, R404, R441, R456) -/

/-- A Cadastre after a reset: what the NAND holds, nothing mounted. -/
def resetCad (c : Cad) : Cad :=
  { c with st := 0, mountMs := 0, unclean := false, discarded := 0, reerased := 0, map := [], groups := [], open_ := none,
           ckptDue := false, refresh := [], wear := false, patrolled := [],
           blocks := c.blocks.map fun (e : Nat × Blk) => (e.1, if e.2.st = .suspended then { e.2 with st := .erasing } else e.2) }

/-- The Monument after a reset: Boot Slots, update state and Parcels, Holdings with nothing attached, the burn under way. Every key is gone,
and the UDS can be read until the ROM locks it (R385, R389). -/
def resetMon (m : Mon) : Mon :=
  { image := m.image, slotA := m.slotA, slotB := m.slotB, activeB := m.activeB, armed := m.armed, upd := m.upd, staged := m.staged,
    parcels := m.parcels, burn := m.burn, blobFormat := m.blobFormat, keyCount := m.keyCount,
    holdings := m.holdings.map fun (e : Nat × Holding) => (e.1, { e.2 with ctx := none, keys := none, fails := 0 }) }

/-- A package reset: all but the standby domain, the fuses, the NAND and the settings blob is as after reset; Datum Time stands
at 0. -/
def packageReset (s : State) : State :=
  loadSettings
    { pending := s.pending, part := s.part, fuses := s.fuses,
      sup := { s.sup with running := false, now := 0, startNs := 0, tripped := false },
      glb := { defaulted := s.glb.defaulted, tieHold := s.glb.tieHold },
      settings := s.settings.map fun (e : Nat × Setting) => (e.1, { e.2 with pending := none }),
      flt := { totals := s.flt.totals, losses := s.flt.losses, reported := s.flt.reported },
      cads := s.cads.map fun (e : Nat × Cad) => (e.1, resetCad (tearCad (Config.freeNat (s.free + e.1)) e.2)),
      mon := resetMon s.mon, out := s.out, free := s.free + 8 }

/-! ### Supplies and RESET_N -/

def vstbyRise (s : State) : State := { s with sup := { s.sup with vstby := true } }

def execVstbyRise (s : State) : Host.Outcome State Fault Refusal := .next (vstbyRise s)

/-- VSTBY goes, and VMAIN with it at the latest (R381): THERMTRIP_N is released, the totals and loss counters are lost. -/
def vstbyLoss (s : State) : State :=
  let up := s.sup.vmain
  let s := packageReset s
  { s with sup := { s.sup with vstby := false, vmain := false, thermtrip := false, tripPlat := none, lossSeen := up || s.sup.lossSeen },
           mon := { s.mon with burn := s.mon.burn && !up },
           flt := { s.flt with totals := [], losses := [], reported := [] } }

def execVstbyLoss (s : State) : Host.Outcome State Fault Refusal := .next (vstbyLoss s)

/-- VMAIN comes into range, VSTBY before it or with it. -/
def vmainRise (s : State) : State := if s.sup.vstby then { s with sup := { s.sup with vmain := true } } else s

def execVmainRise (s : State) : Host.Outcome State Fault Refusal := .next (vmainRise s)

/-- VMAIN below 10.8 V (level in mV) for more than 1 µs is a power loss: nothing is finished; the next boot enters it in the
Fault Log. -/
def powerLoss (s : State) (level ns : Nat) : State :=
  if s.sup.vmain ∧ level < 10800 ∧ 1000 < ns then
    let s := packageReset s
    { s with sup := { s.sup with vmain := false, lossSeen := true }, mon := { s.mon with burn := false } }
  else s

def execPowerLoss (level durationNs : Nat) (s : State) : Host.Outcome State Fault Refusal := .next (powerLoss s level durationNs)

def resetAssert (s : State) : State :=
  if s.sup.resetN then
    let s := packageReset s
    { s with sup := { s.sup with resetN := false } }
  else s

def execResetAssert (s : State) : Host.Outcome State Fault Refusal := .next (resetAssert s)

def resetRelease (s : State) : State := { s with sup := { s.sup with resetN := true } }

def execResetRelease (s : State) : Host.Outcome State Fault Refusal := .next (resetRelease s)

/-- Datum Time starts at 0 on the first Station cycle of Plat 0, at most 5 ms after the supplies and RESET_N allow it; Plat 0's
measurement begins (Table 12.1). -/
def datumTimeStart (s : State) (afterNs : Nat) : State :=
  if s.sup.vstby ∧ s.sup.vmain ∧ s.sup.resetN ∧ ¬ s.sup.running ∧ afterNs ≤ 5000000 then
    modPlat { s with sup := { s.sup with running := true, now := 0, startNs := afterNs } } 0 fun x => { x with st := .measuring }
  else s

def execDatumTimeStart (afterNs : Nat) (s : State) : Host.Outcome State Fault Refusal := .next (datumTimeStart s afterNs)

/-! ### Plats become ready (R418 to R421) -/

/-- Enabled Stations of a Plat. -/
def enabled (x : Plat) : Nat := (x.map.filter (·.isSome)).length

/-- A Plat is ready: it runs the Monument's image, its Cadastre begins to mount, PLAT_READY. -/
def becomeReady (s : State) (p : Nat) : State :=
  let i := s.mon.image
  let s := modPlat s p fun x => { x with st := .ready, measured := false, epoch := i.epoch, imageId := i.id }
  let s := modCad s p fun c => { c with st := 1 }
  let x := platOf s p
  checkSpares (eventAll s 0x0400 0 [(0x10, 1, p), (0x11, 1, enabled x), (0x12, 1, x.spares.length)]) p

/-- A measured Plat is ready, unless its activation self-check is to come or the Monument does not run yet. -/
def readyOrCheck (s : State) (p : Nat) : State := if s.mon.running && !activatingReset s then becomeReady s p else s

/-! ### MONUMENT_BOOT (R386, R404, R407) -/

/-- A Boot Slot passes: it holds an image whose checks passed and whose SVN is not below the fuse counter. -/
def slotPasses (s : State) (i : Option Image) (ok : Bool) : Option Image := i.filter fun x => ok && decide (s.fuses.counter ≤ x.svn)

/-- The ROM derives the keys and locks the UDS; the firmware seeds its DRBG and makes the device reserve key (R386, R388). -/
def startMonument (s : State) (i : Image) : State :=
  let d := drawKey (seedDrbg (romDerive s i)) 64
  let s := d.2
  sendKeys { s with mon := { s.mon with keys := { s.mon.keys with reserve := d.1 }, keyCount := s.mon.keyCount + 1 } }

/-- The Monument runs an image: an armed one is being activated; otherwise the fuse counter is burnt up to its SVN, and an armed
image that did not pass stays armed. -/
def bootImage (s : State) (i : Image) (armedOne : Bool) : State :=
  let upd := if armedOne then Upd.activating else if s.mon.upd = .activating then .armed else s.mon.upd
  let s := startMonument { s with mon := { s.mon with running := true, image := i, upd := upd } } i
  let s := if armedOne then s else startBurn s i.svn
  if (platOf s 0).measured then readyOrCheck s 0 else s

/-- What the boot finds is entered in the Fault Log: a power loss, a thermal trip. -/
def logBoot (s : State) : State :=
  let s := if s.sup.lossSeen then logFault s 0x0E 0 0 0 0 else s
  let s := match s.sup.tripPlat with
    | some (p, n) => logFault s 0x0B p 0 n 2
    | none => s
  { s with sup := { s.sup with lossSeen := false, tripPlat := none } }

/-- The ROM chooses the armed slot, or the active one; if its checks fail it tries the other; if neither passes the package is
in the Terminal state. `okA` and `okB` are the outcomes of the slots' signatures and digest. -/
def monumentBoot (s : State) (okA okB : Bool) : State :=
  if s.sup.running ∧ ¬ s.sup.tripped ∧ ¬ s.mon.running ∧ (platOf s 0).st = .measuring then
    let s := logBoot s
    let m := s.mon
    let a := slotPasses s m.slotA okA
    let b := slotPasses s m.slotB okB
    let bFirst := m.activeB != m.armed
    match (if bFirst then b else a), (if bFirst then a else b) with
    | some i, _ => bootImage s i m.armed
    | none, some i => eventAll (bootImage s i false) 0x0307 0 [(0x10, 1, b2n (!bFirst)), (0x18, 8, i.id)]
    | none, none => enterTerminal s 0 2 0
  else s

def execMonumentBoot (slotA slotB : Bool) (s : State) : Host.Outcome State Fault Refusal := .next (monumentBoot s slotA slotB)

/-! ### PLAT_RELEASE (R387, R408, R418) -/

/-- A Plat before `p` lets it be released: it has been released, or refused; at an activating reset it is through. -/
def releasedBefore (s : State) (q : Nat) : Bool :=
  let x := platOf s q
  x.unproven || decide (x.st = .ready) || decide (x.st = .out) || (decide (x.st = .measuring) && !activatingReset s)

/-- A Plat's key proof holds: the public key that its standby Monument proved itself to have is the one whose digest is fused into Plat 0
(R387). -/
def platProven (s : State) (p : Nat) (proof : Option Bytes) : Bool := (proof.map sha384) == s.fuses.platKeys[p]?

/-- Plat 0's Monument releases the next Plat, 20 ms after the one before it, if its key proof holds. -/
def platRelease (s : State) (p : Nat) (proof : Option Bytes) : State :=
  let x := platOf s p
  if 1 ≤ p ∧ p < nPlats s ∧ s.sup.running ∧ s.mon.running ∧ ¬ s.sup.tripped ∧ x.st = .unreleased ∧ ¬ x.unproven ∧
      (platOf s 0).st = .ready ∧ (List.range p).all (releasedBefore s) ∧
      (p = 1 ∨ (platOf s (p - 1)).releasedAt + 20000000 ≤ s.sup.now) then
    if platProven s p proof then openChannel (modPlat s p fun x => { x with st := .measuring, releasedAt := s.sup.now }) p
    else tryEnd (modPlat s p fun x => { x with unproven := true, releasedAt := s.sup.now })
  else s

def execPlatRelease (plat : Nat) (proof : Option Bytes) (s : State) : Host.Outcome State Fault Refusal := .next (platRelease s plat proof)

/-! ### PLAT_MEASUREMENT_DONE (R419, R420) -/

/-- Give each failed Station of logical numbers `l` the next good spare. -/
def replace (failed : List Nat) : List Nat → List Nat → List (Option Nat) × List Nat
  | [], q => ([], q)
  | n :: l, q =>
    if failed.contains n then
      match q with
      | [] => let r := replace failed l []; (none :: r.1, r.2)
      | a :: q => let r := replace failed l q; (some a :: r.1, r.2)
    else let r := replace failed l q; (some n :: r.1, r.2)

/-- A Plat after its measurement: failed Stations replaced by spares, rows and lanes repaired. -/
def measuredPlat (x : Plat) (m : Measurement) : Plat :=
  let r := replace m.failed (List.range 88) ((List.range 8).map (· + 88) |>.filter fun i => !m.failed.contains i)
  { x with map := r.1, spares := r.2, fmRows := m.fmRows, psRows := m.psRows, lanes := 8 - m.lanes, measured := true }

/-- Every replacement is entered in the Fault Log. -/
def logMeasured (s : State) (p : Nat) (m : Measurement) : State :=
  let x := platOf s p
  let s := m.failed.foldl (fun s f =>
    if f < 88 then
      match x.map.getD f none with
      | some q => logRes s 0x08 p (.station f) q
      | none => logRes s 0x09 p (.station f) 0
    else s) s
  let s := m.fmRows.foldl (fun s e => logRes s 0x08 p (.fmRow e.1 e.2 0) 0) s
  let s := m.psRows.foldl (fun s b => logRes s 0x08 p (.psRow b 0) 0) s
  (List.range m.lanes).foldl (fun s l => logRes s 0x08 p (.dramLane l) 0) s

/-- A Plat's measurement ends. One that fails takes the Plat out of service until the next package reset, with PLAT_OUT but for
Plat 0, without which the package does not come up. -/
def platMeasurementDone (s : State) (p : Nat) (m : Measurement) : State :=
  let x := platOf s p
  if p < nPlats s ∧ x.st = .measuring ∧ ¬ x.measured ∧ s.sup.running ∧ ¬ s.sup.tripped then
    if m.ok then readyOrCheck (logMeasured (modPlat s p fun x => measuredPlat x m) p m) p
    else
      let s := modPlat s p fun x => { x with st := .out, cause := 4 }
      let s := portsDown (logFault s 0x0A p 0 0 4) p
      if p = 0 then s else tryEnd (eventAll s 0x0401 INTEGRITY [(0x10, 1, p), (0x11, 1, 4)])
  else s

def execPlatMeasurementDone (plat : Nat) (m : Measurement) (s : State) : Host.Outcome State Fault Refusal :=
  .next (platMeasurementDone s plat m)

/-! ### PLAT_SELF_CHECK_DONE (R408, R409, R412, R413) -/

/-- An activation self-check ends: in the switch of an Update Reset, or after the measurement of an activating reset. One that
fails puts the package in the Terminal state. -/
def platSelfCheckDone (s : State) (p : Nat) (ok : Bool) (code : Nat) : State :=
  let x := platOf s p
  let set (s : State) (i : Image) : State := if p = 0 then checkSettings s i else s
  match activating s, otherSlot s.mon with
  | some q, some i =>
    if q = p ∧ x.switching ∧ ¬ x.checked then
      if ok then set (modPlat s p fun x => { x with checked := true }) i else enterTerminal s p 1 code
    else s
  | _, _ =>
    if p < nPlats s ∧ activatingReset s ∧ s.mon.running ∧ x.st = .measuring ∧ x.measured then
      if ok then tryEnd (set (becomeReady s p) s.mon.image) else enterTerminal s p 1 code
    else s

def execPlatSelfCheckDone (plat : Nat) (ok : Bool) (code : Nat) (s : State) : Host.Outcome State Fault Refusal :=
  .next (platSelfCheckDone s plat ok code)

end Sys2Proof.Machine
end

