-- ==== Sys2Proof/Machine/Registers.lean ====
section
/-!
DEFINITION. The set-up registers (chapter 13): the BAR0 map, what every register reads, writes and their rights, RWE
fields and ENABLE, shadows, the bit-alias window, the context window, the service port (R380, R448 to R470).
The model's own: log 5 (PRESUMED), log 41 (DEDUCED), log 44 (PRESUMED, DESIGN CHOICE).
-/
namespace Sys2Proof.Machine
open Sys2Proof

/-! ### The BAR0 map (Tables 13.3, 12.2) -/

/-- The block that a BAR0 offset lies in, with the offset inside it; sub-blocks that the variant lacks are `none`. -/
inductive RegBlock where
  | glb (o : Nat)
  | dtm (o : Nat)
  | thm (p o : Nat)
  | hpt (n o : Nat)
  | tptCommon (o : Nat)
  | tpt (t o : Nat)
  | ctx (c o : Nat)
  | mem (o : Nat)
  | cad (p o : Nat)
  | flt (o : Nat)
  | mon (o : Nat)
  | plt (p o : Nat)
  | none
  deriving DecidableEq, Repr, Inhabited

def blockAt (s : State) (a : Nat) : RegBlock :=
  if a < 0x4000 then .glb a
  else if a < 0x8000 then .dtm (a - 0x4000)
  else if a < 0x10000 then (let p := (a - 0x8000) / 0x40; if p < nPlats s then .thm p ((a - 0x8000) % 0x40) else .none)
  else if a < 0x18000 then (let n := (a - 0x10000) / 0x2000; if n < nHost s then .hpt n ((a - 0x10000) % 0x2000) else .none)
  else if a < 0x19000 then .tptCommon (a - 0x18000)
  else if a < 0x1B000 then (let t := (a - 0x19000) / 0x1000; if t < nTie s then .tpt t ((a - 0x19000) % 0x1000) else .none)
  else if a < 0x20000 then .none
  else if a < 0x24000 then .ctx ((a - 0x20000) / 0x100) ((a - 0x20000) % 0x100)
  else if a < 0x30000 then .none
  else if a < 0x40000 then .mem (a - 0x30000)
  else if a < 0x50000 then (let p := (a - 0x40000) / 0x40; if p < nPlats s then .cad p ((a - 0x40000) % 0x40) else .none)
  else if a < 0x60000 then .flt (a - 0x50000)
  else if a < 0x70000 then .mon (a - 0x60000)
  else if a < 0x80000 then .none
  else (let p := (a - 0x80000) / 0x10000; if p < nPlats s then .plt p ((a - 0x80000) % 0x10000) else .none)

def released (s : State) (p : Nat) : Bool := decide ((platOf s p).st ≠ .unreleased)

/-! ### What the registers read -/

def platBits (s : State) (f : Nat → Bool) : Nat := ofBits ((List.range (nPlats s)).map f)

/-- ALERT sources (Table 13.7). -/
def alertActive (s : State) : Nat :=
  let ps := List.range (nPlats s)
  ofBits [
    ps.any fun p => decide ((platOf s p).thermal.st = .hot),
    ps.any fun p => decide ((platOf s p).st = .out),
    (ps.any fun p => decide ((platOf s p).st = .ready) && decide ((platOf s p).spares.length < s.flt.sparesMin.inForce)),
    (List.range (nHost s)).any fun n => (portOf s n).ctrl.enable && !inL0 s n,
    (List.range (nTie s)).any fun t => (tieOf s t).ctrl.enable && decide ((tieOf s t).st ≠ .active),
    ps.any fun p => (cadOf s p).wear,
    !s.flt.reported.isEmpty,
    decide (s.glb.pace < 64),
    mixedImages s]

/-- ALERT_N is low (R460). -/
def alertLow (s : State) : Bool :=
  (alertActive s &&& s.glb.alertEn) != 0 || terminal s || decide ((platOf s 0).st = .out)

/-- LOCKED is high (R398). -/
def lockedHigh (s : State) : Bool := s.sup.vstby && s.fuses.fieldLock

/-- GLB_READY, the ready map (R421). -/
def readyMap (s : State) : Nat :=
  platBits s (ready s) + 256 * platBits s (mounted s) +
    65536 * ofBits ((List.range (nHost s)).map (inL0 s)) +
    1048576 * ofBits ((List.range (nTie s)).map fun t => decide ((tieOf s t).st = .active)) +
    16777216 * b2n s.mon.running + 33554432 * b2n (terminal s)

def variantCaps (s : State) : Nat := nHost s + 16 * nTie s + 65536 * 64 + 16777216 * 4

def gradeNum : Grade → Nat
  | .x => 0
  | .s => 1

def rdGlb (s : State) (o : Nat) : Nat :=
  if o = 0x0 then 0x564C + 65536 * s.part.stepping + 16777216 * gradeNum s.part.grade + 268435456 * nPlats s
  else if o = 0x4 then variantCaps s
  else if o = 0x8 then s.glb.ignored
  else if o = 0xC then s.glb.denied
  else if o = 0x10 then s.glb.ppl
  else if o = 0x14 then s.glb.pace + 256 * s.glb.lowest
  else if o = 0x18 then min 65535 (s.glb.meanMw * 4 / 1000)
  else if o = 0x20 then readyMap s
  else if o = 0x24 then b2n s.glb.defaulted + 2 * b2n (mixedImages s)
  else if o = 0x28 then s.glb.setupPorts
  else if o = 0x30 then s.glb.alertEn
  else if o = 0x34 then alertActive s
  else if 0x40 ≤ o ∧ o < 0x60 then
    (let p := (o - 0x40) / 4
     let x := platOf s p
     if p < nPlats s ∧ x.st = .ready then enabled x + 256 * x.spares.length else 0)
  else if 0x100 ≤ o ∧ o < 0x140 then ((s.mon.image.formats[(o - 0x100) / 4]?).map fun e => e.1 + 65536 * e.2).getD 0
  else 0

def rdCtrl (c : Ctrl) : Nat := b2n c.enable + 2 * b2n c.writeIgnored + 65536 * c.ignored

def rdDtm (s : State) (o : Nat) : Nat :=
  let d := s.dtm
  if o = 0 then rdCtrl d.ctrl
  else if o = 0x10 then d.ptmInterval.written
  else if o = 0x14 then d.mapInterval.written
  else if o = 0x18 then d.syncCfg.written
  else if o = 0x28 then d.accepted + 65536 * d.rejected
  else if 0x40 ≤ o ∧ o < 0x40 + 0x20 * nHost s then
    (let m := (portOf s ((o - 0x40) / 0x20)).ptm
     if o % 0x20 = 0 then b2n m.valid + 256 * m.held.length + 65536 * min 65535 m.failRow
     else if o % 0x20 = 4 then unsigned 32 m.rate
     else if o % 0x20 = 0x18 then unsigned 32 m.u
     else 0)
  else 0

def rdThm (s : State) (p o : Nat) : Nat :=
  let t := (platOf s p).thermal
  if !released s p then 0
  else if o = 0 then thermNum t.st + 256 * t.ratio + 65536 * ofBits ((List.range 16).map t.failed.contains)
  else if o = 4 then unsigned 16 t.temp + 65536 * t.sensor
  else if o = 8 then t.warmEntry + 16 * t.warmExit + 256 * t.hotEntry + 4096 * t.hotExit
  else if 0x10 ≤ o ∧ o < 0x30 then
    (let j := (o - 0x10) / 4
     let raw (k : Nat) : Nat := if t.failed.contains k then 0x8000 else unsigned 16 (t.raw.getD k 0)
     raw (2 * j) + 65536 * raw (2 * j + 1))
  else 0

def rdHpt (s : State) (n o : Nat) : Nat :=
  let x := portOf s n
  if o = 0 then rdCtrl x.ctrl
  else if o = 4 then x.cfg.written
  else if o = 8 then (x.sweepNew.map (·.1)).getD x.sweep
  else if o = 0xC then x.graceMs
  else if o = 0x10 then x.asqLo.written
  else if o = 0x14 then x.asqHi.written
  else if o = 0x18 then x.acqLo.written
  else if o = 0x1C then x.acqHi.written
  else if o = 0x20 then x.adbLo.written
  else if o = 0x24 then x.adbHi.written
  else if o = 0x28 then x.adepth.written
  else if o = 0x30 then
    x.link + 8 * x.width + 64 * b2n x.fast + 256 * b2n x.incompat + 512 * ofBits ((List.range 5).map x.good.contains)
  else if o = 0x34 then x.rtt
  else if o = 0x38 then x.sweepFails
  else if o = 0x3C then x.drops
  else if o = 0x40 then x.posted
  else if o = 0x44 then
    (ctxsOn s n).length + 256 * ((s.ctxs.filter fun e => e.2.port == n && e.2.surveyor).length)
  else 0

def tieStNum : TieSt → Nat
  | .down => 0
  | .levelRun => 1
  | .hello => 2
  | .auth => 3
  | .active => 4
  | .recovery => 5
  | .refused => 6

def rdTptCommon (s : State) (o : Nat) : Nat :=
  if o = 0 then s.tpt.node.written
  else if o = 4 then s.tpt.ackMs
  else if o = 0x10 then s.tpt.badFrame + 65536 * s.tpt.noRoute
  else if o = 0x14 then s.tpt.lateAcks
  else if o = 0x18 then s.tpt.ignored
  else 0

def rdTpt (s : State) (t o : Nat) : Nat :=
  let x := tieOf s t
  if o = 0 then rdCtrl x.ctrl
  else if o = 4 then
    tieStNum x.st + 256 * ofBits ((List.range 3).map x.good.contains) + 65536 * x.peerNode + 16777216 * (x.peerEpoch % 256)
  else if o = 8 then x.naks
  else if o = 0xC then x.tagFails
  else 0

def rdMod (m : Mod) : Nat := m.count + 65536 * m.timeUs

def rdCtx (s : State) (c o : Nat) : Nat :=
  match ctxOf s c with
  | none => 0
  | some x =>
    if o = 0 then
      1 + 2 * b2n x.surveyor + 4 * b2n (tdiHeld x) + 16 * x.port + 256 * x.vf + 65536 * x.crew.length
    else if o = 4 then rdMod x.cqMod
    else if o = 8 then rdMod x.eqMod
    else if o = 0xC then x.ignored
    else if o = 0x10 then x.ring.sqHead
    else if o = 0x14 then x.ring.cqTail
    else if o = 0x18 then x.ring.eqTail
    else if o = 0x1C then x.evseq
    else if o = 0x20 then min 262721 x.held.length + 2147483648 * b2n (stalled x)
    else if o = 0x24 then x.lostAll
    else 0

/-- Units of a tier that the objects of a Plat hold; of the Near tier, those of its Plat Store. -/
def platUnits (s : State) (p : Nat) (t : Tier) : Nat :=
  sumNat ((s.objs.filter fun e => e.2.home == p && holdsUnits s e.1 e.2 t && (decide (t ≠ .near) || e.2.site.isNone)).map
    fun e => unitsOf t e.2.length)

def rdMem (s : State) (o : Nat) : Nat :=
  if o = 0x400 then s.objs.length
  else if o = 0x404 then s.mon.holdings.length
  else
    let p := o / 0x40
    let x := platOf s p
    if nPlats s ≤ p ∨ x.st ≠ .ready then 0
    else if o % 0x40 = 0 then 507904 - platUnits s p .main
    else if o % 0x40 = 4 then 4096 - platUnits s p .near
    else if o % 0x40 = 8 then x.retired + 65536 * x.mainSpare
    else if o % 0x40 = 0xC then (x.moves.length - 1) + 2147483648 * b2n (!x.moves.isEmpty)
    else if o % 0x40 = 0x10 then x.scrubs
    else 0

def rdCad (s : State) (p o : Nat) : Nat :=
  let c := cadOf s p
  if o = 0 then c.st + 4 * b2n c.unclean + 8 * b2n c.wear + 65536 * min 65535 c.mountMs
  else if c.st ≠ 2 then 0
  else if o = 4 then freeBlocks c
  else if o = 8 then retiredBlocks c
  else if o = 0xC then min 65535 (meanErases c) + 65536 * min 65535 ((c.blocks.map (·.2.erases)).foldl max 0)
  else if o = 0x18 then c.discarded
  else if o = 0x1C then c.reerased
  else 0

def rdFlt (s : State) (o : Nat) : Nat :=
  if o = 0 then rdCtrl s.flt.ctrl
  else if o = 4 then s.flt.window.written
  else if o = 8 then s.flt.sparesMin.written
  else if o = 0xC then s.flt.log.length
  else if o = 0x10 then s.flt.eseq
  else if 0x110 ≤ o ∧ o < 0x1F0 ∧ o % 0x10 = 8 then tgetD s.flt.losses ((o - 0x100) / 0x10) 0
  else 0

def rdMon (s : State) (o : Nat) : Nat :=
  if o = 0 then
    b2n s.mon.running + 2 * b2n s.fuses.fieldLock + 4 * b2n (terminal s) + 8 * b2n (mixedImages s) + 16 * updNum s.mon.upd +
      256 * s.fuses.counter + 65536 * (platOf s 0).epoch
  else if o = 4 then s.mon.parcels.length
  else if o = 8 then s.mon.image.svn
  else 0

def platStNum : PlatSt → Nat
  | .unreleased => 0
  | .measuring => 1
  | .ready => 2
  | .out => 3

/-- Spare optical lanes of a Plat's two port controllers (R25, R31). -/
def opticalSpares (s : State) (p : Nat) : Nat :=
  let has (c : Nat) : Bool := match controllerPort s p c with
    | some (.host n) => (portOf s n).spareLane
    | some (.tie t) => (tieOf s t).spareLane
    | none => false
  ofBits [has 0, has 1]

def rdPlt (s : State) (p o : Nat) : Nat :=
  let x := platOf s p
  if !released s p then 0
  else if o = 0 then platStNum x.st + 4 * b2n x.switching + 256 * x.cause + 65536 * x.epoch
  else if o = 4 then x.spares.length + 16 * (1536 - x.fmRows.length) + 65536 * (64 - x.psRows.length)
  else if o = 8 then x.lanes + 256 * opticalSpares s p
  else if o = 0xC then legsOn s p + 65536 * stakesOn s p
  else if 0x100 ≤ o ∧ o < 0x158 then
    leNat ((List.range 4).map fun j => BitVec.ofNat 8 (((x.map.getD (o - 0x100 + j) none)).getD 0xFF))
  else 0

/-- The 64-bit value whose LOL register lies at a BAR0 offset (R454). -/
def wide (s : State) (a : Nat) : Option Nat :=
  match blockAt s a with
  | .dtm o =>
    if o = 8 then some s.sup.now
    else if o = 0x20 then some s.dtm.syncTe
    else if 0x40 ≤ o ∧ o < 0x40 + 0x20 * nHost s ∧ o % 0x20 = 8 then some (unsigned 64 (portOf s ((o - 0x40) / 0x20)).ptm.d0)
    else if 0x40 ≤ o ∧ o < 0x40 + 0x20 * nHost s ∧ o % 0x20 = 0x10 then some (unsigned 64 (portOf s ((o - 0x40) / 0x20)).ptm.h0)
    else none
  | .tptCommon o =>
    if o = 8 then some (s.tpt.routes.foldl (fun m e => m + 2 ^ e.1) 0) else none
  | .cad p o => if o = 0x10 then some (if (cadOf s p).st = 2 then (cadOf s p).seq else 0) else none
  | .flt o => if 0x110 ≤ o ∧ o < 0x1F0 ∧ o % 0x10 = 0 then some (tgetD s.flt.totals ((o - 0x100) / 0x10) 0) else none
  | .mon o => if o = 0x10 then some s.mon.image.id else if o = 0x18 then some s.part.serial else none
  | _ => none

/-- The live value of the 32-bit register at a BAR0 offset. -/
def rdReg (s : State) (a : Nat) : Nat :=
  match wide s a with
  | some v => v % 4294967296
  | none =>
    match (if 4 ≤ a then wide s (a - 4) else none) with
    | some v => v / 4294967296 % 4294967296
    | none =>
      match blockAt s a with
      | .glb o => rdGlb s o
      | .dtm o => rdDtm s o
      | .thm p o => rdThm s p o
      | .hpt n o => rdHpt s n o
      | .tptCommon o => rdTptCommon s o
      | .tpt t o => rdTpt s t o
      | .ctx c o => rdCtx s c o
      | .mem o => rdMem s o
      | .cad p o => rdCad s p o
      | .flt o => rdFlt s o
      | .mon o => rdMon s o
      | .plt p o => rdPlt s p o
      | .none => 0

/-! ### Paths (R380, R449, R454, R459) -/

/-- The path reaches the device: a link up and a function in D0; the service port with VMAIN in range, RESET_N high, which holds
all but the standby domain in reset (Table 10.16), and no Field Lock. -/
def pathUp (s : State) (p : Path) : Bool :=
  match p with
  | .pf n => decide (n < nHost s) && linkUp s n && !inD3 s n .pf
  | .vf n v => decide (n < nHost s ∧ v < 64) && linkUp s n && !inD3 s n (.vf v)
  | .svc => s.sup.vmain && s.sup.resetN && !s.fuses.fieldLock
  | .bitAlias n | .aperture n => decide (n < nHost s) && linkUp s n && !inD3 s n .pf

/-- The BAR0 offset that an offset of a path names: a VF's window shows its context's CTX entry and four registers of the
package. -/
def pathOffset (s : State) (p : Path) (a : Nat) : Option Nat :=
  match p with
  | .vf n v =>
    if a < 0x100 then (vfCtx s n v).map fun e => ctxAt e.1 + a
    else if a = 0x100 then some (dtmAt + 8)
    else if a = 0x104 then some (dtmAt + 0xC)
    else if a = 0x108 then some 0x14
    else if a = 0x10C then some 0x20
    else none
  | .pf _ | .svc => if a < 0x100000 then some a else none
  | .bitAlias _ | .aperture _ => none

def shadowOf (s : State) (p : Path) (a : Nat) : Nat :=
  ((s.shadows.find? fun e => e.1 == p && e.2.1 == a).map (·.2.2)).getD 0

def setShadow (s : State) (p : Path) (a v : Nat) : State :=
  { s with shadows := (p, a, v) :: s.shadows.filter fun e => !(e.1 == p && e.2.1 == a) }

/-- A path reads a register: a LOL register latches its path's shadow, a HIS register gives it. -/
def pathRead (s : State) (p : Path) (a : Nat) : State × Nat :=
  match wide s a with
  | some v => (setShadow s p a (v / 4294967296 % 4294967296), v % 4294967296)
  | none =>
    if 4 ≤ a ∧ (wide s (a - 4)).isSome then (s, shadowOf s p (a - 4)) else (s, rdReg s a)

/-- A word of the MSI-X table, 32 entries of 16 bytes, or of the Pending Bit Array in a VF's window (R459). -/
def rdVectors (s : State) (p : Path) (a : Nat) : Nat :=
  match p with
  | .vf n v =>
    let f := fnOf s n (.vf v)
    if 0x2000 ≤ a ∧ a < 0x2200 then
      if a % 16 = 12 then b2n (!f.unmasked.contains ((a - 0x2000) / 16)) else tgetD f.table (a - 0x2000) 0
    else if a = 0x3000 then ofBits ((List.range 32).map f.pend.contains)
    else 0
  | _ => 0

/-- One word read at a multiple of 4: a register that the path names, the live bit that an alias names (R457: no shadow changes),
or a word of a VF's MSI-X structures. -/
def wordRead (s : State) (p : Path) (a : Nat) : State × Nat :=
  match p with
  | .bitAlias _ =>
    let r := a / 128 * 4
    (s, if r < 0x80000 then
          b2n (bit (match wide s r with
            | some v => v % 4294967296
            | none => match if 4 ≤ r then wide s (r - 4) else none with
              | some v => v / 4294967296
              | none => rdReg s r) (a % 128 / 4))
        else 0)
  | _ =>
    match pathOffset s p a with
    | some b => pathRead s p b
    | none => (s, rdVectors s p a)

/-- The words that a read of `n` bytes at `a` touches are read in ascending order (R448). -/
def wordsRead (s : State) (p : Path) (a n : Nat) : State × Bytes :=
  let first := a / 4
  let r := (List.range ((a + n - 1) / 4 + 1 - first)).foldl (fun (acc : State × Bytes) k =>
    let w := wordRead acc.1 p ((first + k) * 4)
    (w.1, acc.2 ++ le 4 w.2)) (s, [])
  (r.1, (r.2.drop (a % 4)).take n)

/-- A read of 1 to 8 bytes through a BAR; one of the intake aperture completes with Unsupported Request (R357). -/
def lolRead (s : State) (p : Path) (a n : Nat) : State :=
  if !pathUp s p then s
  else
    match p with
    | .svc => s
    | .aperture port => unsupported s port p a
    | _ => let r := wordsRead s p a n; emit r.1 (.register p a r.2)

def execLolRead (p : Path) (r : ReadSpan) (s : State) : Host.Outcome State Fault Refusal := .next (lolRead s p r.offset r.length)

/-! ### Writes: rights and counts (R448 to R452) -/

/-- The path may write the block. -/
def mayWrite (s : State) (p : Path) (b : RegBlock) : Bool :=
  match p with
  | .pf n | .bitAlias n => bit s.glb.setupPorts n || (match b with
      | .hpt m _ => m == n
      | _ => false)
  | .aperture _ => false
  | .vf _ _ => match b with
      | .ctx _ _ => true
      | _ => false
  | .svc => true

def countGlb (s : State) : State := { s with glb := { s.glb with ignored := satAdd max32 s.glb.ignored 1 } }

def countDenied (s : State) : State := { s with glb := { s.glb with denied := satAdd max32 s.glb.denied 1 } }

def Ctrl.count (c : Ctrl) : Ctrl := { c with ignored := satAdd 65535 c.ignored 1 }

/-- Count an ignored write in its block (R448). -/
def countIgnored (s : State) (b : RegBlock) : State :=
  match b with
  | .dtm _ => { s with dtm := { s.dtm with ctrl := s.dtm.ctrl.count } }
  | .hpt n _ => modPort s n fun x => { x with ctrl := x.ctrl.count }
  | .tptCommon _ => { s with tpt := { s.tpt with ignored := satAdd max32 s.tpt.ignored 1 } }
  | .tpt t _ => modTie s t fun x => { x with ctrl := x.ctrl.count }
  | .ctx c _ => modCtx s c fun x => { x with ignored := satAdd max32 x.ignored 1 }
  | .flt _ => { s with flt := { s.flt with ctrl := s.flt.ctrl.count } }
  | .none => s
  | _ => countGlb s

/-- Note in CTRL that an RWE write has been ignored; the common registers of TPT have no such bit. -/
def noteRwe (s : State) (b : RegBlock) : State :=
  match b with
  | .dtm _ => { s with dtm := { s.dtm with ctrl := { s.dtm.ctrl with writeIgnored := true } } }
  | .hpt n _ => modPort s n fun x => { x with ctrl := { x.ctrl with writeIgnored := true } }
  | .flt _ => { s with flt := { s.flt with ctrl := { s.flt.ctrl with writeIgnored := true } } }
  | _ => s

/-- The block is enabled; the common registers of TPT while any port sub-block of the package is. -/
def blockOn (s : State) (b : RegBlock) : Bool :=
  match b with
  | .dtm _ => s.dtm.ctrl.enable
  | .hpt n _ => (portOf s n).ctrl.enable
  | .flt _ => s.flt.ctrl.enable
  | .tptCommon _ => (List.range (nTie s)).any fun t => (tieOf s t).ctrl.enable
  | .tpt t _ => (tieOf s t).ctrl.enable
  | _ => false

/-- Apply a write of an RW field: outside its range the whole write is ignored and counted (R452). -/
def wrRw (s : State) (b : RegBlock) (ok : Bool) (f : State → State) : State := if ok then f s else countIgnored s b

/-- Apply a write of an RWE field: ignored, counted and noted while the block is enabled (R451). -/
def wrRwe (s : State) (b : RegBlock) (ok : Bool) (f : State → State) : State :=
  if blockOn s b then noteRwe (countIgnored s b) b else wrRw s b ok f

def Rwe.put (r : Rwe) (v : Nat) : Rwe := { r with written := v }

def Rwe.adopt (r : Rwe) : Rwe := { r with inForce := r.written }

/-! ### ENABLE (Table 13.2) -/

/-- A CTRL register after a write of ENABLE. -/
def Ctrl.set (c : Ctrl) (on : Bool) : Ctrl := { c with enable := on, writeIgnored := c.writeIgnored && on }

/-- The Time Map of a port is invalid while it runs no dialogues. -/
def dropMap (s : State) (p : Nat) : State :=
  setMapValid (modPort s p fun x => { x with ptm := { x.ptm with asked := none, okRow := 0 } }) p false

def enableDtm (s : State) (on : Bool) : State :=
  let d := s.dtm
  let s := { s with dtm := if on then { d with ctrl := d.ctrl.set true, ptmInterval := d.ptmInterval.adopt,
                                               mapInterval := d.mapInterval.adopt, syncCfg := d.syncCfg.adopt }
                           else { d with ctrl := d.ctrl.set false } }
  if on then s else (List.range (nHost s)).foldl dropMap s

/-- Disabling a Host Port closes its contexts as FLR of the PF does. -/
def enableHpt (s : State) (n : Nat) (on : Bool) : State :=
  if on then
    modPort s n fun x =>
      { x with ctrl := x.ctrl.set true, cfg := x.cfg.adopt, asqLo := x.asqLo.adopt, asqHi := x.asqHi.adopt, acqLo := x.acqLo.adopt,
               acqHi := x.acqHi.adopt, adbLo := x.adbLo.adopt, adbHi := x.adbHi.adopt, adepth := x.adepth.adopt,
               ring := if x.asqLo.adopt = x.asqLo ∧ x.asqHi.adopt = x.asqHi ∧ x.adepth.adopt = x.adepth then x.ring else {} }
  else
    let s := (ctxsOn s n).foldl (fun s c => closeCtx s c 2) s
    dropMap (modPort s n fun x => { x with ctrl := x.ctrl.set false }) n

def enableTpt (s : State) (t : Nat) (on : Bool) : State :=
  if on then
    let s := modTie s t fun x => { x with ctrl := x.ctrl.set true }
    { s with tpt := { s.tpt with node := s.tpt.node.adopt } }
  else
    let s := modTie s t fun x => { x with ctrl := x.ctrl.set false }
    if (tieOf s t).st = .down then s else tieLinkDown s t none

def enableFlt (s : State) (on : Bool) : State :=
  let f := s.flt
  { s with flt := if on then { f with ctrl := f.ctrl.set true, window := f.window.adopt, sparesMin := f.sparesMin.adopt }
                  else { f with ctrl := f.ctrl.set false } }

/-! ### Writes of each block -/

def wrGlb (s : State) (o v : Nat) : State :=
  if o = 0x10 then
    let n := v % 65536
    wrRw s (.glb o) (decide (pplLow s ≤ n ∧ n ≤ pplHigh s)) fun s => storeSetting { s with glb := { s.glb with ppl := n } } 0x10 n
  else if o = 0x28 then
    let n := v % 16
    if n = 0 then countDenied s else storeSetting { s with glb := { s.glb with setupPorts := n } } 0x28 n
  else if o = 0x30 then
    let n := v % 512
    storeSetting { s with glb := { s.glb with alertEn := n } } 0x30 n
  else s

def wrDtm (s : State) (o v : Nat) : State :=
  let b : RegBlock := .dtm o
  if o = 0 then enableDtm s (bit v 0)
  else if o = 0x10 then
    let n := v % 134217728
    wrRwe s b (decide (125000 ≤ n ∧ n ≤ 100000000)) fun s =>
      storeSetting { s with dtm := { s.dtm with ptmInterval := s.dtm.ptmInterval.put n } } (dtmAt + o) n
  else if o = 0x14 then
    let n := v % 16384
    wrRwe s b (decide (n ≤ 10000)) fun s =>
      storeSetting { s with dtm := { s.dtm with mapInterval := s.dtm.mapInterval.put n } } (dtmAt + o) n
  else if o = 0x18 then
    let n := v % 4294967296 / 65536 * 65536 + v % 2
    wrRwe s b true fun s => storeSetting { s with dtm := { s.dtm with syncCfg := s.dtm.syncCfg.put n } } (dtmAt + o) n
  else s

/-- The first multiple of a sweep period after now. -/
def sweepFrom (now units : Nat) : Nat := (now / (500 * units) + 1) * (500 * units)

def wrHpt (s : State) (n o v : Nat) : State :=
  let b : RegBlock := .hpt n o
  let rwe (ok : Bool) (f : Port → Port) : State := wrRwe s b ok fun s => modPort s n f
  let lo := v % 4294967296 / 4096 * 4096
  let hi := v % 4294967296
  if o = 0 then storeSetting (enableHpt s n (bit v 0)) (hptAt n) (v % 2)
  else if o = 4 then
    let c := v % 32
    wrRwe s b true fun s => storeSetting (modPort s n fun x => { x with cfg := x.cfg.put c }) (hptAt n + 4) c
  else if o = 8 then
    let u := v % 256
    wrRw s b (decide (1 ≤ u ∧ u ≤ 128)) fun s =>
      storeSetting (modPort s n fun x => { x with sweepNew := some (u, sweepFrom s.sup.now u) }) (hptAt n + 8) u
  else if o = 0xC then
    let g := v % 16384
    wrRw s b (decide (g ≤ 10000)) fun s => storeSetting (modPort s n fun x => { x with graceMs := g }) (hptAt n + 0xC) g
  else if o = 0x10 then rwe true fun x => { x with asqLo := x.asqLo.put lo }
  else if o = 0x14 then rwe true fun x => { x with asqHi := x.asqHi.put hi }
  else if o = 0x18 then rwe true fun x => { x with acqLo := x.acqLo.put lo }
  else if o = 0x1C then rwe true fun x => { x with acqHi := x.acqHi.put hi }
  else if o = 0x20 then rwe true fun x => { x with adbLo := x.adbLo.put lo }
  else if o = 0x24 then rwe true fun x => { x with adbHi := x.adbHi.put hi }
  else if o = 0x28 then
    let sq := bits v 4 0
    let cq := bits v 12 8
    rwe (decide (4 ≤ sq ∧ sq ≤ 16 ∧ 4 ≤ cq ∧ cq ≤ 16)) fun x => { x with adepth := x.adepth.put (sq + 256 * cq) }
  else s

def wrTptCommon (s : State) (o v : Nat) : State :=
  let b : RegBlock := .tptCommon o
  if o = 0 then
    let n := v % 64
    wrRwe s b true fun s => storeSetting { s with tpt := { s.tpt with node := s.tpt.node.put n } } tptAt n
  else if o = 4 then
    let n := v % 1024
    wrRw s b (decide (1 ≤ n ∧ n ≤ 1000)) fun s => storeSetting { s with tpt := { s.tpt with ackMs := n } } (tptAt + 4) n
  else s

def wrTpt (s : State) (t o v : Nat) : State :=
  if o = 0 then storeSetting (enableTpt s t (bit v 0)) (tptPortAt t) (v % 2) else s

/-- Moderation of a context's ring: a change applies to entries written after it. -/
def wrMod (m : Mod) (v : Nat) : Mod := { m with count := bits v 8 0, timeUs := bits v 25 16 }

/-- A CTX entry: of a closed context nothing is counted; a locked TDI takes writes through its VF alone (R396, R465). -/
def wrCtx (s : State) (p : Path) (c o v : Nat) : State :=
  match ctxOf s c with
  | none => s
  | some x =>
    let own : Bool := match p with
      | .vf _ _ => true
      | _ => false
    if tdiHeld x && !own then countIgnored s (.ctx c o)
    else if o = 4 ∨ o = 8 then
      wrRw s (.ctx c o) (decide (1 ≤ bits v 8 0 ∧ bits v 8 0 ≤ 256 ∧ bits v 25 16 ≤ 1000)) fun s => modCtx s c fun x =>
        if o = 4 then { x with cqMod := wrMod x.cqMod v } else { x with eqMod := wrMod x.eqMod v }
    else s

def wrFlt (s : State) (o v : Nat) : State :=
  let b : RegBlock := .flt o
  if o = 0 then enableFlt s (bit v 0)
  else if o = 4 then
    let n := bits v 3 0
    let w := bits v 27 16
    wrRwe s b (decide (2 ≤ n ∧ n ≤ 15 ∧ 1 ≤ w ∧ w ≤ 3600)) fun s =>
      storeSetting { s with flt := { s.flt with window := s.flt.window.put (n + 65536 * w) } } (fltAt + 4) (n + 65536 * w)
  else if o = 8 then
    let n := bits v 3 0
    wrRwe s b (decide (n ≤ 8)) fun s =>
      storeSetting { s with flt := { s.flt with sparesMin := s.flt.sparesMin.put n } } (fltAt + 8) n
  else s

/-- A write of one whole register: rights first, then the block's rules; the PLT block of a Plat not released counts it
(Table 12.2). -/
def wrReg (s : State) (p : Path) (a v : Nat) : State :=
  let b := blockAt s a
  if !mayWrite s p b then countDenied s
  else
    match b with
    | .glb o => wrGlb s o v
    | .dtm o => wrDtm s o v
    | .hpt n o => wrHpt s n o v
    | .tptCommon o => wrTptCommon s o v
    | .tpt t o => wrTpt s t o v
    | .ctx c o => wrCtx s p c o v
    | .flt o => wrFlt s o v
    | .plt q _ => if released s q then s else countGlb s
    | _ => s

/-- A write that does not cover one register: counted by its block, with rights (R448). -/
def wrPartial (s : State) (p : Path) (a : Nat) : State :=
  let b := blockAt s a
  if !mayWrite s p b then countDenied s else countIgnored s b

/-- A word written to the MSI-X table in a VF's window: Vector Control masks or unmasks its vector (R459). -/
def wrVectors (s : State) (p : Path) (a v : Nat) : State :=
  match p with
  | .vf n w =>
    if 0x2000 ≤ a ∧ a < 0x2200 then
      if a % 16 = 12 then maskVector s n (.vf w) ((a - 0x2000) / 16) (bit v 0)
      else modFn s n (.vf w) fun x => { x with table := tput x.table (a - 0x2000) v }
    else s
  | _ => s

/-- A write of one whole word at an offset of a path. -/
def wrWord (s : State) (p : Path) (a v : Nat) : State :=
  match pathOffset s p a with
  | some b => wrReg s p b v
  | none => wrVectors s p a v

/-- A write at an offset of a path: whole, it writes the register; else it is counted. -/
def unitWrite (s : State) (p : Path) (a : Nat) (d : Bytes) : State :=
  if d.isEmpty then s
  else if a % 4 = 0 ∧ d.length = 4 then wrWord s p a (leNat d)
  else (pathOffset s p a).elim s fun b => wrPartial s p b

/-- A write of 1 to 8 bytes at an offset of a path; one of 8 bytes is two of 4, at ascending offsets (R448). -/
def pathWrite (s : State) (p : Path) (a : Nat) (d : Bytes) : State :=
  if !pathUp s p then s
  else if d.length = 8 then unitWrite (unitWrite s p a (d.take 4)) p (a + 4) (d.drop 4)
  else unitWrite s p a d

/-- A whole write of a register that a path names by its BAR0 offset; a VF reaches its own context's entry alone, and BAR2 and the
aperture reach no whole register. -/
def barWrite (s : State) (p : Path) (a v : Nat) : State :=
  if pathUp s p then
    match p with
    | .vf n w =>
      match vfCtx s n w with
      | none => s
      | some (c, _) => if ctxAt c ≤ a ∧ a < ctxAt c + 0x100 then wrReg s p a v else s
    | .pf _ | .svc => wrReg s p a v
    | .bitAlias _ | .aperture _ => s
  else s

/-! ### The rows of register writes -/

/-- Offset of a block's CTRL register. -/
def ctrlAt : CtrlBlock → Nat
  | .dtm => dtmAt
  | .flt => fltAt
  | .hpt n => hptAt n
  | .tpt t => tptPortAt t

def execBlockEnableWrite (p : Path) (b : CtrlBlock) (on : Bool) (s : State) : Host.Outcome State Fault Refusal :=
  .next (match b with
    | .hpt n => if n < 4 then barWrite s p (hptAt n) (b2n on) else s
    | .tpt t => if t < 2 then barWrite s p (tptPortAt t) (b2n on) else s
    | .dtm => barWrite s p (ctrlAt .dtm) (b2n on)
    | .flt => barWrite s p (ctrlAt .flt) (b2n on))

def execGlbPpl (p : Path) (value : Nat) (s : State) : Host.Outcome State Fault Refusal := .next (barWrite s p 0x10 value)

def execGlbSetupPorts (p : Path) (value : Nat) (s : State) : Host.Outcome State Fault Refusal := .next (barWrite s p 0x28 value)

def execGlbAlertEn (p : Path) (value : Nat) (s : State) : Host.Outcome State Fault Refusal := .next (barWrite s p 0x30 value)

def execHptSweep (p : Path) (port value : Nat) (s : State) : Host.Outcome State Fault Refusal :=
  .next (if port < 4 then barWrite s p (hptAt port + 8) value else s)

def execHptGrace (p : Path) (port value : Nat) (s : State) : Host.Outcome State Fault Refusal :=
  .next (if port < 4 then barWrite s p (hptAt port + 0xC) value else s)

def execTptNode (p : Path) (value : Nat) (s : State) : Host.Outcome State Fault Refusal := .next (barWrite s p tptAt value)

def execTptAck (p : Path) (value : Nat) (s : State) : Host.Outcome State Fault Refusal := .next (barWrite s p (tptAt + 4) value)

def execCtxModWrite (p : Path) (ctx : Nat) (k : RingKind) (value : Nat) (s : State) : Host.Outcome State Fault Refusal :=
  .next (if ctx < 64 then
    barWrite s p (ctxAt ctx + (match k with
      | .completion => 4
      | .event => 8)) value
  else s)

/-! ### The bit-alias window (R457) -/

/-- The bit is one that its register takes from a write: an alias of a reserved or read-only bit changes nothing. -/
def takesBit (b : RegBlock) (n : Nat) : Bool :=
  match b with
  | .glb o => if o = 0x10 then n < 16 else if o = 0x28 then n < 4 else decide (o = 0x30) && decide (n < 9)
  | .dtm o =>
    if o = 0 then n == 0
    else if o = 0x10 then n < 27
    else if o = 0x14 then n < 14
    else decide (o = 0x18) && (n == 0 || decide (16 ≤ n))
  | .hpt _ o =>
    if o = 0 then n == 0
    else if o = 4 then n < 5
    else if o = 8 then n < 8
    else if o = 0xC then n < 14
    else if o = 0x10 ∨ o = 0x18 ∨ o = 0x20 then 12 ≤ n
    else if o = 0x28 then n < 5 || decide (8 ≤ n ∧ n < 13)
    else decide (o = 0x14 ∨ o = 0x1C ∨ o = 0x24)
  | .tptCommon o => if o = 0 then n < 6 else decide (o = 4) && decide (n < 10)
  | .tpt _ o => decide (o = 0) && n == 0
  | .flt o =>
    if o = 0 then n == 0 else if o = 4 then n < 4 || decide (16 ≤ n ∧ n < 28) else decide (o = 8) && decide (n < 4)
  | _ => true

/-- A write through BAR2 of a PF: one bit set, the rest of the register unchanged. The PLT blocks have no aliases. -/
def bitAliasWrite (s : State) (p : Path) (a v : Nat) : State :=
  let r := a / 128 * 4
  let n := a % 128 / 4
  match p with
  | .bitAlias _ =>
    if pathUp s p ∧ a % 4 = 0 ∧ r < 0x80000 then
      if !mayWrite s p (blockAt s r) then countDenied s
      else if takesBit (blockAt s r) n then wrReg s p r (setBit (rdReg s r) n (bit v 0)) else s
    else s
  | _ => s

def execBitAliasWrite (p : Path) (offset value : Nat) (s : State) : Host.Outcome State Fault Refusal :=
  .next (bitAliasWrite s p offset value)

/-- A write that a BAR carries: of a whole word of BAR2 it sets the bit (R457), of another width there it is counted; one into the
aperture is a WINDOW_WRITE or an INTAKE_APERTURE_WRITE, rows of their own. -/
def busWrite (s : State) (p : Path) (a : Nat) (d : Bytes) : State :=
  match p with
  | .pf _ | .vf _ _ => pathWrite s p a d
  | .svc | .aperture _ => s
  | .bitAlias _ =>
    if !pathUp s p ∨ d.isEmpty then s
    else if a % 4 = 0 ∧ d.length = 4 then bitAliasWrite s p a (leNat d)
    else if a / 128 * 4 < 0x80000 then wrPartial s p (a / 128 * 4) else s

def execRegisterWrite (p : Path) (offset : Nat) (data : Bytes) (s : State) : Host.Outcome State Fault Refusal :=
  .next (busWrite s p offset data)

/-! ### The service port (R380, R455) -/

/-- A private transfer can be acknowledged: VMAIN in range, RESET_N high, the Field Lock fuse not blown. -/
def svcUp (s : State) : Bool := s.sup.vstby && pathUp s .svc

/-- An access of the service port, which lies on Plat 0, stalls: its block lives on another Plat, or in the service-clock
domain. -/
def svcStalls (s : State) (a : Nat) : Bool :=
  match blockAt s a with
  | .thm _ _ => true
  | .hpt n _ => hostPlat s n != 0
  | .tpt t _ => tiePlat s t != 0
  | .plt p _ => p != 0
  | .flt o => decide (0x100 ≤ o)
  | .mon o => o == 0
  | _ => false

/-- An access stalls: it ends within 2 µs, at a moment that nothing fixes (R455); a read's offset is kept till then. While Datum Time
does not run it ends at once (log 44). -/
def stallSvc (s : State) (o : Option Nat) : State :=
  let d := if s.sup.running then Config.freeNat s.free % 2001 else 0
  { s with free := s.free + 1, svcStall := some (o, s.sup.now + d) }

/-- The access that stalls has completed: a read's value is held as it stands now (R380). -/
def settleSvc (s : State) : State :=
  match s.svcStall with
  | none => s
  | some (o, t) =>
    if s.sup.now < t then s
    else
      let s := { s with svcStall := none }
      match o with
      | none => s
      | some a => let r := pathRead s .svc a; { r.1 with svcHeld := some r.2 }

/-- A private write of 8 bytes writes a register; it discards a value held for an earlier read. While an access is stalled its
address is NACKed, and it does nothing (R380). -/
def i3cRegisterWrite (s : State) (a v : Nat) : State :=
  let s := settleSvc s
  let a := a % 1048576
  if !svcUp s || s.svcStall.isSome then emit s .i3cNack
  else
    let s := emit { s with svcHeld := none } (.i3cAck 0)
    let stalls := svcStalls s a
    let s := if a % 4 = 0 then wrReg s .svc a (v % 4294967296) else wrPartial s .svc a
    if stalls then stallSvc s none else s

def execI3cRegisterWrite (offset value : Nat) (s : State) : Host.Outcome State Fault Refusal := .next (i3cRegisterWrite s offset value)

/-- A read phase alone, as the controller retries it: NACKed while an access is stalled, or where nothing is held; else the value
held is delivered. -/
def i3cReadPhase (s : State) : State :=
  match s.svcHeld with
  | some v => emit { s with svcHeld := none } (.i3cAck v)
  | none => emit s .i3cNack

/-- A private write of a read command with its read phase: it discards a value held for an earlier read; the access is delivered
at once, or, where it stalls, the read phase is NACKed. -/
def i3cReadNew (s : State) (a : Nat) : State :=
  let s := { s with svcHeld := none }
  if svcStalls s a then emit (stallSvc s (some a)) .i3cNack else let r := pathRead s .svc a; emit r.1 (.i3cAck r.2)

/-- A private read of the register at an offset, or a read phase alone. -/
def i3cRegisterRead (s : State) (a : Option Nat) : State :=
  let s := settleSvc s
  if !svcUp s || s.svcStall.isSome then emit s .i3cNack
  else
    match a with
    | none => i3cReadPhase s
    | some a => i3cReadNew s (a % 1048576)

def execI3cRegisterRead (offset : Option Nat) (s : State) : Host.Outcome State Fault Refusal := .next (i3cRegisterRead s offset)

/-- A CCC is answered in every state in which the standby domain has power: the reply is I3C Basic's, the Provisioned ID among them
(log 44). -/
def i3cCcc (s : State) (code : Nat) : State := if s.sup.vstby then emit s (.i3cCcc code (Config.cccReply code)) else s

def execI3cCcc (code : Nat) (s : State) : Host.Outcome State Fault Refusal := .next (i3cCcc s code)

end Sys2Proof.Machine
end

