-- ==== Sys2Proof/Machine/Dispatch.lean ====
section
/-!
DEFINITION. What each command does: one arm for every row of spec/opcode_table.json, each a direct call of its meaning.
-/
namespace Sys2Proof.Machine
open Sys2Proof

def exec (i : Instr) (s : State) : Host.Outcome State Fault Refusal :=
  match i with
  | .openContext h b => Sys2Proof.Machine.execOpenContext h b s
  | .closeContext h ctx => Sys2Proof.Machine.execCloseContext h ctx s
  | .queryContexts h => Sys2Proof.Machine.execQueryContexts h s
  | .unknownOpcode r tag flags => Sys2Proof.Machine.execUnknownOpcode r tag flags s
  | .loadTraverse h length image => Sys2Proof.Machine.execLoadTraverse h length image s
  | .unloadTraverse h handle => Sys2Proof.Machine.execUnloadTraverse h handle s
  | .runTraverse h handle start deadline => Sys2Proof.Machine.execRunTraverse h handle start deadline s
  | .armPeriodic h handle period b0 count => Sys2Proof.Machine.execArmPeriodic h handle period b0 count s
  | .disarm h handle => Sys2Proof.Machine.execDisarm h handle s
  | .cancel h handle => Sys2Proof.Machine.execCancel h handle s
  | .stakeSet h ref value => Sys2Proof.Machine.execStakeSet h ref value s
  | .stakeAdd h ref amount => Sys2Proof.Machine.execStakeAdd h ref amount s
  | .stakeRead h ref => Sys2Proof.Machine.execStakeRead h ref s
  | .stakeGrant h stake grantee rights => Sys2Proof.Machine.execStakeGrant h stake grantee rights s
  | .stakeRevoke h stake grantee => Sys2Proof.Machine.execStakeRevoke h stake grantee s
  | .mark h => Sys2Proof.Machine.execMark h s
  | .markCompletion ctx => Sys2Proof.Machine.execMarkCompletion ctx s
  | .flushReadReturn port ok => Sys2Proof.Machine.execFlushReadReturn port ok s
  | .chainBind h b => Sys2Proof.Machine.execChainBind h b s
  | .chainStart h group => Sys2Proof.Machine.execChainStart h group s
  | .chainStop h group => Sys2Proof.Machine.execChainStop h group s
  | .chainUnbind h group => Sys2Proof.Machine.execChainUnbind h group s
  | .timedClear h sync tc => Sys2Proof.Machine.execTimedClear h sync tc s
  | .timeMapRead h port => Sys2Proof.Machine.execTimeMapRead h port s
  | .frameBind h desc camera port mode => Sys2Proof.Machine.execFrameBind h desc camera port mode s
  | .frameStart h cam => Sys2Proof.Machine.execFrameStart h cam s
  | .frameStop h cam => Sys2Proof.Machine.execFrameStop h cam s
  | .frameUnbind h cam => Sys2Proof.Machine.execFrameUnbind h cam s
  | .pairBind h b => Sys2Proof.Machine.execPairBind h b s
  | .pairUnbind h pair => Sys2Proof.Machine.execPairUnbind h pair s
  | .exposureControl h cam on lag => Sys2Proof.Machine.execExposureControl h cam on lag s
  | .objectCreate h b => Sys2Proof.Machine.execObjectCreate h b s
  | .objectDestroy h id => Sys2Proof.Machine.execObjectDestroy h id s
  | .objectWrite h id offset address length data => Sys2Proof.Machine.execObjectWrite h id offset address length data s
  | .objectRead h id offset address length => Sys2Proof.Machine.execObjectRead h id offset address length s
  | .place h id tier byTime done => Sys2Proof.Machine.execPlace h id tier byTime done s
  | .evict h id => Sys2Proof.Machine.execEvict h id s
  | .objectFlush h id => Sys2Proof.Machine.execObjectFlush h id s
  | .objectGrant h id grantee rights => Sys2Proof.Machine.execObjectGrant h id grantee rights s
  | .objectRevoke h id grantee => Sys2Proof.Machine.execObjectRevoke h id grantee s
  | .objectQuery h id => Sys2Proof.Machine.execObjectQuery h id s
  | .holdingAttach h name auth create => Sys2Proof.Machine.execHoldingAttach h name auth create s
  | .holdingDetach h handle => Sys2Proof.Machine.execHoldingDetach h handle s
  | .cadastreQuiesce h plat => Sys2Proof.Machine.execCadastreQuiesce h plat s
  | .spdmExchange h capacity address request => Sys2Proof.Machine.execSpdmExchange h capacity address request s
  | .updateBegin h replace manifest proof => Sys2Proof.Machine.execUpdateBegin h replace manifest proof s
  | .updateParcel h length address parcel => Sys2Proof.Machine.execUpdateParcel h length address parcel s
  | .updateStatus h => Sys2Proof.Machine.execUpdateStatus h s
  | .updateArm h image readBack => Sys2Proof.Machine.execUpdateArm h image readBack s
  | .updateAbandon h image => Sys2Proof.Machine.execUpdateAbandon h image s
  | .updateActivate h image => Sys2Proof.Machine.execUpdateActivate h image s
  | .fieldLock h word => Sys2Proof.Machine.execFieldLock h word s
  | .fieldLockBurnDone => Sys2Proof.Machine.execFieldLockBurnDone s
  | .serviceBind h b => Sys2Proof.Machine.execServiceBind h b s
  | .serviceUnbind h service => Sys2Proof.Machine.execServiceUnbind h service s
  | .landingBind h landing obj arrive => Sys2Proof.Machine.execLandingBind h landing obj arrive s
  | .landingUnbind h landing => Sys2Proof.Machine.execLandingUnbind h landing s
  | .outletBind h obj node landing offset => Sys2Proof.Machine.execOutletBind h obj node landing offset s
  | .outletUnbind h outlet => Sys2Proof.Machine.execOutletUnbind h outlet s
  | .faultLogTake h address max => Sys2Proof.Machine.execFaultLogTake h address max s
  | .legInstantiate plat => Sys2Proof.Machine.execLegInstantiate plat s
  | .legDispatch l => Sys2Proof.Machine.execLegDispatch l s
  | .tensorArrayLeg l r => Sys2Proof.Machine.execTensorArrayLeg l r s
  | .parallaxEngineLeg l r => Sys2Proof.Machine.execParallaxEngineLeg l r s
  | .search l r => Sys2Proof.Machine.execSearch l r s
  | .searchCutoff l joined => Sys2Proof.Machine.execSearchCutoff l joined s
  | .merge l r => Sys2Proof.Machine.execMerge l r s
  | .fanOut l r => Sys2Proof.Machine.execFanOut l r s
  | .fanOutComplete l => Sys2Proof.Machine.execFanOutComplete l s
  | .reply l r => Sys2Proof.Machine.execReply l r s
  | .egoStep l r => Sys2Proof.Machine.execEgoStep l r s
  | .trackStep l r => Sys2Proof.Machine.execTrackStep l r s
  | .solveOrShift l r => Sys2Proof.Machine.execSolveOrShift l r s
  | .solve l r => Sys2Proof.Machine.execSolve l r s
  | .shift l r => Sys2Proof.Machine.execShift l r s
  | .take l r => Sys2Proof.Machine.execTake l r s
  | .nullLeg l => Sys2Proof.Machine.execNullLeg l s
  | .legWatchdogStop l => Sys2Proof.Machine.execLegWatchdogStop l s
  | .runStart ctx handle => Sys2Proof.Machine.execRunStart ctx handle s
  | .runDeadline ctx handle => Sys2Proof.Machine.execRunDeadline ctx handle s
  | .periodBegin ctx handle => Sys2Proof.Machine.execPeriodBegin ctx handle s
  | .periodBoundary ctx handle => Sys2Proof.Machine.execPeriodBoundary ctx handle s
  | .legAbortDone l => Sys2Proof.Machine.execLegAbortDone l s
  | .periodSummary ctx handle => Sys2Proof.Machine.execPeriodSummary ctx handle s
  | .doorbellSweep port => Sys2Proof.Machine.execDoorbellSweep port s
  | .sweepReadReturn r latency data => Sys2Proof.Machine.execSweepReadReturn r latency data s
  | .entryFetchReturn r entries => Sys2Proof.Machine.execEntryFetchReturn r entries s
  | .msixTimeThreshold ctx k => Sys2Proof.Machine.execMsixTimeThreshold ctx k s
  | .rttMeasure port reads => Sys2Proof.Machine.execRttMeasure port reads s
  | .rttRetry port reads => Sys2Proof.Machine.execRttRetry port reads s
  | .rttUpdate port => Sys2Proof.Machine.execRttUpdate port s
  | .powerSample mw => Sys2Proof.Machine.execPowerSample mw s
  | .governorControl => Sys2Proof.Machine.execGovernorControl s
  | .sharedEngineChunkDone e => Sys2Proof.Machine.execSharedEngineChunkDone e s
  | .ptmDialogueStart port => Sys2Proof.Machine.execPtmDialogueStart port s
  | .ptmResponse port t2 delay => Sys2Proof.Machine.execPtmResponse port t2 delay s
  | .ptmTimeout port => Sys2Proof.Machine.execPtmTimeout port s
  | .timeMap port => Sys2Proof.Machine.execTimeMap port s
  | .syncInEdge rising width => Sys2Proof.Machine.execSyncInEdge rising width s
  | .syncGroupClear ctx group => Sys2Proof.Machine.execSyncGroupClear ctx group s
  | .intakeApertureWrite port offset data => Sys2Proof.Machine.execIntakeApertureWrite port offset data s
  | .sampleBlockCommit port slot header => Sys2Proof.Machine.execSampleBlockCommit port slot header s
  | .stagingCopyDone port slot => Sys2Proof.Machine.execStagingCopyDone port slot s
  | .chainBlockProcess ctx group => Sys2Proof.Machine.execChainBlockProcess ctx group s
  | .starvationTimeout ctx group => Sys2Proof.Machine.execStarvationTimeout ctx group s
  | .frameRecordCommit port window record => Sys2Proof.Machine.execFrameRecordCommit port window record s
  | .frameCheckDone ctx cam => Sys2Proof.Machine.execFrameCheckDone ctx cam s
  | .exposureRec ctx cam => Sys2Proof.Machine.execExposureRec ctx cam s
  | .moveComplete plat => Sys2Proof.Machine.execMoveComplete plat s
  | .placeLate ctx id => Sys2Proof.Machine.execPlaceLate ctx id s
  | .cadastrePageReadDone plat lpn o => Sys2Proof.Machine.execCadastrePageReadDone plat lpn o s
  | .nandProgramDone plat group ok => Sys2Proof.Machine.execNandProgramDone plat group ok s
  | .groupCommit plat group => Sys2Proof.Machine.execGroupCommit plat group s
  | .eraseDone plat block ok => Sys2Proof.Machine.execEraseDone plat block ok s
  | .eraseResume plat block => Sys2Proof.Machine.execEraseResume plat block s
  | .checkpointTimer plat => Sys2Proof.Machine.execCheckpointTimer plat s
  | .checkpointDone plat => Sys2Proof.Machine.execCheckpointDone plat s
  | .wearRelocation plat => Sys2Proof.Machine.execWearRelocation plat s
  | .blockRefresh plat block => Sys2Proof.Machine.execBlockRefresh plat block s
  | .cadastrePatrol plat block o => Sys2Proof.Machine.execCadastrePatrol plat block o s
  | .cadastreMount plat media => Sys2Proof.Machine.execCadastreMount plat media s
  | .vmainRise => Sys2Proof.Machine.execVmainRise s
  | .powerLoss level durationNs => Sys2Proof.Machine.execPowerLoss level durationNs s
  | .resetAssert => Sys2Proof.Machine.execResetAssert s
  | .resetRelease => Sys2Proof.Machine.execResetRelease s
  | .datumTimeStart afterNs => Sys2Proof.Machine.execDatumTimeStart afterNs s
  | .monumentBoot slotA slotB => Sys2Proof.Machine.execMonumentBoot slotA slotB s
  | .platRelease plat proof => Sys2Proof.Machine.execPlatRelease plat proof s
  | .platMeasurementDone plat m => Sys2Proof.Machine.execPlatMeasurementDone plat m s
  | .platSelfCheckDone plat ok code => Sys2Proof.Machine.execPlatSelfCheckDone plat ok code s
  | .platSwitchBegin plat => Sys2Proof.Machine.execPlatSwitchBegin plat s
  | .platActivated plat => Sys2Proof.Machine.execPlatActivated plat s
  | .fuseCounterBurn => Sys2Proof.Machine.execFuseCounterBurn s
  | .imageVerifyDone readOk => Sys2Proof.Machine.execImageVerifyDone readOk s
  | .linkL0 port width fast => Sys2Proof.Machine.execLinkL0 port width fast s
  | .levelRun p short => Sys2Proof.Machine.execLevelRun p short s
  | .levelRunDone p lanes => Sys2Proof.Machine.execLevelRunDone p lanes s
  | .levelRunRetry port => Sys2Proof.Machine.execLevelRunRetry port s
  | .laneFault p lane => Sys2Proof.Machine.execLaneFault p lane s
  | .dlDown port => Sys2Proof.Machine.execDlDown port s
  | .portResumed port => Sys2Proof.Machine.execPortResumed port s
  | .linkGraceExpire port => Sys2Proof.Machine.execLinkGraceExpire port s
  | .flrVf port vf => Sys2Proof.Machine.execFlrVf port vf s
  | .flrPf port hotReset => Sys2Proof.Machine.execFlrPf port hotReset s
  | .powerStateChange port f d3 => Sys2Proof.Machine.execPowerStateChange port f d3 s
  | .hostReadFailure port k => Sys2Proof.Machine.execHostReadFailure port k s
  | .getVersion a => Sys2Proof.Machine.execGetVersion a s
  | .getCapabilities a => Sys2Proof.Machine.execGetCapabilities a s
  | .negotiateAlgorithms a o => Sys2Proof.Machine.execNegotiateAlgorithms a o s
  | .getDigests a => Sys2Proof.Machine.execGetDigests a s
  | .getCertificate a slot offset length => Sys2Proof.Machine.execGetCertificate a slot offset length s
  | .challenge a slot => Sys2Proof.Machine.execChallenge a slot s
  | .getMeasurements a index signed => Sys2Proof.Machine.execGetMeasurements a index signed s
  | .keyExchange a mutualAuth => Sys2Proof.Machine.execKeyExchange a mutualAuth s
  | .finish a session ok => Sys2Proof.Machine.execFinish a session ok s
  | .keyUpdate a session => Sys2Proof.Machine.execKeyUpdate a session s
  | .heartbeat a session => Sys2Proof.Machine.execHeartbeat a session s
  | .endSession a session => Sys2Proof.Machine.execEndSession a session s
  | .unsupportedSpdmRequest a code => Sys2Proof.Machine.execUnsupportedSpdmRequest a code s
  | .keyProg port session k selective => Sys2Proof.Machine.execKeyProg port session k selective s
  | .kSetGo port session stream => Sys2Proof.Machine.execKSetGo port session stream s
  | .kSetStop port session stream => Sys2Proof.Machine.execKSetStop port session stream s
  | .ideFailure port stream => Sys2Proof.Machine.execIdeFailure port stream s
  | .getTdispVersion port session vf => Sys2Proof.Machine.execGetTdispVersion port session vf s
  | .getTdispCapabilities port session vf => Sys2Proof.Machine.execGetTdispCapabilities port session vf s
  | .lockInterfaceRequest port session vf => Sys2Proof.Machine.execLockInterfaceRequest port session vf s
  | .getDeviceInterfaceReport port session vf => Sys2Proof.Machine.execGetDeviceInterfaceReport port session vf s
  | .getDeviceInterfaceState port session vf => Sys2Proof.Machine.execGetDeviceInterfaceState port session vf s
  | .startInterfaceRequest port session vf => Sys2Proof.Machine.execStartInterfaceRequest port session vf s
  | .stopInterfaceRequest port session vf => Sys2Proof.Machine.execStopInterfaceRequest port session vf s
  | .idleCredit t h => Sys2Proof.Machine.execIdleCredit t h s
  | .nak t h expected => Sys2Proof.Machine.execNak t h expected s
  | .hello t h node variant epoch grants => Sys2Proof.Machine.execHello t h node variant epoch grants s
  | .auth t h done => Sys2Proof.Machine.execAuth t h done s
  | .bulkWrite t h landing first last tag offset data bad => Sys2Proof.Machine.execBulkWrite t h landing first last tag offset data bad s
  | .bulkAck t h landing tag bytes => Sys2Proof.Machine.execBulkAck t h landing tag bytes s
  | .lateFault t h landing reason tag far => Sys2Proof.Machine.execLateFault t h landing reason tag far s
  | .ackTimeout ctx outlet tag => Sys2Proof.Machine.execAckTimeout ctx outlet tag s
  | .query t h service first last tag budget data => Sys2Proof.Machine.execQuery t h service first last tag budget data s
  | .replyReceived t h first last tag offset data => Sys2Proof.Machine.execReplyReceived t h first last tag offset data s
  | .topology t h origin n0 n1 rseq => Sys2Proof.Machine.execTopology t h origin n0 n1 rseq s
  | .topologyRecordTimer => Sys2Proof.Machine.execTopologyRecordTimer s
  | .tieFrameForward t h type msg payload => Sys2Proof.Machine.execTieFrameForward t h type msg payload s
  | .tieReplayTimeout t => Sys2Proof.Machine.execTieReplayTimeout t s
  | .tieLightDetect t lanes => Sys2Proof.Machine.execTieLightDetect t lanes s
  | .tieLightLoss t => Sys2Proof.Machine.execTieLightLoss t s
  | .tieRefusedRetry t => Sys2Proof.Machine.execTieRefusedRetry t s
  | .tieDownRetry t => Sys2Proof.Machine.execTieDownRetry t s
  | .i3cRegisterWrite offset value => Sys2Proof.Machine.execI3cRegisterWrite offset value s
  | .i3cRegisterRead offset => Sys2Proof.Machine.execI3cRegisterRead offset s
  | .i3cCcc code => Sys2Proof.Machine.execI3cCcc code s
  | .thermalSample plat readings => Sys2Proof.Machine.execThermalSample plat readings s
  | .thermalRatioApply plat => Sys2Proof.Machine.execThermalRatioApply plat s
  | .faultEvent e => Sys2Proof.Machine.execFaultEvent e s
  | .faultTrackerExpire plat r => Sys2Proof.Machine.execFaultTrackerExpire plat r s
  | .patrolScrub plat o => Sys2Proof.Machine.execPatrolScrub plat o s
  | .repairDone plat => Sys2Proof.Machine.execRepairDone plat s
  | .stationSubstitutionDone plat => Sys2Proof.Machine.execStationSubstitutionDone plat s
  | .stationLost plat station => Sys2Proof.Machine.execStationLost plat station s
  | .blockEnableWrite p b on => Sys2Proof.Machine.execBlockEnableWrite p b on s
  | .glbPpl p value => Sys2Proof.Machine.execGlbPpl p value s
  | .glbSetupPorts p value => Sys2Proof.Machine.execGlbSetupPorts p value s
  | .glbAlertEn p value => Sys2Proof.Machine.execGlbAlertEn p value s
  | .hptSweep p port value => Sys2Proof.Machine.execHptSweep p port value s
  | .hptGrace p port value => Sys2Proof.Machine.execHptGrace p port value s
  | .tptNode p value => Sys2Proof.Machine.execTptNode p value s
  | .tptAck p value => Sys2Proof.Machine.execTptAck p value s
  | .ctxModWrite p ctx k value => Sys2Proof.Machine.execCtxModWrite p ctx k value s
  | .lolRead p r => Sys2Proof.Machine.execLolRead p r s
  | .bitAliasWrite p offset value => Sys2Proof.Machine.execBitAliasWrite p offset value s
  | .registerWrite p offset data => Sys2Proof.Machine.execRegisterWrite p offset data s
  | .settingDurable key => Sys2Proof.Machine.execSettingDurable key s
  | .vstbyRise => Sys2Proof.Machine.execVstbyRise s
  | .vstbyLoss => Sys2Proof.Machine.execVstbyLoss s
  | .msixUnmask port f vector => Sys2Proof.Machine.execMsixUnmask port f vector s
  | .configurationWrite port f w => Sys2Proof.Machine.execConfigurationWrite port f w s
  | .doeDiscovery port f index => Sys2Proof.Machine.execDoeDiscovery port f index s
  | .stationZeroingDone plat station => Sys2Proof.Machine.execStationZeroingDone plat station s
  | .moveUnitCopied plat => Sys2Proof.Machine.execMoveUnitCopied plat s

end Sys2Proof.Machine
end

