-- ==== Sys2Proof/Machine/Step.lean ====
section
/-!
DEFINITION. One step: the command at the front of the queue, or, on an empty queue, one tick of Datum Time (log 2).
The model's own: log 2 (DESIGN CHOICE), log 11 (DEDUCED), log 43 (DESIGN CHOICE).
-/
namespace Sys2Proof.Machine
open Sys2Proof

/-- What happens while no command waits: Datum Time advances by one count if it runs (R109, log 2), the choice of a fill buffer that stood
open in the nanosecond is settled (R158), and the records whose turn has come are written to their rings (R105); an access of the service
port whose stall has run out completes (R380); an operation of the public-key engine that has ended leaves it (R397). One count stands for
every Plat's copy, which the spec keeps within 2 ns of it (R111, log 43). -/
def tick (s : State) : Host.Outcome State Fault Refusal :=
  if s.sup.running then
    if s.sup.now + 1 < 2 ^ 64 then
      .next (settlePk (settleSvc (flushRecords { settleFills s with sup := { s.sup with now := s.sup.now + 1 } })))
    else .fault .datumTimeEnd
  else .next s

/-- Take the command at the front of the queue and run it on the package with the queue's rest. -/
def step (s : State) : Host.Outcome State Fault Refusal :=
  match s.pending with
  | [] => tick s
  | c :: r => exec c { s with pending := r }

/-- The package with the command that a word spells put at the front of its queue; no word spells one, since the table
gives no row any bits. -/
def State.withFetchWord (s : State) (nbits w : Nat) : State :=
  match decodeTableWord nbits w with
  | some c => { s with pending := c :: s.pending }
  | none => s

end Sys2Proof.Machine
end

