-- ==== Sys2Proof/Safety.lean ====
section
/-!
DEFINITION. What a safe run is, in the terms claims use: no step of it faults or is refused; and when a ring's command is taken.
-/
namespace Sys2Proof.Machine
open Sys2Proof

/-- A step from `s` answers a next state. -/
def Completes (s : State) : Prop := ∃ t, step s = .next t

/-- The run of `k` steps from `s` neither faults nor is refused. -/
def SafeFor : Nat → State → Prop
  | 0, _ => True
  | k + 1, s => ∃ t, step s = .next t ∧ SafeFor k t

/-- Context `h.ctx` is open as `x` and takes its next command now, outside the Terminal state, and that command is `i` (R72, R73, R74,
R409, R415, R446). -/
abbrev CtxTakes (s : State) (i : Instr) (h : CmdHdr) (x : Ctx) : Prop :=
  ctxOf s h.ctx = some x ∧ takes s x = true ∧ terminal s = false ∧ fronts x.ring i h.tag h.flags = true

/-- Port `h.port` takes Admin commands now, outside the Terminal state, and the next one is `i` (R54, R73, R415, R446, R463). -/
abbrev AdminTakes (s : State) (i : Instr) (h : AdmHdr) : Prop :=
  adminOn (portOf s h.port) = true ∧ h.port < nHost s ∧ s.sup.tripped = false ∧ terminal s = false ∧
    fronts (portOf s h.port).ring i h.tag h.flags = true

/-- The entry of an Admin command leaves the entries fetched and not executed. -/
def dropAdmin (s : State) (p : Nat) : State := modPort s p fun x => { x with ring := { x.ring with fetched := x.ring.fetched.tail } }

end Sys2Proof.Machine
end

