-- ==== Sys2Proof/Certificates/Slice0/Obligations.lean ====
section
/-!
DEFINITION. The statements for the provers: what each command does when its conditions hold, and what holds of the whole package.
Each docstring gives the rules of spec/ that its statement rests on.
-/
open Sys2Proof Sys2Proof.Machine

/-! ### Contexts and their commands (chapter 2) -/

/-- R57, R74, Table 2.8: an accepted OPEN_CONTEXT takes the lowest-numbered free slot and the lowest-numbered free virtual
function of its port, and its completion gives both with the Crew's size; CLOSE_CONTEXT of a context of the port closes it;
QUERY_CONTEXTS answers the counts; an unknown opcode completes CONFIG_REFUSED on either ring. -/
def Obligations.AdminCommandsComplete : Prop :=
  (∀ (s : State) (h : AdmHdr) (b : OpenBody) (c : Nat) (crew : List CrewSlot), AdminTakes s (.openContext h b) h →
    lowestFree s.ctxs 0 64 = some c → openMalformed s b = false → openAllowed (dropAdmin s h.port) h.port b = true →
    (∀ p < nPlats s, b.perPlat = true → 0 < b.counts.getD p 0 → ready s p = true) → (platOf s 0).switching = false →
    formCrew (dropAdmin s h.port) b = some crew →
    stakesOn s ((crew.map (·.plat)).headD 0) + b.stakes ≤ 8192 →
    ∃ u, exec (.openContext h b) s = .next (adminRec u h.port
        (.cq (cmdRec u h.tag h.flags 0xFFFF 0 (c + 256 * freeVf s h.port + 65536 * crew.length)))) ∧
      u = (openIn (dropAdmin s h.port) h.port c b crew).st) ∧
  (∀ (s : State) (h : AdmHdr) (c : Nat) (x : Ctx), AdminTakes s (.closeContext h c) h → ctxOf s c = some x → c < 64 → x.port = h.port →
    ∃ u, exec (.closeContext h c) s = .next (adminRec u h.port (.cq (cmdRec u h.tag h.flags 0xFFFF 0 0))) ∧
      u = closeCtx (dropAdmin s h.port) c 1) ∧
  (∀ (s : State) (h : AdmHdr), AdminTakes s (.queryContexts h) h →
    exec (.queryContexts h) s = .next (adminRec (dropAdmin s h.port) h.port
      (.cq (cmdRec s h.tag h.flags 0xFFFF 0 (s.ctxs.length + 256 * (surveyors s).length + 65536 * freeTotal s))))) ∧
  (∀ (s : State) (p tag flags : Nat), AdminTakes s (.unknownOpcode (.admin p) tag flags) ⟨p, tag, flags⟩ →
    exec (.unknownOpcode (.admin p) tag flags) s = .next (adminRec (dropAdmin s p) p
      (.cq (cmdRec s tag flags 0xFFFF CONFIG_REFUSED 0)))) ∧
  (∀ (s : State) (c tag flags : Nat) (x : Ctx), CtxTakes s (.unknownOpcode (.context c) tag flags) ⟨c, tag, flags⟩ x →
    exec (.unknownOpcode (.context c) tag flags) s = .next (record (dropEntry s c) c
      (.cq (cmdRec s tag flags 0xFFFF CONFIG_REFUSED 0))))

/-- R471, R86 rule 8, R88, R74: a Stake command whose reference passes R471's checks sets, adds to or reads that Stake;
STAKE_GRANT and STAKE_REVOKE of a context Stake of the context's own give the lowest free slot of the grantee and end the grant.
-/
def Obligations.StakeCommandsComplete : Prop :=
  (∀ (s : State) (h : CmdHdr) (x : Ctx) (ref v : Nat) (i : StakeId), CtxTakes s (.stakeSet h ref v) h x →
    cmdStake (dropEntry s h.ctx) x h.ctx ref true = .ok i → v < 4294967296 →
    exec (.stakeSet h ref v) s = .next (finishCmd h true { st := rescan (stakePut (dropEntry s h.ctx) v i) })) ∧
  (∀ (s : State) (h : CmdHdr) (x : Ctx) (ref n : Nat) (i : StakeId), CtxTakes s (.stakeAdd h ref n) h x →
    cmdStake (dropEntry s h.ctx) x h.ctx ref true = .ok i →
    exec (.stakeAdd h ref n) s = .next (finishCmd h true { st := rescan (stakeAdd (dropEntry s h.ctx) i n) })) ∧
  (∀ (s : State) (h : CmdHdr) (x : Ctx) (ref : Nat) (i : StakeId), CtxTakes s (.stakeRead h ref) h x →
    cmdStake (dropEntry s h.ctx) x h.ctx ref false = .ok i →
    exec (.stakeRead h ref) s = .next (record (dropEntry s h.ctx) h.ctx
      (.cq (cmdRec s h.tag h.flags 0xFFFF 0 (stakeVal (dropEntry s h.ctx) i))))) ∧
  (∀ (s : State) (h : CmdHdr) (x y : Ctx) (stake grantee rights slot : Nat), CtxTakes s (.stakeGrant h stake grantee rights) h x →
    ctxOf s grantee = some y → stake < x.stakes.length → grantee < 64 → grantee ≠ h.ctx → rights % 4 ≠ 0 →
    grantSlot y h.ctx stake = none → lowestFree y.grants 0 256 = some slot →
    ∃ u, exec (.stakeGrant h stake grantee rights) s = .next (finishCmd h false { st := rescan u, result := slot }) ∧
      u = event (modCtx (dropEntry s h.ctx) grantee fun y =>
        { y with grants := tput y.grants slot ⟨h.ctx, stake, bit rights 0, bit rights 1⟩ }) grantee 0x0003 0
        [(0x10, 1, slot), (0x11, 1, h.ctx), (0x12, 1, rights % 4)]) ∧
  (∀ (s : State) (h : CmdHdr) (x y : Ctx) (stake grantee slot : Nat), CtxTakes s (.stakeRevoke h stake grantee) h x →
    ctxOf s grantee = some y → stake < x.stakes.length → grantee < 64 → grantee ≠ h.ctx → grantSlot y h.ctx stake = some slot →
    exec (.stakeRevoke h stake grantee) s = .next (finishCmd h true { st := rescan (event
      (modCtx (dropEntry s h.ctx) grantee fun y => { y with grants := tdel y.grants slot }) grantee 0x0004 ACCESS_DENIED
      [(0x10, 1, slot)]) }))

/-- R104: MARK takes Datum Time now as its stamp and waits; its completion is written once every earlier record is in its ring and
no port owes a flush read; a flush read that returns no longer covers anything, and one that fails is issued again at once. -/
def Obligations.MarksComplete : Prop :=
  (∀ (s : State) (h : CmdHdr) (x : Ctx), CtxTakes s (.mark h) h x →
    exec (.mark h) s = .next (markScan (modCtx (dropEntry s h.ctx) h.ctx fun x =>
      { x with marks := x.marks ++ [{ stamp := s.sup.now, tag := h.tag, irq := bit h.flags 0, leg := none }] }))) ∧
  (∀ (s : State) (c : Nat) (x : Ctx) (m : MarkWait) (rest : List MarkWait), ctxOf s c = some x → x.marks = m :: rest → m.leg = none →
    markReady s c x m = true →
    exec (.markCompletion c) s = .next (flushRecords (record (modCtx s c fun x => { x with marks := rest }) c
      (.cq { tag := m.tag, status := 0, kind := 0, stamp := m.stamp, irq := m.irq })))) ∧
  (∀ (s : State) (p : Nat), (portOf s p).flushing.isSome = true →
    exec (.flushReadReturn p true) s = .next (markScan (modPort s p fun x => { x with flushing := none })) ∧
    exec (.flushReadReturn p false) s = .next (emit s (.hostRead p (adbBase (portOf s p)) 16 none)))

/-- R80, R81, R91, Table 2.15: an image that passes the checks of Table 2.11 is resident under the lowest free handle; the other
Traverse commands act in the states that Table 2.15 gives them. -/
def Obligations.TraverseCommandsComplete : Prop :=
  (∀ (s : State) (h : CmdHdr) (x : Ctx) (length n : Nat) (b : Bytes), CtxTakes s (.loadTraverse h length (some b)) h x → linkUp s x.port = true →
    lowestFree s.travs (travKey h.ctx 0) 64 = some n → s.travs.length < 4096 → imageStatus (dropEntry s h.ctx) x length b = 0 →
    exec (.loadTraverse h length (some b)) s = .next (finishCmd h false
      { st := { dropEntry s h.ctx with travs := tput s.travs (travKey h.ctx n) (travOfImage h.ctx x n b) }, result := n,
        trav := n })) ∧
  (∀ (s : State) (h : CmdHdr) (x : Ctx) (t : Trav) (n : Nat), CtxTakes s (.unloadTraverse h n) h x → travOf s h.ctx n = some t → n < 64 → t.st = .resident →
    exec (.unloadTraverse h n) s = .next (finishCmd h true
      { st := freeInbox { dropEntry s h.ctx with travs := tdel s.travs (travKey h.ctx n) } h.ctx n, trav := n })) ∧
  (∀ (s : State) (h : CmdHdr) (x : Ctx) (t : Trav) (n start deadline : Nat), CtxTakes s (.runTraverse h n start deadline) h x → travOf s h.ctx n = some t → n < 64 →
    t.st = .resident → start ≤ s.sup.now →
    exec (.runTraverse h n start deadline) s = .next (finishCmd h false
      { st := startRun (dropEntry s h.ctx) h.ctx n h.tag h.flags s.sup.now deadline, trav := n })) ∧
  (∀ (s : State) (h : CmdHdr) (x : Ctx) (t : Trav) (n start deadline : Nat), CtxTakes s (.runTraverse h n start deadline) h x → travOf s h.ctx n = some t → n < 64 →
    t.st = .resident → s.sup.now < start →
    exec (.runTraverse h n start deadline) s = .next (modCtx (modTrav (dropEntry s h.ctx) h.ctx n fun t =>
      { t with tag := h.tag, flags := h.flags, start := start, deadline := deadline }) h.ctx fun x =>
        { x with busy := some (.run n h.tag h.flags) })) ∧
  (∀ (s : State) (h : CmdHdr) (x : Ctx) (t : Trav) (n p b0 count : Nat), CtxTakes s (.armPeriodic h n p b0 count) h x → travOf s h.ctx n = some t → n < 64 →
    t.st = .resident → s.sup.now + 10000 ≤ b0 → 100000 ≤ p → p ≤ 1000000000 →
    exec (.armPeriodic h n p b0 count) s = .next (finishCmd h false
      { st := modTrav (dropEntry s h.ctx) h.ctx n fun t =>
          { t with st := .armed, tag := h.tag, flags := h.flags, b0 := b0, period := p, count := count, next := 0,
                   bases := takeBases (dropEntry s h.ctx) t, disarm := false, skipped := 0 }, trav := n })) ∧
  (∀ (s : State) (h : CmdHdr) (x : Ctx) (t : Trav) (n : Nat), travOf s h.ctx n = some t → n < 64 → t.st = .armed →
    (CtxTakes s (.disarm h n) h x → exec (.disarm h n) s = .next (finishCmd h false
      { st := modTrav (dropEntry s h.ctx) h.ctx n fun t => { t with st := .resident }, trav := n })) ∧
    (CtxTakes s (.cancel h n) h x → exec (.cancel h n) s = .next (finishCmd h false
      { st := modTrav (dropEntry s h.ctx) h.ctx n fun t => { t with st := .resident }, trav := n }))) ∧
  (∀ (s : State) (h : CmdHdr) (x : Ctx) (t : Trav) (n : Nat), CtxTakes s (.disarm h n) h x → travOf s h.ctx n = some t → n < 64 → t.st = .periodic →
    exec (.disarm h n) s = .next (modCtx (modTrav (dropEntry s h.ctx) h.ctx n fun t => { t with disarm := true }) h.ctx fun x =>
      { x with busy := some (.disarm n h.tag h.flags) })) ∧
  (∀ (s : State) (h : CmdHdr) (x : Ctx) (t : Trav) (n : Nat), CtxTakes s (.cancel h n) h x → travOf s h.ctx n = some t → n < 64 →
    t.st = .running ∨ t.st = .periodic → t.run.isSome = true → t.ending = [] →
    exec (.cancel h n) s = .next (modCtx (boundary (dropEntry s h.ctx) h.ctx n s.sup.now true) h.ctx fun x =>
      { x with busy := some (.cancel n h.tag h.flags) }))

/-! ### Datum Time and the Chain Unit (chapter 3) -/

/-- R112, R358: where PTM runs, no dialogue is under way and an interval has passed since the last one's start, a PTM Request leaves and
t_1 is now. R113, R114: a response within 10,000 ns, with the link up, joins the 16 dialogues held and gives D0, H0 and U, and a
RATE that `rateOf` computes from those held (its rounding is the model's choice, log 10); the map is valid from the fourth in a row.
R114, R358: at 10,000 ns without one the dialogue fails, and the third failure in a row makes the map invalid. R116: TIME_MAP goes to
every open context of a port at the Time Map interval, and to the asking context alone on TIME_MAP_READ. R117, R118, R119: an active
edge of a pulse of at least 10 ns, first seen 2 ns after t_e, is recorded and counted; SYNC_CAPTURE goes to each context with a member
of an enabled sync group, once for each such group (the model's choice, log 28), and every member's clear is due at t_e + 24; an edge
less than 1,000 ns after the last accepted one is counted and changes nothing else. R148, R150: at its clear time a member that is not
past it is to restart at the first sample that reaches it; one that is past restarts at its next sample, with SYNC_LATE. R149: TIMED_CLEAR
with no member of the context past the time gives each such a clear; with one past it, it is refused. -/
def Obligations.TimeStepsComplete : Prop :=
  (
  (∀ (s : State) (p : Nat), ptmOn s p = true → (portOf s p).ptm.asked = none →
    (∀ t, (portOf s p).ptm.startAt = some t → t + s.dtm.ptmInterval.inForce ≤ s.sup.now) →
    exec (.ptmDialogueStart p) s = .next (modPort (emit s (.ptmRequest p)) p fun x =>
      { x with ptm := { x.ptm with asked := some s.sup.now, startAt := some s.sup.now } })) ∧
  (∀ (s u : State) (p t1 t2 d : Nat) (held : List (Nat × Nat × Nat × Nat)), (portOf s p).ptm.asked = some t1 →
    s.sup.now ≤ t1 + 10000 → linkUp s p = true →
    held = ((t1, s.sup.now, t2, t2 + d) :: (portOf s p).ptm.held).take 16 →
    u = modPort s p (fun x =>
      { x with ptm := { x.ptm with held := held, asked := none, okRow := (portOf s p).ptm.okRow + 1, failRow := 0,
                                   d0 := ((t1 + s.sup.now) / 2 : Nat), h0 := ((t2 + (t2 + d)) / 2 : Nat),
                                   u := ((s.sup.now : Int) - t1 - (((t2 + d : Nat) : Int) - t2)) / 2, rate := rateOf held s.free } }) →
    exec (.ptmResponse p t2 d) s = .next (setMapValid { u with free := s.free + 1 } p
      ((portOf s p).ptm.valid || decide (4 ≤ (portOf s p).ptm.okRow + 1)))) ∧
  (∀ (s u : State) (p t1 : Nat), (portOf s p).ptm.asked = some t1 → t1 + 10000 ≤ s.sup.now →
    u = modPort s p (fun x => { x with ptm := { x.ptm with asked := none, okRow := 0, failRow := (portOf s p).ptm.failRow + 1 } }) →
    exec (.ptmTimeout p) s = .next (if 3 ≤ (portOf s p).ptm.failRow + 1 then setMapValid u p false else u)) ∧
  (∀ (s : State) (p : Nat), p < nHost s → s.sup.running = true → s.dtm.mapInterval.inForce ≠ 0 →
    (portOf s p).ptm.mapAt + s.dtm.mapInterval.inForce * 1000000 ≤ s.sup.now →
    exec (.timeMap p) s = .next (timeMapAll (modPort s p fun x => { x with ptm := { x.ptm with mapAt := s.sup.now } }) p)) ∧
  (∀ (s : State) (h : CmdHdr) (x : Ctx) (p : Nat), CtxTakes s (.timeMapRead h p) h x → p < nHost s → inL0 s p = true →
    exec (.timeMapRead h p) s = .next (finishCmd h true
      { st := event (dropEntry s h.ctx) h.ctx 0x0118 0 (timeMapPayload s p) }))
  ) ∧ (
  (∀ (s u : State) (rising : Bool) (width te : Nat), s.sup.running = true → s.dtm.ctrl.enable = true →
    rising = !bit s.dtm.syncCfg.inForce 0 → 10 ≤ width → te = s.sup.now - 2 → (∀ l, s.dtm.lastEdge = some l → l + 1000 ≤ te) →
    u = (syncActions s).foldl (fun s g => eventTo s (syncCtxs s g) 0x0116 0 [(0x12, 1, g), (0x18, 8, te)])
      { s with dtm := { s.dtm with syncTe := te, lastEdge := some te, accepted := (s.dtm.accepted + 1) % 65536 } } →
    exec (.syncInEdge rising width) s = .next { u with groups := s.groups.map fun e =>
      (e.1, if (syncActions s).contains e.2.sync then { e.2 with syncDue := e.2.syncDue ++ [te + 24] } else e.2) }) ∧
  (∀ (s : State) (rising : Bool) (width l : Nat), s.sup.running = true → s.dtm.ctrl.enable = true →
    rising = !bit s.dtm.syncCfg.inForce 0 → 10 ≤ width → s.dtm.lastEdge = some l → s.sup.now - 2 < l + 1000 →
    exec (.syncInEdge rising width) s = .next
      { s with dtm := { s.dtm with rejected := satAdd 65535 s.dtm.rejected 1 } }) ∧
  (∀ (s : State) (c h tc : Nat) (t : Int) (g : Chain) (rest : List Nat), tget s.groups (groupKey c h) = some g →
    g.syncDue = tc :: rest → tc ≤ s.sup.now → t = ((tc * 4294967296 : Nat) : Int) →
    (past g t = false → exec (.syncGroupClear c h) s = .next (modGroup s (groupKey c h) fun g =>
      { g with clears := g.clears ++ [t], syncDue := rest })) ∧
    (past g t = true → exec (.syncGroupClear c h) s = .next (event (modGroup s (groupKey c h) fun g =>
      { g with late := true, syncDue := rest }) c 0x0117 0 [(0x10, 2, h), (0x12, 1, g.sync), (0x18, 8, tc)]))) ∧
  (∀ (s : State) (h : CmdHdr) (x : Ctx) (sync tc : Nat) (t : Int) (mine : List Nat), CtxTakes s (.timedClear h sync tc) h x →
    sync ≤ 15 → t = ((tc * 4294967296 : Nat) : Int) →
    mine = (s.groups.filter fun e => e.2.ctx == h.ctx && e.2.sync == sync).map (·.1) →
    ((∀ k ∈ mine, ∀ g, tget s.groups k = some g → past g t = false) → exec (.timedClear h sync tc) s = .next (finishCmd h true
      { st := mine.foldl (fun s k => modGroup s k fun g => { g with clears := g.clears ++ [t] }) (dropEntry s h.ctx) })) ∧
    (∀ k ∈ mine, ∀ g, tget s.groups k = some g → past g t = true → exec (.timedClear h sync tc) s = .next (finishCmd h true
      { st := dropEntry s h.ctx, status := CONFIG_REFUSED })))
  )

/-- R115: with dh the 64-bit two's complement value of h - h0, a partner time h converts only while the map is valid and |dh| is
at most 2^32 ns, to the 64-bit two's complement value of d0 + dh - r, where r is the integer nearest dh * rate / 2^40, halves
rounded away from zero. -/
def Obligations.PartnerTimeConversion : Prop :=
  ∀ (m : Ptm) (h : Nat) (dh : Int), -2 ^ 63 ≤ dh → dh < 2 ^ 63 → (dh - ((h : Int) - m.h0)) % 2 ^ 64 = 0 →
    ((toDatum m h).isSome = true ↔ m.valid = true ∧ dh.natAbs ≤ 2 ^ 32) ∧
    (∀ d, toDatum m h = some d → -2 ^ 63 ≤ d ∧ d < 2 ^ 63 ∧
      ∃ r : Int, (2 * (r * 2 ^ 40 - dh * m.rate)).natAbs ≤ 2 ^ 40 ∧
        ((2 * (r * 2 ^ 40 - dh * m.rate)).natAbs = 2 ^ 40 → (dh * m.rate).natAbs < r.natAbs * 2 ^ 40) ∧
        (d - (m.d0 + dh - r)) % 2 ^ 64 = 0)

/-- R120, R126 to R128, R140: CHAIN_BIND whose descriptor passes the checks makes the group, stopped, under the lowest free handle
and stream slot; CHAIN_START begins acceptance with a restart, CHAIN_STOP ends it, CHAIN_UNBIND frees the group and its slot. -/
def Obligations.ChainCommandsComplete : Prop :=
  (∀ (s : State) (h : CmdHdr) (x : Ctx) (b : ChainBindBody) (d : Bytes) (n slot : Nat), CtxTakes s (.chainBind h b) h x →
    chainBindFields (dropEntry s h.ctx) h.ctx b = true → namesOut (dropEntry s h.ctx) h.ctx b.desc = false →
    cmdRead (dropEntry s h.ctx) h.ctx b.desc 512 = some d →
    chainBindStatus (dropEntry s h.ctx) h.ctx x b d = 0 → lowestFree s.groups (groupKey h.ctx 0) 4096 = some n →
    lowestFree (portOf s b.port).slots 0 1024 = some slot →
    ∃ coeff g, g = chainOf h.ctx b d coeff n slot ∧ g.st = .stopped ∧ g.stream = b.stream ∧ g.port = b.port ∧ g.slot = slot ∧
      g.sync = b.sync ∧ g.order = fld d 0 1 ∧ g.diff = fld d 1 1 ∧ g.factor = fld d 2 2 ∧ g.shift = fld d 4 1 ∧
      g.nch = b.count ∧ g.queue = [] ∧ g.starve = (if fld d 0x20 2 = 0 then 16 else fld d 0x20 2) ∧
      g.railK = (if fld d 0x22 2 = 0 then 256 else fld d 0x22 2) ∧
      exec (.chainBind h b) s = .next (finishCmd h false
        { st := modPort { dropEntry s h.ctx with groups := tput s.groups (groupKey h.ctx n) g } b.port fun y =>
            { y with slots := tput y.slots slot {} }, result := n + 4096 * slot })) ∧
  (∀ (s : State) (h : CmdHdr) (x : Ctx) (n : Nat) (g : Chain), n < 4096 → tget s.groups (groupKey h.ctx n) = some g → g.ctx = h.ctx →
    g.handle = n →
    (CtxTakes s (.chainStart h n) h x → exec (.chainStart h n) s = .next (finishCmd h true
      { st := modGroup (dropEntry s h.ctx) (groupKey h.ctx n) fun g =>
          { restartGroup g with st := startedState g, lastSeq := none, predict := none, again := true, blocks := [], recovering := false,
                                starveAt := if g.blockNs = 0 then none
                                  else some (s.sup.now + ceilDiv (g.starve * g.blockNs) 4294967296) } })) ∧
    (CtxTakes s (.chainStop h n) h x → exec (.chainStop h n) s = .next (finishCmd h true
      { st := modGroup (dropEntry s h.ctx) (groupKey h.ctx n) fun g =>
          { restartGroup g with st := .stopped, blocks := [], starveAt := none } })) ∧
    (CtxTakes s (.chainUnbind h n) h x → exec (.chainUnbind h n) s = .next (finishCmd h true
      { st := modPort { dropEntry s h.ctx with groups := tdel s.groups (groupKey h.ctx n) } g.port fun x =>
          { x with slots := tdel x.slots g.slot } })))

/-- R121, R123, R124, R151, Table 3.2: a header write commits a block; when its copy ends the block is discarded with the first
reason that applies, discarded without an event by a stopped group, or accepted; a starvation timer that expires marks its group
lost. R125, R137, R143, R144: the block at the head of a group's buffer passes sample by sample through the group; a TAKE copies
the oldest entries, at most its capacity and those queued when it started, and removes them. -/
def Obligations.ChainStreamsComplete : Prop :=
  (
  (∀ (s : State) (p slot : Nat) (hd : Bytes) (x : Slot), linkUp s p = true → (portOf s p).ctrl.enable = true →
    bit (portOf s p).cfg.inForce 1 = true → tget (portOf s p).slots slot = some x → x.staged = none → x.split = false →
    hd.length = 64 →
    ∃ t y, exec (.sampleBlockCommit p slot hd) s = .next t ∧ tget (portOf t p).slots slot = some y ∧
      y.staged = some ((wrBytes x.bytes 0x1000 hd).filter (fun c => decide (c.1 < 0x1000)), hd) ∧
      t = modSlot s p slot fun x => slotWrite x 0x1000 hd) ∧
  (∀ (s : State) (p slot k : Nat) (x : Slot) (g : Chain) (m : Mem) (hd : Bytes), tget (portOf s p).slots slot = some x →
    x.staged = some (m, hd) → slotGroup s p slot = some (k, g) →
    ∃ u, u = modSlot s p slot (fun x =>
        x.held.foldl (fun y w => slotWrite y w.1 w.2) { x with staged := none, split := false, held := [] }) ∧
      (∀ r, r = blockReason u g (!x.split) hd m → r ≠ 0 →
        exec (.stagingCopyDone p slot) s = .next (event u g.ctx 0x0113 (if r = 3 then INTEGRITY else CONFIG_REFUSED)
          [(0x10, 2, g.handle), (0x12, 1, r), (0x14, 4, fld hd 4 4)])) ∧
      (∀ tov, blockReason u g (!x.split) hd m = 0 → blockTime u g.port hd = some tov →
        exec (.stagingCopyDone p slot) s = .next (if g.st = .stopped then u else acceptBlock u k g hd m tov))) ∧
  (∀ (s : State) (c h t : Nat) (g : Chain), tget s.groups (groupKey c h) = some g → g.starveAt = some t → t ≤ s.sup.now →
    g.st = .running ∨ g.st = .suspect →
    exec (.starvationTimeout c h) s = .next (event
      (modGroup s (groupKey c h) fun g => { restartGroup g with st := .lost, starveAt := none, blocks := [] }) c 0x0110 STREAM_LOST
      [(0x10, 2, h), (0x14, 8, tovInt g.good), (0x1C, 4, tovFrac g.good)]))
  ) ∧ (
  (∀ (s : State) (c h : Nat) (g : Chain) (b : Block) (rest : List Block), tget s.groups (groupKey c h) = some g →
    g.blocks = b :: rest →
    ∃ a, a = (enum b.frames).foldl (fun a e => sampleStep b a e.1 e.2) { g := { g with blocks := rest }, free := s.free } ∧
      exec (.chainBlockProcess c h) s = .next (applyFx
        { modGroup s (groupKey c h) (fun _ => a.g) with free := a.free } c g.queueObj a.fx.reverse)) ∧
  (∀ (s u : State) (l : LegRef) (g : Leg) (x : LegRun) (o : OpEnt) (k n : Nat) (q : Chain), u = snapsIn s l → legRuns u l = true →
    legOf u l = some g → runOf u l = some x → g.kind = 5 → g.subop / 4096 = 1 → g.subop % 4096 ≠ 0 → opAt g 0 = some o →
    isOut o = true → takeGroup u l.ctx g.desc = some (k, q) →
    32 + g.subop % 4096 * entrySize q.nch ≤ opRoom u l.ctx o → n = min (min (g.subop % 4096) x.quota) q.queue.length →
    ∃ r, exec (.take l ⟨false⟩) s = .next (snapsOut s l (finishLeg
        (modGroup u k fun q => { q with queue := q.queue.drop (takeCount g x q), lostN := 0 }) l r)) ∧ takeCount g x q = n ∧
      r = takeOut u l g x q o ∧
      r.status = (if x.lost then STREAM_LOST else
        if (decide (q.st = .suspect) || (q.queue.take n).any fun e => bit e.flags 0) then 5 else 0) ∧
      r.cond = (q.queue.take n).any (fun e => bit e.flags 3) ∧
      r.writes = [(o, 0, takeHeader n (q.queue.length - n) q.lostN (chainStNum q.st) q.good ++
        (q.queue.take n).flatMap (chainEntryBytes q.nch) ++
        List.replicate ((g.subop % 4096 - n) * entrySize q.nch) 0)])
  )

/-- R124, R139, R151: an accepted block joins the buffer with its predicted successor and its starvation deadline, restarts the
group where Table 3.2 says so, and counts in the arrival Stake. -/
def Obligations.AcceptedBlockState : Prop :=
  ∀ (s : State) (k : Nat) (g : Chain) (hd : Bytes) (m : Mem) (tov : Int), tget s.groups k = some g →
    ∃ u b, acceptBlock s k g hd m tov = signal u g.ctx none g.arrive 1 ∧ tget u.groups k = some { g with
        blocks := g.blocks ++ [b], lastSeq := some (fld hd 4 4),
        predict := some (tov + ((fld hd 0x18 2 * fld hd 0x10 8 : Nat) : Int)), interval := fld hd 0x10 8,
        blockNs := fld hd 0x18 2 * fld hd 0x10 8, again := false,
        starveAt := some (s.sup.now + ceilDiv (g.starve * (fld hd 0x18 2 * fld hd 0x10 8)) 4294967296),
        st := (if g.st = .lost then startedState g else g.st), recovering := (g.recovering || decide (g.st = .lost)) } ∧
      b.tov = tov ∧ b.interval = fld hd 0x10 8 ∧ b.frames = blockFrames hd m ∧
      (b.restart = true ↔ blockBreak g hd tov ≠ 0 ∨ g.again = true ∨ g.st = .lost)

/-! ### Frame intake and the Parallax Engine (chapter 4) -/

/-- R156, R163, R166, R168, R172: FRAME_BIND whose descriptor passes the checks binds a stopped camera under the lowest free
handle and frame window, PAIR_BIND a pair of two cameras; FRAME_START, FRAME_STOP and EXPOSURE_CONTROL change the camera;
FRAME_UNBIND and PAIR_UNBIND end a camera or pair whose view no running Leg has bound. R158 to R161, R171, R173, R356, R357, Table
4.2: a write into the Intake Aperture lands in the frame window or stream slot it addresses, a Frame Record commits its frame, and
at the end of the frame's pass it is discarded with the first reason that applies or accepted; a recommendation that is due is
issued as an event and through the mailbox. -/
def Obligations.FramesComplete : Prop :=
  (
  (∀ (s : State) (h : CmdHdr) (x : Ctx) (desc camera port mode n w : Nat) (d : Bytes), CtxTakes s (.frameBind h desc camera port mode) h x →
    frameBindFields (dropEntry s h.ctx) port mode = true → namesOut (dropEntry s h.ctx) h.ctx desc = false →
    cmdRead (dropEntry s h.ctx) h.ctx desc 256 = some d → frameBindStatus (dropEntry s h.ctx) h.ctx x port d = 0 → lowestFree s.cams (camKey h.ctx 0) 256 = some n →
    freeWindow s port = some w →
    ∃ c, c = camOf h.ctx n w camera port mode d ∧ c.running = false ∧ c.camera = camera ∧ c.port = port ∧ c.window = w ∧
      c.mode = mode ∧ c.view = fld d 0xC 4 ∧ c.buffers.length = fld d 0 1 ∧ c.frames = [] ∧
      c.lag = (if fld d 0x21 1 = 0 then 2 else fld d 0x21 1) ∧
      exec (.frameBind h desc camera port mode) s = .next (finishCmd h false
        { st := { dropEntry s h.ctx with cams := tput s.cams (camKey h.ctx n) c }, result := n + 4096 * w })) ∧
  (∀ (s : State) (h : CmdHdr) (x : Ctx) (n : Nat) (c : Cam), n < 256 → tget s.cams (camKey h.ctx n) = some c →
    (CtxTakes s (.frameStart h n) h x → exec (.frameStart h n) s = .next (finishCmd h true
      { st := modCam (dropEntry s h.ctx) (camKey h.ctx n) fun c =>
          { c with running := true, lastSeq := none, fill := .none, base := c.accepted } })) ∧
    (CtxTakes s (.frameStop h n) h x → exec (.frameStop h n) s = .next (finishCmd h true
      { st := modCam (dropEntry s h.ctx) (camKey h.ctx n) fun c => { c with running := false } })) ∧
    (∀ on lag, on ≤ 1 → lag ≤ 4 → CtxTakes s (.exposureControl h n on lag) h x →
      exec (.exposureControl h n on lag) s = .next (finishCmd h true
        { st := modCam (dropEntry s h.ctx) (camKey h.ctx n) fun c =>
            { c with loop := on == 1, lag := if lag = 0 then c.lag else lag } })) ∧
    (viewBusy (dropEntry s h.ctx) c.ctx c.view = false →
      (∀ k p, pairOf (dropEntry s h.ctx) c = some (k, p) → viewBusy (dropEntry s h.ctx) c.ctx p.view = false) →
      CtxTakes s (.frameUnbind h n) h x →
      exec (.frameUnbind h n) s = .next (finishCmd h true { st := endCam (dropEntry s h.ctx) (camKey h.ctx n) }))) ∧
  (∀ (s : State) (h : CmdHdr) (x : Ctx) (b : PairBindBody) (l r : Cam) (n : Nat), CtxTakes s (.pairBind h b) h x →
    tget s.cams (camKey h.ctx b.left) = some l → tget s.cams (camKey h.ctx b.right) = some r →
    pairBindStatus (dropEntry s h.ctx) h.ctx x b l r = 0 → lowestFree s.pairs (pairKey h.ctx 0) 128 = some n →
    ∃ u, exec (.pairBind h b) s = .next (finishCmd h false
        { st := formPairs (l.frames.length + r.frames.length) u (pairKey h.ctx n), result := n }) ∧
      u = modCam (modCam { dropEntry s h.ctx with pairs := tput s.pairs (pairKey h.ctx n) (pairOfCams h.ctx n b l r) }
        (camKey h.ctx b.left) (fun c => { c with paired := some n })) (camKey h.ctx b.right) fun c =>
        { c with paired := some n }) ∧
  (∀ (s : State) (h : CmdHdr) (x : Ctx) (n : Nat) (p : Pair), CtxTakes s (.pairUnbind h n) h x → n < 128 → tget s.pairs (pairKey h.ctx n) = some p →
    viewBusy (dropEntry s h.ctx) h.ctx p.view = false →
    exec (.pairUnbind h n) s = .next (finishCmd h true { st := endPair (dropEntry s h.ctx) (pairKey h.ctx n) }))
  ) ∧ (
  (∀ (s : State) (p off : Nat) (d : Bytes), linkUp s p = true → d ≠ [] → intakeOn s p = true →
    exec (.intakeApertureWrite p off d) s = .next (if off < 0x800000000 then windowWrite s p (off / 0x8000000) (off % 0x8000000) d
      else slotsWrite s p (off - 0x800000000) d)) ∧
  (∀ (s : State) (p w k : Nat) (r : Bytes) (c : Cam), linkUp s p = true → windowCam s p w = some (k, c) → intakeOn s p = true →
    r.length = 128 → exec (.frameRecordCommit p w r) s = .next (pageWrite s k 0 r)) ∧
  (∀ (s : State) (c h : Nat) (x : Cam) (r : Bytes) (whole : Bool) (f : Fill) (rest : List (Bytes × Bool × Fill)),
    tget s.cams (camKey c h) = some x → x.staged = (r, whole, f) :: rest →
    ∃ u, u = modCam s (camKey c h) (fun x => { x with staged := rest }) ∧
      (whole = false ∨ fld r 0 4 ≠ x.camera → exec (.frameCheckDone c h) s = .next (discardFrame u (camKey c h) x r 1)) ∧
      (whole = true → fld r 0 4 = x.camera → recordOk x r = false →
        exec (.frameCheckDone c h) s = .next (discardFrame u (camKey c h) x r 2)) ∧
      (whole = true → fld r 0 4 = x.camera → recordOk x r = true → x.running = false →
        exec (.frameCheckDone c h) s = .next (discardFrame u (camKey c h) x r 6)) ∧
      (whole = true → fld r 0 4 = x.camera → recordOk x r = true → x.running = true → (∀ i, f ≠ .buffer i) →
        exec (.frameCheckDone c h) s = .next (discardFrame u (camKey c h) x r 5)) ∧
      (∀ i m, whole = true → fld r 0 4 = x.camera → recordOk x r = true → x.running = true → f = .buffer i →
        m = framePixels u x { index := 0, seq := 0, tov := 0, buffer := i, record := [], stats := [] } →
        (crc32c (rdBytes m 0 (fld r 0x20 4)) ≠ fld r 0x30 4 →
          exec (.frameCheckDone c h) s = .next (discardFrame u (camKey c h) x r 3)) ∧
        (crc32c (rdBytes m 0 (fld r 0x20 4)) = fld r 0x30 4 → startTime s x.port r = none →
          exec (.frameCheckDone c h) s = .next (discardFrame { u with free := s.free + 2 } (camKey c h) x r 4)) ∧
        (∀ t, crc32c (rdBytes m 0 (fld r 0x20 4)) = fld r 0x30 4 → startTime s x.port r = some t →
          exec (.frameCheckDone c h) s =
            .next (acceptFrame { u with free := s.free + 2 } (camKey c h) x r i (measure x m r s.free) t)))) ∧
  (∀ (s : State) (c h : Nat) (x : Cam) (e : ExpRec), tget s.cams (camKey c h) = some x → x.due = some e →
    ∃ u, exec (.exposureRec c h) s = .next (if fld x.desc 0x28 8 = 0 then u else
        postData u x.port (match ctxOf u c with | some y => if y.port = x.port then .vf y.vf else .pf | none => .pf)
          (fld x.desc 0x28 8) (expRecBytes x.camera s.sup.now e)) ∧
      u = event (modCam s (camKey c h) fun x => { x with due := none, recs := (e :: x.recs).take 16 }) c 0x0122 0
        [(0x10, 2, h), (0x14, 32, leNat (expRecBytes x.camera s.sup.now e))])
  )

/-- R162: the frame ToV is the middle of the exposure of the middle row, exactly, in units of 2^-32 ns. -/
def Obligations.FrameTovExact : Prop :=
  ∀ (t : Int) (r : Bytes), 1 ≤ fld r 0x1A 2 →
    512 * frameTov t r = 512 * t + 2 ^ 32 * (256 * (fld r 0x10 4 : Int) + (fld r 0x14 4 : Int) * ((fld r 0x1A 2 : Int) - 1))

/-- R177 to R184: a Parallax Engine Leg whose descriptor and operands pass the start checks completes with the words of its output
window, from census costs, from a whole cost volume, or from the bands of a ring that it has taken; while rows are missing it takes
the bands that are there and runs on (R174). -/
def Obligations.ParallaxLegComplete : Prop :=
  ∀ (s u : State) (l : LegRef) (g : Leg) (d : Bytes) (a b o : OpEnt) (p : PxDesc) (lr : Bytes) (lp : Plane), u = snapsIn s l →
    legOf u l = some g → legRuns u l = true → g.kind = 1 → rdName u (whoOf u l) g.desc 0 128 = some d → p = parsePx d →
    pxCheck u l.ctx g p = 0 → opAt g 0 = some a → opAt g 1 = some b → opAt g 2 = some o →
    readPlane u (whoOf u l) a p.offL p = some (lr, lp) → fld lr 0x24 1 ≤ 1 →
    (∀ (rr : Bytes) (rp : Plane), p.vol = false → readPlane u (whoOf u l) b p.offR p = some (rr, rp) →
      fld rr 0x24 1 = fld lr 0x24 1 →
      ∃ x, exec (.parallaxEngineLeg l ⟨false⟩) s = .next (snapsOut s l (finishLeg u l
          { pxResult p o lr (some rr) x.2 x.1 with tier := pxTier u (whoOf u l) p a b o })) ∧
        x = pxWork p ((List.range p.hw).map fun y => (List.range p.ww).map fun i => censusCost p lp rp (p.x0 + i) (p.y0 + y)) lp) ∧
    (∀ rows : List Bytes, p.vol = true → p.ring.role = 0 →
      ((List.range p.hw).mapM fun y => rdOp u (whoOf u l) b (y * p.src) (p.ww * p.dd)) = some rows →
      ∃ x, exec (.parallaxEngineLeg l ⟨false⟩) s = .next (snapsOut s l (finishLeg u l
          { pxResult p o lr none x.2 x.1 with tier := pxTier u (whoOf u l) p a b o })) ∧
        x = pxWork p (rows.map fun row => (List.range p.ww).map (volumeCost p row)) lp) ∧
    (∀ v : State, p.vol = true → p.ring.role ≠ 0 → v = takeBands p.bands u l (whoOf u l) g p →
      ((takenRows v l p).length < p.hw → exec (.parallaxEngineLeg l ⟨false⟩) s = .next (snapsOut s l v)) ∧
      (p.hw ≤ (takenRows v l p).length →
        ∃ x, exec (.parallaxEngineLeg l ⟨false⟩) s = .next (snapsOut s l (finishLeg v l
            { pxResult p o lr none x.2 x.1 with tier := pxTier u (whoOf u l) p a b o })) ∧
          x = pxWork p (((takenRows v l p).take p.hw).map fun row => (List.range p.ww).map (volumeCost p row)) lp))

/-! ### The Tensor Array (chapter 5) -/

/-- R200 to R204, R209: a Tensor Array Leg whose program passes the checks of R201, and whose tensors can be read, completes with
what its Steps wrote in list order, its tally, and its condition bit, or waits for a slot of its ring; a program that fails the
checks, or a SUBOP other than 0, completes INTEGRITY and a scratch operand outside its Field Memory ACCESS_DENIED, with nothing
written. -/
def Obligations.TensorLegComplete : Prop :=
  ∀ (s u : State) (l : LegRef) (g : Leg), u = snapsIn s l → legOf u l = some g → g.kind = 0 → legRuns u l = true →
    (∀ (p : Prog) (y : ProgRun) (v : State), scratchOwn u l.ctx g 3 = true → g.subop = 0 → readProg u (whoOf u l) g = some p →
      p.ok = true → y = progRun l (whoOf u l) g p.steps { s := u } → y.bad = false →
      v = y.slots.foldl (fun s e => wrOp s l.ctx e.1 e.2.1 e.2.2) { y.s with objs := u.objs } →
      (y.wait = false → exec (.tensorArrayLeg l ⟨false⟩) s = .next (snapsOut s l (finishLeg v l
        { cond := y.tally.cond, tier := progTier u l.ctx p,
          writes := y.writes ++ y.slots ++
            if p.tally = 0 then [] else [(⟨p.tally, 0, 0⟩, 0, tallyBytes y.tally u.sup.now)] }))) ∧
      (y.wait = true → exec (.tensorArrayLeg l ⟨false⟩) s = .next (snapsOut s l v))) ∧
    (∀ r : EngineRun, scratchOwn u l.ctx g 3 = false →
      exec (.tensorArrayLeg l r) s = .next (snapsOut s l (finishLeg u l { status := ACCESS_DENIED, ran := false }))) ∧
    (∀ r : EngineRun, scratchOwn u l.ctx g 3 = true → (g.subop ≠ 0 ∨ ∃ p, readProg u (whoOf u l) g = some p ∧ p.ok = false) →
      exec (.tensorArrayLeg l r) s = .next (snapsOut s l (finishLeg u l { status := INTEGRITY, ran := false })))

/-- R195: a value is rounded to the nearest multiple of the last place, ties to the even one. -/
def Obligations.RoundsToNearestEven : Prop :=
  ∀ (m n q : Nat), q = nearest m 0 n false →
    2 * m ≤ (2 * q + 1) * 2 ^ n ∧ 2 * q * 2 ^ n ≤ 2 * m + 2 ^ n ∧
      (2 * m = (2 * q + 1) * 2 ^ n ∨ 2 * q * 2 ^ n = 2 * m + 2 ^ n → q % 2 = 0)

/-- R193: elements packed at `n` bits are read back as they were packed. -/
def Obligations.PackedElementsReadBack : Prop :=
  ∀ (n i : Nat) (l : List Nat) (x : TData), fmtBits x.t.fmt = n → x.elems = packRow n l → (∀ p ∈ l, p < 2 ^ n) → i < l.length →
    some (x.raw i 0 0 0) = l[i]?

/-! ### Fusion, Tracks and Fixes (chapter 6) -/

/-- R219 to R221, R226, R227, R231, R238: an EGO_STEP whose start checks pass computes a Fix and commits the other half when the
filter is running and moves or applies an observation; it completes INTEGRITY with FILTER_FAILED while STATE is not 1, and
ACCESS_DENIED, with nothing written, when it names a second Filter State. R244: a TRACK_STEP whose checks pass, and whose list lies
within the history and not before the table, predicts, associates, starts and frees slots, writes the Track List and commits; a list
out of order applies nothing and completes OK. -/
def Obligations.EstimationLegsComplete : Prop :=
  (
  (∀ (s v u : State) (l : LegRef) (g : Leg) (o : OpEnt) (x : Ctx) (d b : Bytes) (sel : Nat) (tk : Option (List (Int × List Int)))
    (b2 b3 : List EgoObs × Nat), v = snapsIn s l → legOf v l = some g → g.kind = 3 → g.subop = 0 → legRuns v l = true →
    opAt g 0 = some o → ctxOf v l.ctx = some x → trackNear v l.ctx g = true → (∀ i, x.ego.obj = some i → i = o.obj) →
    u = setEgo v l.ctx { x.ego with obj := some o.obj } → rdName u (whoOf v l) g.desc 0 1536 = some d → fdCheck u d = 0 →
    sel = ((rdOp u (whoOf v l) o 0 4).map leNat).getD 0 % 2 → rdOp u (whoOf v l) o (egoHalf sel) egoBytes = some b →
    (match opAt g 1 with | some t => (takeEntries u (whoOf v l) t).map some | none => some none) = some tk →
    batchOf u (whoOf v l) g 2 = some b2 → batchOf u (whoOf v l) g 3 = some b3 → 323584 ≤ opRoom u l.ctx o →
    1536 ≤ nameLength u l.ctx g.desc →
    ∃ r, r = egoStart u l.ctx d b (b2.1 ++ b3.1) ∧
      (r.f.state ≠ 1 → exec (.egoStep l ⟨false⟩) s = .next (snapsOut s l (finishLeg
        (filterFailed u l.ctx o.obj (if r.f.state = 2 then x.ego.reason else 0) (tovInt r.f.tf)) l
        { status := INTEGRITY, tier := opsTier u l.ctx g }))) ∧
      (r.f.state = 1 → ∀ a, egoAdvance d l.ctx o.obj tk (b2.1 ++ b3.1) [32, b2.2, b3.2] r = (a, 0) →
        a.moved = true ∨ 0 < a.applied →
        ∃ y, y = makeFix d l.ctx o.obj a ∧ exec (.egoStep l ⟨false⟩) s = .next (snapsOut s l (finishLeg (setEgo y.1.s l.ctx y.1.aux) l
          { status := y.2.1, warn := y.2.2, tier := opsTier u l.ctx g, writes := commitWrites o sel (filtWrites y.1.f) })))) ∧
  (∀ (s u : State) (l : LegRef) (g : Leg) (o : OpEnt) (x : Ctx) (i : Nat) (r : EngineRun), u = snapsIn s l → legOf u l = some g →
    g.kind = 3 → g.subop = 0 → legRuns u l = true → opAt g 0 = some o → ctxOf u l.ctx = some x → x.ego.obj = some i → i ≠ o.obj →
    exec (.egoStep l r) s = .next (snapsOut s l (finishLeg u l { status := ACCESS_DENIED, ran := false })))
  ) ∧ (
  ∀ (s u : State) (l : LegRef) (g : Leg) (o dl fs out : OpEnt) (k sel n : Nat) (d gen h fb ents : Bytes) (ob : Obj), u = snapsIn s l →
    legOf u l = some g → g.kind = 3 → g.subop = 1 → legRuns u l = true → trackNear u l.ctx g = true → opAt g 0 = some o →
    opAt g 1 = some dl → opAt g 2 = some fs → opAt g 3 = some out → rdName u (whoOf u l) g.desc 0 64 = some d →
    sel = ((rdOp u (whoOf u l) o 0 4).map leNat).getD 0 % 2 → rdOp u (whoOf u l) o (trackHalf sel) 8 = some gen →
    rdOp u (whoOf u l) dl 0 64 = some h →
    rdOp u (whoOf u l) fs (egoHalf (((rdOp u (whoOf u l) fs 0 4).map leNat).getD 0 % 2)) egoBytes = some fb →
    objNamed u l.ctx o.obj = some (k, ob) → n = fld h 0x10 4 → rdOp u (whoOf u l) dl 64 (48 * n) = some ents →
    trackDescOk d = true → 1 ≤ fld h 0xC 4 → fld h 0xC 4 ≤ 256 → n ≤ fld h 0xC 4 → 36864 ≤ opRoom u l.ctx o →
    323584 ≤ opRoom u l.ctx fs → 8256 ≤ opRoom u l.ctx out → isOut out = true → (parseFilt fb).state ≠ 0 →
    (∀ pose, poseAt (parseFilt fb).hist (tovAt h 0) = some pose → (liveTable u k (leNat gen)).tov ≤ tovAt h 0 →
      ∃ a v, a = trackStep d (liveTable u k (leNat gen)) (tovAt h 0) (detections ents n pose) ∧
        v = { u with tracks := tput u.tracks k { a.1 with gen := wrap32 (liveTable u k (leNat gen)).gen + 1 } } ∧
        exec (.trackStep l ⟨false⟩) s = .next (snapsOut s l (finishLeg
          (if 0 < a.2.1 then event v l.ctx 0x0138 0 [(0x10, 4, o.obj), (0x14, 4, a.2.1), (0x18, 8, tovInt (tovAt h 0))] else v) l
          { cond := decide (0 < a.2.1), tier := opsTier u l.ctx g,
            writes := [(out, 0, trackList a.1 a.2.1 a.2.2 0 (parseFilt fb).resets),
                       (o, trackHalf (1 - sel), le 8 (wrap32 (liveTable u k (leNat gen)).gen + 1)), (o, 0, le 4 (1 - sel))] }))) ∧
    (poseAt (parseFilt fb).hist (tovAt h 0) = none ∨ tovAt h 0 < (liveTable u k (leNat gen)).tov →
      exec (.trackStep l ⟨false⟩) s = .next (snapsOut s l (finishLeg u l
        { tier := opsTier u l.ctx g, writes := [(out, 0, trackList (noDets (liveTable u k (leNat gen))) 0 0 1 (parseFilt fb).resets)] })))
  )

/-- R244 step 5: an association takes no slot and no detection twice, and takes candidates only. -/
def Obligations.AssociationTakesEachOnce : Prop :=
  ∀ (n : Nat) (l : List (Val × Nat × Nat)),
    (∀ e ∈ associate n l, e ∈ l) ∧ ((associate n l).map (·.2.1)).Nodup ∧ ((associate n l).map (·.2.2)).Nodup

/-! ### The Adjustment Engine (chapter 7) -/

/-- R249, R260, R262 to R264, R268 to R271: an Adjustment Leg whose start checks pass solves in mode 1, and in mode 0 when the solve
fits before its end, and otherwise shifts. A solve of a Problem that the load pass accepts commits the other half of the Solution,
then its export; with a failed pivot it completes RANK_DEFICIENT, with a value that is not finite INTEGRITY, and commits nothing. A
shift moves the live half, or has no source and completes DROPPED_LATE. -/
def Obligations.AdjustmentLegComplete : Prop :=
  ∀ (s v : State) (l : LegRef) (g : Leg) (x : LegRun) (t : Trav) (i : AdjIn) (e : Option Nat), v = snapsIn s l → legOf v l = some g →
    g.kind = 4 → legRuns v l = true → runOf v l = some x → travOf v l.ctx l.handle = some t → adjStart v (whoOf v l) l g = .go i →
    e = t.run.bind (fun r => runEnd t r) →
    (∀ (p : AdjProb) (u : State) (c : Instr) (r : AdjRun) (cov : Mat), c = .solve l ⟨false⟩ ∧ g.subop % 16 = 1 ∨
        c = .solveOrShift l ⟨false⟩ ∧ g.subop % 16 = 0 ∧ solveFits x g e = true →
      loadPass v (whoOf v l) i = some (some p) → adjSolve p = (r, cov) →
      u = (if fld i.d 0x90 4 = 0 then v
        else freeRanges v l.ctx [(⟨fld i.d 0x90 4, 0, 0⟩, 0, opRoom v l.ctx ⟨fld i.d 0x90 4, 0, 0⟩)]) →
      (∀ k, r.rank = some k → exec c s = .next (snapsOut s l (finishLeg (adjEvent u l 0x0140 RANK_DEFICIENT (rankFields p r k)) l
        { status := RANK_DEFICIENT }))) ∧
      (r.rank = none → r.fail ≠ 0 → exec c s = .next (snapsOut s l (adjFail u l r.iter))) ∧
      (r.rank = none → r.fail = 0 → exec c s = .next (snapsOut s l (finishLeg u l
        { cond := !(f64At i.d 0x78).isZero && (f64At i.d 0x78).lt r.cost, tier := opsTier u l.ctx g,
          writes := solutionWrites i.so i.d i.sel (solvedHalf p r cov (fld i.live 0x14 4) i.tov) ++
            (if bit (fld i.d 0x23 1) 1 then (opAt g 2).toList.map fun o =>
              (o, 0, adjExport i.d i.tov (r.x.getD (newestPose i.d) (vec64 i.newest 0x20 12)) (upperTri cov) false) else []) })))) ∧
    (∀ c : Instr, c = .shift l ⟨false⟩ ∧ g.subop % 16 = 2 ∨
        c = .solveOrShift l ⟨false⟩ ∧ g.subop % 16 = 0 ∧ solveFits x g e = false →
      (fld i.live 0 4 = 1 ∨ fld i.live 0 4 = 2 → ∃ b n u, b = shiftedHalf i.d i.live i.tov ∧ n = 0x120 + 128 * newestPose i.d ∧
        u = adjEvent { v with free := v.free + 1 } l 0x0141 1 (paceFields v x g e ++ [(0x28, 8, fld b 0x18 8)]) ∧
        exec c s = .next (snapsOut s l (finishLeg u l
          { status := 1, warn := 1, tier := opsTier u l.ctx g,
            writes := solutionWrites i.so i.d i.sel b ++
              (if bit (fld i.d 0x23 1) 1 then (opAt g 2).toList.map fun o =>
                (o, 0, adjExport i.d i.tov (if n < b.length then vec64 b n 7 else vec64 i.newest 0x20 7) (vec64 b 0x50 21) true)
              else []) }))) ∧
      (fld i.live 0 4 ≠ 1 → fld i.live 0 4 ≠ 2 →
        exec c s = .next (snapsOut s l (finishLeg (adjEvent { v with free := v.free + 1 } l 0x0142 DROPPED_LATE (paceFields v x g e)) l
          { status := DROPPED_LATE, ran := false }))))

/-- R268: a solve fits exactly when there is no end, or the projected end of its CYCLES at the Pace Ratio of the dispatch is no
later. -/
def Obligations.SolveFitsBeforeEnd : Prop :=
  ∀ (x : LegRun) (g : Leg) (e : Option Nat), 0 < x.pace →
    (solveFits x g e = true ↔ ∀ b, e = some b → ∀ n, g.cycles * 64 ≤ n * x.pace → (∀ m, g.cycles * 64 ≤ m * x.pace → n ≤ m) → x.at_ + n ≤ b)

/-! ### Resection (chapter 8) -/

/-- R289 to R295, R304: a SEARCH whose start checks pass and whose queries agree with the index and lie within their object writes the
slot of its probed Tracts, each in full or from its summary, with PARTIAL when any is from its summary. A SEARCH of an Inbox that its
Traverse owns first answers and passes over the entries that had expired at its dispatch; it then searches the oldest entry that
remains, and without one writes a slot with REASON 7. R291: at the cut-off of a running SEARCH what has joined is fixed. R288: a SUBOP
above 3 completes INTEGRITY with nothing written. -/
def Obligations.SearchComplete : Prop :=
  (∀ (s u : State) (l : LegRef) (g : Leg) (x : LegRun) (d : SDesc) (ix : IDesc) (o out : OpEnt) (ib : Bytes) (r : SearchRun),
    u = snapsIn s l → legOf u l = some g → runOf u l = some x → g.kind = 2 → g.subop = 0 → legRuns u l = true →
    searchDesc u (whoOf u l) g = .inr d → descObj u l.ctx d.index false = true → rdName u (whoOf u l) d.index 0 256 = some ib →
    ix = parseIDesc u ib → searchStatus u l.ctx g d ix = 0 → r.bad = false → opAt g 0 = some o → opAt g 2 = some out →
    (∀ (ce di su : Bytes) (qs : QuerySet), d.inbox = false → querySetOk u (whoOf u l) d ix o 0 = true →
      readQuerySet u (whoOf u l) o 0 d ix.dim = some qs →
      rdName u (whoOf u l) ix.centroids 0 (4 * ix.dim * ix.tracts) = some ce →
      rdName u (whoOf u l) ix.directory 0 (16 * ix.tracts) = some di →
      (ix.smax = 0 ∧ su = [] ∨ ix.smax ≠ 0 ∧ rdName u (whoOf u l) ix.summaries 0 (ix.tracts * ix.smax * entryBytes ix.dim) = some su) →
      ∃ w v, w = searchWork u (whoOf u l) d ix ce di su r x.cut qs ∧
        v = w.2.1.foldl (fun s t => pageLostEvent s l t) { u with free := u.free + 1 } ∧
        exec (.search l r) s = .next (snapsOut s l (finishLeg v l
          { warn := if w.2.1.any (fun t => !t.full) then 2 else 0, cond := w.2.2, writes := [(out, 0, w.1)],
            tier := searchTier u l.ctx w.2.1 }))) ∧
    (∀ (n : Nat) (v : Service) (t a : State), d.inbox = true → serviceOf u l.ctx o.obj = some (n, v) →
      inboxOwner u n l.handle = some t → a = expireInbox t l (whoOf u l) n v x.at_ 64 →
      (searchTake t (whoOf u l) v x.at_ = none → exec (.search l r) s = .next (snapsOut s l (finishLeg a l
        { writes := [(out, 0, emptySlot d 7 0)] }))) ∧
      (∀ j q, searchTake t (whoOf u l) v x.at_ = some j → q = inboxAt t (whoOf u l) v.inbox v.depth j + 64 →
        querySetOk t (whoOf u l) d ix ⟨v.inbox, 0, 0⟩ q = true →
        exec (.search l r) s = .next (snapsOut s l (searchEnd a l (whoOf u l) g d ix r x.cut ⟨v.inbox, 0, 0⟩ q))))) ∧
  (∀ (s : State) (l : LegRef) (g : Leg) (x : LegRun) (joined : List Nat) (t : Nat), legOf s l = some g → runOf s l = some x →
    g.kind = 2 → g.subop = 0 → legRuns s l = true → x.tcut = some t → x.cut = none → t ≤ s.sup.now →
    exec (.searchCutoff l joined) s = .next (modRun s l fun x => { x with cut := some joined })) ∧
  (∀ (s u : State) (l : LegRef) (g : Leg) (x : LegRun) (r : SearchRun), u = snapsIn s l → legOf u l = some g → runOf u l = some x →
    g.kind = 2 → 3 < g.subop → legRuns u l = true →
    exec (.search l r) s = .next (snapsOut s l (finishLeg u l { status := INTEGRITY, ran := false })))

/-- R298, R302, R305: a MERGE, a FAN_OUT and a REPLY whose checks pass. A FAN_OUT marks its remote slots missing and sends its
queries, and completes once none is missing or its cut-off is reached; a REPLY sends its slot to the origin of the entry at HEAD.
R301: SERVICE_BIND of a free service to an Inbox and an index outside the Archive tier opens it with an empty Inbox;
SERVICE_UNBIND ends a service of the context. -/
def Obligations.MergeReplyAndServiceComplete : Prop :=
  (
  (∀ (s u : State) (l : LegRef) (g : Leg) (d : SDesc) (b : Bytes) (o out : OpEnt), u = snapsIn s l → legOf u l = some g →
    g.kind = 2 → g.subop = 1 → legRuns u l = true → searchDesc u (whoOf u l) g = .inr d → mergeStatus u l.ctx g d = 0 →
    opAt g 0 = some o → opAt g 2 = some out → rdOp u (whoOf u l) o 0 (d.slots * slotSize d) = some b →
    exec (.merge l ⟨false⟩) s = .next (snapsOut s l (finishLeg u l
      { warn := if (mergeSlots d b).2.1 then 2 else 0, writes := [(out, 0, (mergeSlots d b).1)], cond := (mergeSlots d b).2.2,
        tier := max (opTier u l.ctx o 0 (d.slots * slotSize d)) (opTier u l.ctx out 0 (slotSize d)) }))) ∧
  (∀ (s u : State) (l : LegRef) (g : Leg) (x : LegRun) (d : SDesc) (h m qs : Bytes) (o out : OpEnt), u = snapsIn s l →
    legOf u l = some g → runOf u l = some x → g.kind = 2 → g.subop = 2 → legRuns u l = true → (∀ f ∈ u.fans, f.leg ≠ l) →
    searchDesc u (whoOf u l) g = .inr d → fanStatus u l.ctx g d = 0 → opAt g 0 = some o → opAt g 2 = some out →
    rdOp u (whoOf u l) o 0 64 = some h → rdName u (whoOf u l) d.map 0 (4 * d.slots) = some m →
    1 ≤ fld h 0 4 → fld h 0 4 ≤ d.qcap → 64 + fld h 0 4 * queryBytes (fld h 4 2) ≤ opRoom u l.ctx o →
    rdOp u (whoOf u l) o 0 (64 + fld h 0 4 * queryBytes (fld h 4 2)) = some qs →
    exec (.fanOut l ⟨false⟩) s = .next (snapsOut s l (fanStart u l x d out (fanRemote d m) qs))) ∧
  (∀ (s u : State) (l : LegRef) (f : Fan) (x : LegRun) (out : OpEnt), u = snapsIn s l →
    u.fans.find? (fun f => f.leg == l) = some f → runOf u l = some x → legRuns u l = true → out = ⟨f.obj, f.off, 0⟩ →
    f.missing = [] ∨ (∃ t, x.tcut = some t ∧ t ≤ u.sup.now) →
    ∃ v bad w tier writes, v = f.missing.foldl (fun s i => wrOp s l.ctx out (i * f.slotLen + 1) [1]) u ∧
      bad = f.nodes.filterMap (fun e => match rdOp v (whoOf u l) out (e.1 * f.slotLen) 2 with
        | some b => if fld b 0 1 = 0 then some (e.1, fld b 1 1, e.2) else none
        | none => none) ∧
      w = bad.foldl (fun s e => event s l.ctx 0x0151 2
          [(0x10, 2, l.handle), (0x12, 2, l.leg), (0x14, 1, e.1), (0x15, 1, e.2.1), (0x16, 1, e.2.2)]) v ∧
      writes = f.nodes.filterMap (fun e => (rdOp v (whoOf u l) out (e.1 * f.slotLen)
        (if f.missing.contains e.1 then 2 else f.slotLen)).map fun b => (out, e.1 * f.slotLen, b)) ∧
      exec (.fanOutComplete l) s = .next (snapsOut s l (finishLeg { w with fans := v.fans.filter fun g => g.leg != l } l
        { warn := if f.part || !bad.isEmpty then 2 else 0, tier := tier, writes := writes }))) ∧
  (∀ (s u t : State) (l : LegRef) (g : Leg) (d : SDesc) (b : Bytes) (o i : OpEnt) (num : Nat) (v : Service) (hd tl : Nat),
    u = snapsIn s l → legOf u l = some g → g.kind = 2 → g.subop = 3 → legRuns u l = true → searchDesc u (whoOf u l) g = .inr d →
    opAt g 0 = some o → opAt g 1 = some i → serviceOf u l.ctx i.obj = some (num, v) → inboxOwner u num l.handle = some t →
    sdescOk d 3 = true → slotSize d ≤ opRoom t l.ctx o → rdOp t (whoOf u l) o 0 (slotSize d) = some b →
    inboxEnds t (whoOf u l) v.inbox = (hd, tl) → hd ≠ tl → ¬ (fld b 0 1 = 0 ∧ fld b 1 1 = 7) →
    ∃ env w, env = (rdName t (whoOf u l) v.inbox (inboxAt t (whoOf u l) v.inbox v.depth hd) 64).getD [] ∧
      w = sendTo t (fld env 0 1) (replyFrames t (fld env 0 1) (fld env 4 4) (overlay b 12 (le 1 (ownNode t)))) ∧
      exec (.reply l ⟨false⟩) s = .next (snapsOut s l (finishLeg (wrInbox w v 0 (le 4 (wrap32 (hd + 1)))) l
        { tier := opTier t l.ctx o 0 (slotSize d) })))
  ) ∧ (
  (∀ (s : State) (h : CmdHdr) (x : Ctx) (b : ServiceBindBody) (i j : Obj) (n : Nat), CtxTakes s (.serviceBind h b) h x →
    b.inbox < 0xFFFFFF00 → b.index < 0xFFFFFF00 → objOf (dropEntry s h.ctx) h.ctx b.inbox = some i → inArchive i = false →
    objOf (dropEntry s h.ctx) h.ctx b.index = some j → inArchive j = false →
    n = inboxEntry b.qcap (((rdObj (dropEntry s h.ctx) (objKey h.ctx b.index) 6 2).map leNat).getD 0) →
    serviceStatus (dropEntry s h.ctx) x b (64 + b.depth * n ≤ i.length) = 0 →
    exec (.serviceBind h b) s = .next (finishCmd h true
      { st := wrObj { dropEntry s h.ctx with
          services := tput s.services b.service ⟨h.ctx, b.inbox, b.depth, b.stake, b.index, b.qcap, none⟩ }
          (objKey h.ctx b.inbox) 0 (le 4 0 ++ le 4 0 ++ le 4 n) })) ∧
  (∀ (s : State) (h : CmdHdr) (x : Ctx) (n : Nat) (v : Service), CtxTakes s (.serviceUnbind h n) h x → tget s.services n = some v →
    v.ctx = h.ctx → exec (.serviceUnbind h n) s = .next (finishCmd h true { st := endService (dropEntry s h.ctx) n }))
  )

/-- R283, R284: the merged list of R298 holds each ID once, in ascending key order. -/
def Obligations.MergedHitsDistinctAndOrdered : Prop :=
  ∀ (ls : List Bytes) (k : Nat), (∀ b ∈ ls, ∀ h ∈ parseHits b, h.dist.isNan = false) →
    (mergeHits ls k).length ≤ k ∧ ((mergeHits ls k).map Hit.id).Nodup ∧
    (mergeHits ls k).Pairwise fun a b => keyLt b.dist b.id a.dist a.id = false

/-! ### Placement Objects and the Cadastre (chapter 9) -/

/-- R318, R319, R321, R322, R327: the object commands whose checks pass. CREATE enters the object; DESTROY takes it away; WRITE, once
its bytes have been read from host memory, stores them outside the Archive tier, and opens a commit group within it; READ writes every
page that is not lost to host memory; GRANT gives the lowest free slot, or changes the rights of the one held, which ends the claim and
cancels the writes that it no longer allows; REVOKE takes it back; QUERY reports; FLUSH writes back. -/
def Obligations.ObjectCommandsComplete : Prop :=
  ∀ (s u : State) (h : CmdHdr) (x : Ctx), u = dropEntry s h.ctx →
    (∀ (b : CreateBody) (base : Nat), CtxTakes s (.objectCreate h b) h x → createCheck u h.ctx x b = 0 →
      createdBase u h.ctx (createdObj u h.ctx x b) = some base → createRoom u h.ctx b (createdObj u h.ctx x b) = true →
      exec (.objectCreate h b) s = .next (finishCmd h true { st := enterObj u h.ctx b (createdObj u h.ctx x b) base })) ∧
    (∀ (id k : Nat) (o : Obj), CtxTakes s (.objectDestroy h id) h x → ownObj u h.ctx id = .ok (k, o) → reachable u o = true →
      exec (.objectDestroy h id) s = .next (finishCmd h true { st := removeObj u k 1 false })) ∧
    (∀ (id off a len k : Nat) (o : Obj) (d : Bytes) (v : State), CtxTakes s (.objectWrite h id off a len (some d)) h x →
      hostHeld s h.ctx = false → writeHeld s h.ctx id = false → copyCheck s h.ctx id off len 1 = .ok (k, o) → d.length = len →
      v = dropEntry (askHost s x.port (.vf x.vf) a len) h.ctx →
      exec (.objectWrite h id off a len (some d)) s = .next (finishCmd h false
        (if inArchive o then archiveWrite v h k o off d
         else { st := wrObj v k off d, result := tierServing v k o off len }))) ∧
    (∀ (id off a len k : Nat) (o : Obj), CtxTakes s (.objectRead h id off a len) h x → copyCheck u h.ctx id off len 0 = .ok (k, o) →
      exec (.objectRead h id off a len) s = .next (finishCmd h false
        { st := ((cut (len / pageSize + 1) pageSize off (rdBytes (objMem u k o) off len)).filter fun w =>
              !pageLost u o (w.1 / pageSize)).foldl
            (fun t w => postData t x.port (.vf x.vf) (a + (w.1 - off)) w.2) u,
          status := if rangeLost u o off len then INTEGRITY else 0, result := tierServing u k o off len })) ∧
    (∀ (id g r k : Nat) (o : Obj), CtxTakes s (.objectGrant h id g r) h x → objNamed u h.ctx id = some (k, o) → id < 0xFFFFFF00 →
      g ≤ 63 → (ctxOf u g).isSome = true → g ≠ h.ctx → r % 8 ≠ 0 → ready u o.home = true →
      (∀ slot, objSlot o g = none → freeSlot u g = some slot → exec (.objectGrant h id g r) s = .next (finishCmd h true
        { st := event (modObj u k fun o => { o with grants := o.grants ++ [⟨g, slot, r % 8⟩] }) g 0x0201 0
            [(0x10, 4, 0xFFFFFF00 + slot), (0x14, 1, slot), (0x15, 1, h.ctx), (0x16, 1, r % 8), (0x18, 8, o.length)] })) ∧
      (∀ slot e w v, objSlot o g = some slot → o.grants.find? (fun e => e.ctx == g) = some e →
        w = (if hasRight e.rights 1 && !hasRight (r % 8) 1 then cancelWrites (snapFor u k [g]) o.home k g else u) →
        v = modObj w k (fun o => { o with grants := o.grants.map fun e => if e.ctx = g then { e with rights := r % 8 } else e }) →
        exec (.objectGrant h id g r) s = .next (finishCmd h true
          { st := event (if hasRight (r % 8) 2 then v else replan (dropClaim v k g) k) g 0x0201 0
              [(0x10, 4, 0xFFFFFF00 + slot), (0x14, 1, slot), (0x15, 1, h.ctx), (0x16, 1, r % 8), (0x18, 8, o.length)] }))) ∧
    (∀ (id g k : Nat) (o : Obj), CtxTakes s (.objectRevoke h id g) h x → ownObj u h.ctx id = .ok (k, o) → g ≤ 63 →
      ready u o.home = true →
      exec (.objectRevoke h id g) s = .next (finishCmd h true { st := replan (revokeObj u k g 0) k })) ∧
    (∀ (id k : Nat) (o : Obj), CtxTakes s (.objectQuery h id) h x → cmdObj u h.ctx id 3 = .ok (k, o) → ready u o.home = true →
      exec (.objectQuery h id) s = .next (finishCmd h false
        { st := u
          result := tierNum o.present + 4 * tierNum o.rest + 16 * b2n (moveOf u k o).isSome + 32 * b2n (!o.dirty.isEmpty) +
          256 * (o.claims.length % 256) + 65536 * (o.home % 16) + 1048576 * bits o.base 27 16 })) ∧
    (∀ (id k : Nat) (o : Obj), CtxTakes s (.objectFlush h id) h x → cmdObj u h.ctx id 1 = .ok (k, o) → ready u o.home = true →
      (o.rest ≠ .archive → exec (.objectFlush h id) s = .next (finishCmd h false
        { st := modObj u k fun o => { o.dirty.foldl backUnitTo o with dirty := [] } })) ∧
      (o.rest = .archive → mounted u o.home = true → canTake (cadOf u o.home) o.dirty.length = true →
        ∃ v, v = flushGroups (o.dirty.length / 16384 + 1) u k ∧
          exec (.objectFlush h id) s = .next (finishCmd h false
            (if writingBack v o.home k then later v h.ctx (.flush k h.tag h.flags) else { st := v }))))

/-- R323 to R327, R330: PLACE records the context's claim and starts the move it asks for, EVICT removes it; a unit copied from
the Archive tier lands in the faster copy with the writes held for it; a move that has copied every unit ends at its destination;
a claim not met by BY is reported once. -/
def Obligations.ClaimsAndMovesComplete : Prop :=
  (∀ (s u : State) (h : CmdHdr) (x : Ctx) (id k : Nat) (o : Obj), u = dropEntry s h.ctx → cmdObj u h.ctx id 3 = .ok (k, o) →
    (∀ tier by_ done, CtxTakes s (.place h id tier by_ done) h x →
      placeStatus u x k o (((resolve u h.ctx id).map fun e => hasRight e.2 2).getD false) tier done = 0 →
      exec (.place h id tier by_ done) s = .next (finishCmd h true { st := claimObj u h.ctx k tier by_ done })) ∧
    (CtxTakes s (.evict h id) h x → ready u o.home = true →
      exec (.evict h id) s = .next (finishCmd h true { st := replan (dropClaim u k h.ctx) k }))) ∧
  (∀ (s : State) (p : Nat) (m : Move) (r : List Move) (o : Obj), (platOf s p).moves = m :: r → tget s.objs m.obj = some o →
    ready s p = true → m.done < m.total → o.present = .archive → m.dest ≠ .archive → mounted s p = true →
    exec (.moveUnitCopied p) s = .next
      (modObj (modPlat s p fun x => { x with moves := { m with done := m.done + 1 } :: r }) m.obj fun b =>
        locate s m.obj m.dest (m.done * pageSize) (pageBytes b m.done)
          { b with
            mem := (b.held.filter fun w => w.1 / pageSize == m.done).foldl (fun a w => wrBytes a w.1 w.2)
              ((b.mem.filter fun e => decide (e.1 < m.done * pageSize)) ++
                shiftMem (pageMem (cadOf s p) (o.lpns.getD m.done 0)) (m.done * pageSize)),
            held := b.held.filter fun w => w.1 / pageSize != m.done })) ∧
  (∀ (s v : State) (p : Nat) (m : Move) (r : List Move) (o : Obj), (platOf s p).moves = m :: r → tget s.objs m.obj = some o →
    ready s p = true → m.done < m.total → o.present ≠ .archive →
    v = modPlat s p (fun x => { x with moves := { m with done := m.done + 1 } :: r }) →
    (m.dest = .archive → o.rest = .archive → exec (.moveUnitCopied p) s = .next (formWriteBack v m.obj)) ∧
    (m.dest = o.rest → m.dest ≠ .archive → exec (.moveUnitCopied p) s = .next (modObj v m.obj fun b =>
      { ((sortBy (fun a b => decide (a < b)) b.dirty).take 1).foldl backUnitTo b with
        dirty := (sortBy (fun a b => decide (a < b)) b.dirty).drop 1 })) ∧
    (m.dest ≠ o.rest → exec (.moveUnitCopied p) s = .next
      (modObj v m.obj (locate s m.obj m.dest (m.done * 4096) (min 4096 (o.length - m.done * 4096)))))) ∧
  (∀ (s : State) (p : Nat) (m : Move) (r : List Move) (o : Obj), (platOf s p).moves = m :: r → tget s.objs m.obj = some o →
    ready s p = true → m.total ≤ m.done → (m.dest = o.rest → o.dirty = [] ∧ writingBack s p m.obj = false) →
    (m.dest = .archive → legHolds s m.obj = false) →
    ∃ v locs, v = modObj (modPlat s p fun x => { x with moves := r }) m.obj (fun o =>
        if m.dest = .archive then { o with present := .archive, mem := [], held := [], cover := [], locs := locs o }
        else { o with present := m.dest, mem := if m.dest = .main ∧ o.rest = .main then o.back else o.mem, locs := locs o }) ∧
      locs = (fun o : Obj => o.locs.filter fun e =>
        e.1 / 4294967296 == tierNum m.dest || e.1 / 4294967296 == tierNum o.rest) ∧
      exec (.moveComplete p) s = .next (replan (meetClaims v m.obj) m.obj)) ∧
  (∀ (s : State) (c id k r : Nat) (o : Obj) (q : Claim), resolve s c id = some (k, r) → tget s.objs k = some o →
    o.claims.find? (fun q => q.ctx == c) = some q → q.byTime ≠ 0 → q.byTime ≤ s.sup.now → q.met = false → q.late = false →
    ∃ v, v = modObj s k (fun o => { o with claims := o.claims.map fun q => if q.ctx = c then { q with late := true } else q }) ∧
      exec (.placeLate c id) s = .next (event v c 0x0200 0 [(0x10, 4, nameFor v c k), (0x14, 1, tierNum q.tier), (0x18, 8, q.byTime),
        (0x20, 4, unitsLeft s k o q.tier)]))

/-- R339, R340, R342, R343, R345 to R348: the Cadastre's own steps: a word line of a group is programmed or fails, and its pages take
their sequence numbers either way; the oldest group becomes durable; an erase ends and resumes; a block is relocated, and takes no more
pages; a read is counted, and a page that proves uncorrectable is lost; a checkpoint is due and made; a mount ends. While a quiesce
waits for the Plat, no word line and no group goes on. -/
def Obligations.CadastreStepsComplete : Prop :=
  (
  (∀ (s : State) (p b : Nat) (g : Group) (c : Cad), c = openBlock (cadOf s p) → mounted s p = true → quiescing s p = false →
    c.groups.find? (fun e => e.id == g.id) = some g → c.open_ = some b → g.ppns.length < g.pages.length →
    exec (.nandProgramDone p g.id true) s = .next
      (checkWear (modCad (modCad s p fun _ => c) p fun c => programLine c b g) p) ∧
    exec (.nandProgramDone p g.id false) s = .next
      (retireBlock (mediaFail (modCad (modCad s p fun _ => c) p fun c => { c with seq := c.seq + 4 }) p b) p b)) ∧
  (∀ (s : State) (p : Nat) (g : Group) (r : List Group), (cadOf s p).groups = g :: r → mounted s p = true →
    quiescing s p = false → g.ppns.length = g.pages.length →
    exec (.groupCommit p g.id) s = .next (groupDone (modCad s p fun c => durable c g) p g)) ∧
  (∀ (s : State) (p g : Nat) (ok : Bool), quiescing s p = true →
    exec (.nandProgramDone p g ok) s = .next s ∧ exec (.groupCommit p g) s = .next s) ∧
  (∀ (s : State) (p b : Nat), mounted s p = true → (blkOf (cadOf s p) b).st = .erasing →
    exec (.eraseDone p b true) s = .next (checkWear (modCad s p fun c =>
      let d := modBlk (journal c [{ type := 4, a := b, b := (blkOf c b).erases + 1 }]) b
        fun _ => { st := .free, erases := (blkOf c b).erases + 1 }
      { d with pages := d.pages.filter fun e => e.1 / blockPages != b, refresh := d.refresh.filter (· != b),
               patrolled := tdel d.patrolled b }) p) ∧
    exec (.eraseDone p b false) s = .next (checkWear (modCad (mediaFail s p b) p fun c =>
      modBlk (journal c [{ type := 5, a := b, b := 2 }]) b fun x => { x with st := .retired }) p)) ∧
  (∀ (s : State) (p b : Nat), mounted s p = true → (blkOf (cadOf s p) b).st = .suspended →
    exec (.eraseResume p b) s = .next (modCad s p fun c => modBlk c b fun x => { x with st := .erasing })) ∧
  (∀ (s : State) (p b : Nat), mounted s p = true → b ∈ (cadOf s p).refresh →
    exec (.blockRefresh p b) s = .next (relocate (modCad s p fun c =>
      { c with refresh := c.refresh.filter (· != b), open_ := if c.open_ = some b then none else c.open_ }) p b)) ∧
  (∀ (s : State) (p b : Nat), mounted s p = true → leastErased (cadOf s p) = some b →
    meanErases (cadOf s p) + 200 <
      (((cadOf s p).blocks.filter fun e => decide (e.2.st ≠ .retired)).map (·.2.erases)).foldl max 0 →
    exec (.wearRelocation p) s = .next (relocate (modCad s p fun c =>
      { c with open_ := if c.open_ = some b then none else c.open_ }) p b))
  ) ∧ (
  (∀ (s : State) (p lpn n : Nat) (o : PageRead), tget (cadOf s p).map lpn = some n → mounted s p = true →
    lpn ∉ (cadOf s p).lost →
    ∃ v, v = modCad s p (fun c => suspendErases (countRead c (n / blockPages) o)) ∧
      exec (.cadastrePageReadDone p lpn o) s = .next (if o.uncorrectable then losePage v p lpn else v)) ∧
  (∀ (s : State) (p b : Nat) (o : PageRead), mounted s p = true → mapsBlock (cadOf s p) b = true →
    (o.uncorrectable = false → exec (.cadastrePatrol p b o) s = .next (modCad s p fun c =>
      { countRead c b o with patrolled := tput (countRead c b o).patrolled b s.sup.now })) ∧
    (∀ (l : List Nat) (q : PageRead), o.uncorrectable = true → q = { o with retrySteps := max 3 o.retrySteps } →
      l = (blockLpns (cadOf s p) b).filter (fun n => !(cadOf s p).lost.contains n) → l ≠ [] →
      ∃ n v, n ∈ l ∧ v = modCad s p (fun c =>
          { countRead c b q with patrolled := tput (countRead c b q).patrolled b s.sup.now }) ∧
        exec (.cadastrePatrol p b o) s = .next (losePage { v with free := s.free + 1 } p n))) ∧
  (∀ (s : State) (p : Nat), mounted s p = true → (cadOf s p).commits = true → (cadOf s p).ckptAt + 30000000000 ≤ s.sup.now →
    exec (.checkpointTimer p) s = .next (modCad s p fun c => { c with ckptDue := true })) ∧
  (∀ (s : State) (p : Nat), mounted s p = true → (cadOf s p).ckptDue = true →
    exec (.checkpointDone p) s = .next (endQuiesce (modCad s p fun c => checkpoint c s.sup.now) p)) ∧
  (∀ (s : State) (p : Nat) (media : MountMedia) (c : Cad), p < nPlats s → ready s p = true → (cadOf s p).st = 1 →
    c = mountCad s p media →
    exec (.cadastreMount p media) s = .next (eventAll (modCad s p fun _ => c) 0x0204 0
      [(0x10, 4, 0), (0x14, 1, p), (0x15, 1, b2n c.unclean), (0x18, 4, c.discarded), (0x1C, 4, c.reerased), (0x20, 4, media.elapsedMs)])) ∧
  (∀ (s : State) (h : CmdHdr) (x : Ctx) (p : Nat) (ps : List Nat), CtxTakes s (.cadastreQuiesce h p) h x → x.surveyor = true →
    ps = (if p = 255 then List.range (nPlats s) else [p]) → p = 255 ∨ p < nPlats s → (∀ q ∈ ps, mounted s q = true) →
    exec (.cadastreQuiesce h p) s = .next (finishCmd h false
      (later (ps.foldl (fun s p => modCad s p fun c => { c with ckptDue := true }) (dropEntry s h.ctx)) h.ctx
        (.quiesce ps h.tag h.flags)))) ∧
  (∀ (s : State) (h : CmdHdr) (x : Ctx) (p : Nat), CtxTakes s (.cadastreQuiesce h p) h x → x.surveyor = false →
    exec (.cadastreQuiesce h p) s = .next (finishCmd h false { st := dropEntry s h.ctx, status := ACCESS_DENIED }))
  )

/-- R326, R331: a write to an object outside the Archive tier stores exactly its bytes: each byte of its range reads as written,
every other byte of the object reads as before, and no other object changes. -/
def Obligations.ObjectWriteStoresItsBytes : Prop :=
  ∀ (s : State) (k off : Nat) (o : Obj) (d : Bytes), tget s.objs k = some o → o.present ≠ .archive →
    ∃ o', tget (wrObj s k off d).objs k = some o' ∧
      (∀ a, off ≤ a → a < off + d.length → rdByte (objMem (wrObj s k off d) k o') a = d.getD (a - off) 0) ∧
      (∀ a, a < off ∨ off + d.length ≤ a → rdByte (objMem (wrObj s k off d) k o') a = rdByte (objMem s k o) a) ∧
      (∀ j, j ≠ k → tget (wrObj s k off d).objs j = tget s.objs j) ∧ (wrObj s k off d).cads = s.cads

/-- R339: until a commit group is durable the map does not change, but for a lost page of a block that a failed program retires; when
it is, each logical page of the group reads the page programmed for it, and every logical page that the group neither writes nor trims
is mapped as before. -/
def Obligations.GroupSwitchesAtOnce : Prop :=
  (∀ (s t : State) (p g q l : Nat) (ok : Bool), exec (.nandProgramDone p g ok) s = .next t → l ∉ (cadOf s q).lost →
    tget (cadOf t q).map l = tget (cadOf s q).map l) ∧
  (∀ (c : Cad) (g : Group), (durable c g).pages = c.pages ∧
    (∀ l : Nat, (∀ x ∈ g.pages, x.lpn ≠ l) → (∀ ls key, g.use = .trim ls key → l ∉ ls) → tget (durable c g).map l = tget c.map l) ∧
    (∀ (i n : Nat) (x : GPage), (g.pages.map GPage.lpn).Nodup → (∀ ls key, g.use ≠ .trim ls key) → g.pages[i]? = some x → g.ppns[i]? = some n →
      tget (durable c g).map x.lpn = some n))

/-! ### Ports, Fibres and Pins (chapter 10) -/

/-- R370, R372: a frame of class 1 to 3 in sequence, with a good CRC and tag, on an ACTIVE link is taken: its units are owed, the
next LSEQ is expected, and an IDLE_CREDIT answers it; with a bad CRC it is answered by a NAK of the LSEQ expected; with a failed tag
the link goes DOWN; one out of sequence is not taken, and one that was taken before is acknowledged again (DEDUCED, log 26). -/
def Obligations.TieFrameTaken : Prop :=
  ∀ (s : State) (t : Nat) (h : TieHdr) (cls len : Nat), t < nTie s → (tieOf s t).st = .active →
    (h.crcOk = true → h.lseq = (tieOf s t).rxSeq → h.tagOk = true → ∃ u, u = modTie s t (fun x =>
        { x with rxSeq := wrap32 (x.rxSeq + 1), owed := setAt x.owed cls (· + ceilDiv (32 + len + 16 + 4) 64) }) ∧
      takeFrame s t h cls len = (sendControl (gotHeader u t h) t 0x01 [] [], true)) ∧
    (h.crcOk = true → h.lseq = (tieOf s t).rxSeq → h.tagOk = false →
      ∃ u, u = modTie s t (fun x => { x with tagFails := satAdd max32 x.tagFails 1 }) ∧
      takeFrame s t h cls len = (tieLinkDown (logFault u 0x0C (tiePlat u t) 0 t 0) t none, false)) ∧
    (h.crcOk = true → h.lseq ≠ (tieOf s t).rxSeq → takeFrame s t h cls len =
      (if 2147483648 ≤ sub32 h.lseq (tieOf s t).rxSeq then sendControl s t 0x01 [] [] else s, false)) ∧
    (h.crcOk = false → takeFrame s t h cls len = (sendControl (countNak s t) t 0x02 [(0x14, 4, (tieOf s t).rxSeq)] [], false))

/-- R303, R306, R369, R370, R376, R377: the message of a frame that is taken: a bulk write's bytes land, and its LAST frame ends
the transfer; an acknowledgement or a fault settles its transfer; the LAST frame of a query delivers it, and of a reply fills its
slot; a frame for another node goes on by its route with one hop less, or is counted when its hops are spent; one of an unknown TYPE is
discarded as `unknownFrame` says. -/
def Obligations.TieMessagesComplete : Prop :=
  ∀ (s u : State) (t : Nat) (h : TieHdr),
    (∀ (l tag off : Nat) (d : Bytes) (n : Landing) (o : Obj) (x : Xfer), forUs s h = true → takeFrame s t h 1 d.length = (u, true) →
      tget u.landings l = some n → objOf u n.ctx n.obj = some o → ready u o.home = true → inArchive o = false →
      off + d.length ≤ o.length → x = { src := h.src, landing := l, tag := tag, bytes := 0, fail := 0, first := off } →
      exec (.bulkWrite t h l true true tag off d false) s = .next (endTransfer
        { wrObj u (objKey n.ctx n.obj) off d with
          xfers := (wrObj u (objKey n.ctx n.obj) off d).xfers.filter fun y => !isXfer h.src l tag y }
        { x with bytes := d.length, ranges := [(off, d.length)] }) ∧
      exec (.bulkWrite t h l true false tag off d false) s = .next
        { wrObj u (objKey n.ctx n.obj) off d with
          xfers := ((wrObj u (objKey n.ctx n.obj) off d).xfers.filter fun y => !isXfer h.src l tag y) ++
            [{ x with bytes := d.length, ranges := [(off, d.length)] }] }) ∧
    (∀ l tag bytes, forUs s h = true → takeFrame s t h 3 0 = (u, true) →
      exec (.bulkAck t h l tag bytes) s = .next (transferDone u h.src l tag 0)) ∧
    (∀ l reason tag far, forUs s h = true → takeFrame s t h 3 0 = (u, true) →
      exec (.lateFault t h l reason tag far) s = .next (transferDone u h.src l tag reason)) ∧
    (∀ (v tag budget : Nat) (d : Bytes), forUs s h = true → takeFrame s t h 2 d.length = (u, true) →
      exec (.query t h v true true tag budget d) s = .next (queryArrives
        (modTie u t fun x => { x with parts := tdel x.parts (h.src * 4294967296 + tag) }) h.src v tag budget d)) ∧
    (∀ (tag off : Nat) (d : Bytes) (f : Fan), forUs s h = true → takeFrame s t h 3 d.length = (u, true) →
      u.fans.find? (fun f => f.id == tag / 256 && fanWaits u f && f.missing.contains (tag % 256) &&
        f.nodes.contains (tag % 256, h.src)) = some f →
      ∃ v, v = snapsOut u f.leg (wrOp (snapsIn u f.leg) f.leg.ctx ⟨f.obj, f.off, 0⟩ (tag % 256 * f.slotLen) (d.take f.slotLen)) ∧
        exec (.replyReceived t h true true tag off d) s = .next
          { v with fans := v.fans.map fun x =>
              if x.id = tag / 256 then { x with missing := x.missing.filter (· != tag % 256), parts := tdel x.parts (tag % 256),
                                                part := x.part || slotPartial f.listLen d }
              else x }) ∧
    (∀ (type len : Nat) (msg d : Bytes), typeClass type = none → typeKnown type = false → d.length = len →
      exec (.tieFrameForward t h type msg d) s = .next (unknownFrame s t h len)) ∧
    (∀ (type cls : Nat) (msg d : Bytes), forUs s h = false → h.dst ≠ 0xFF → typeClass type = some cls →
      takeFrame s t h cls d.length = (u, true) →
      exec (.tieFrameForward t h type msg d) s = .next (if h.hops = 0 then badFrame u else sendTo u h.dst
        [{ type := type, cls := cls, dst := h.dst, src := h.src, hops := h.hops - 1, msg := [(0x14, 12, leNat msg)], payload := d }]))

/-- R371 to R373, R394, R426: the control frames of a Tie link. IDLE_CREDIT returns units, NAK resends from the LSEQ it names,
HELLO goes to AUTH or REFUSED, AUTH that agrees goes to ACTIVE under new keys and one that does not to REFUSED, a newer topology record
of another node is kept and sent on. R372, R373, R377, R426: the timed steps of the Tie Ports. -/
def Obligations.TieLinkStepsComplete : Prop :=
  (
  (∀ (s : State) (t : Nat) (h : TieHdr), t < nTie s → h.crcOk = true → (tieOf s t).st = .active →
    exec (.idleCredit t h) s = .next (gotControl s t h 0) ∧
    (∀ n, exec (.nak t h n) s = .next (resend (countNak (gotControl s t { h with lack := n } 0) t) t)) ∧
    (∀ u origin n0 n1 r, u = gotControl s t h 16 → origin ≠ ownNode u →
      (∀ x, tget u.tpt.records origin = some x → x.rseq ≠ r ∧ sub32 r x.rseq < 2147483648) →
      exec (.topology t h origin n0 n1 r) s = .next (reroute (sendRecord
        { u with tpt := { u.tpt with records := tput u.tpt.records origin ⟨n0, n1, r⟩ } } origin ⟨n0, n1, r⟩ (some t))))) ∧
  (∀ (s u : State) (t node variant epoch : Nat) (h : TieHdr) (g : List Nat), t < nTie s → h.crcOk = true → (tieOf s t).st = .hello →
    u = modTie (modTie s t fun x => { x with variant := variant }) t (fun x =>
      { x with peerNode := node, peerEpoch := epoch, credits := g.take 4 }) →
    exec (.hello t h node variant epoch g) s = .next (
      if node = ownNode s then tieRefuse u t 1 node epoch
      else if tieEpoch s + 1 < epoch ∨ epoch + 1 < tieEpoch s then tieRefuse u t 2 node epoch
      else beginAuth (modTie u t fun x => { x with st := .auth }) t)) ∧
  (∀ (s : State) (t : Nat) (h : TieHdr) (a : PeerAuth), t < nTie s → h.crcOk = true → (tieOf s t).st = .auth →
    (platOf s 0).switching = false → s.mon.running = true →
    (a.root = true → a.session = true → (s.fuses.fieldLock = true → a.locked = true) →
      exec (.auth t h (some a)) s = .next (ownRecord (newLinkKeys (modTie s t fun x =>
        { x with st := .active, session := true, txSeq := 0, rxSeq := 0, replay := [], lackAt := s.sup.now, owed := [0, 0, 0, 0] })
        t true true))) ∧
    (a.root = false ∨ a.session = false ∨ s.fuses.fieldLock = true ∧ a.locked = false →
      ∃ u, u = { s with mon := { s.mon with sessions := s.mon.sessions.filter fun x => x.resp != .tieAuth t } } ∧
        exec (.auth t h (some a)) s = .next
          (logFault (tieRefuse u t 3 (tieOf s t).peerNode (tieOf s t).peerEpoch) 0x0C (tiePlat s t) 0 t 0)))
  ) ∧ (
  (∀ (s : State) (c o tag : Nat) (x : Outlet) (w : Sent), tget s.outlets (outletKey c o) = some x →
    (∀ y ∈ s.loose, y.outlet ≠ outletKey c o ∨ y.sent.tag ≠ tag) → x.unacked.find? (fun w => w.tag == tag) = some w →
    w.limit ≤ s.sup.now → exec (.ackTimeout c o tag) s = .next
      (releaseOutlet (writeFailed (dropSent s (outletKey c o) tag) w 5 x.node) (outletKey c o))) ∧
  (∀ (s : State) (c o tag : Nat) (y : Loose), s.loose.find? (fun y => y.outlet == outletKey c o && y.sent.tag == tag) = some y →
    y.sent.limit ≤ s.sup.now →
    exec (.ackTimeout c o tag) s = .next (writeFailed { s with loose := s.loose.erase y } y.sent 5 y.node)) ∧
  (∀ s : State, s.sup.running = true → s.tpt.lastRec + 100000000 ≤ s.sup.now → exec .topologyRecordTimer s = .next (ownRecord s)) ∧
  (∀ (s : State) (t : Nat), (tieOf s t).st = .active → (tieOf s t).replay ≠ [] → (tieOf s t).lackAt + 20000 ≤ s.sup.now →
    exec (.tieReplayTimeout t) s = .next (resend s t)) ∧
  (∀ (s : State) (t n : Nat), tieAllowed s t = true → (tieOf s t).st = .down → (tieOf s t).retryAt = none → 2 ≤ n →
    exec (.tieLightDetect t n) s = .next (modTie s t fun x => { x with st := .levelRun })) ∧
  (∀ (s : State) (t : Nat), t < nTie s → (tieOf s t).st ≠ .down → exec (.tieLightLoss t) s = .next (tieLinkDown s t none)) ∧
  (∀ (s : State) (t n : Nat), (tieOf s t).st = .refused → (tieOf s t).retryAt = some n → n ≤ s.sup.now →
    exec (.tieRefusedRetry t) s = .next (enterHello s t)) ∧
  (∀ (s : State) (t n : Nat), tieAllowed s t = true → (tieOf s t).st = .down → (tieOf s t).retryAt = some n → n ≤ s.sup.now →
    exec (.tieDownRetry t) s = .next (modTie s t fun x => { x with st := .levelRun, retryAt := none }))
  )

/-- R374: LANDING_BIND of a free slot makes the landing and LANDING_UNBIND frees it; OUTLET_BIND takes the lowest free slot and
OUTLET_UNBIND ends the outlet. -/
def Obligations.LandingAndOutletCommandsComplete : Prop :=
  ∀ (s u : State) (h : CmdHdr) (x : Ctx), u = dropEntry s h.ctx →
    (∀ (n obj arrive : Nat) (o : Obj), CtxTakes s (.landingBind h n obj arrive) h x → n < 256 → tget u.landings n = none →
      ownAbove u h.ctx obj = some o → refField x arrive = 0 → refRight x arrive true = 0 →
      exec (.landingBind h n obj arrive) s = .next (finishCmd h true
        { st := { u with landings := tput u.landings n ⟨h.ctx, obj, arrive⟩ } })) ∧
    (∀ (n : Nat) (l : Landing), CtxTakes s (.landingUnbind h n) h x → tget u.landings n = some l → l.ctx = h.ctx →
      exec (.landingUnbind h n) s = .next (finishCmd h true { st := { u with landings := tdel u.landings n } })) ∧
    (∀ (obj node landing off n : Nat) (o : Obj), CtxTakes s (.outletBind h obj node landing off) h x → ownAbove u h.ctx obj = some o →
      node ≤ 63 → landing ≤ 255 → off < 2 ^ 48 → lowestFree u.outlets (outletKey h.ctx 0) 64 = some n →
      exec (.outletBind h obj node landing off) s = .next (finishCmd h false
        { st := { u with outlets := tput u.outlets (outletKey h.ctx n)
                           { ctx := h.ctx, obj := obj, node := node, landing := landing, offset := off } },
          result := n })) ∧
    (∀ n : Nat, CtxTakes s (.outletUnbind h n) h x → n < 64 → (tget u.outlets (outletKey h.ctx n)).isSome = true →
      exec (.outletUnbind h n) s = .next (finishCmd h true { st := endOutlet u (outletKey h.ctx n) }))

/-- R352, R360, R361, R366 to R368: Level Runs, links, resets and power states of a Host Port. R353, R360 to R362: MSI-X masks,
configuration reads and writes and failed reads of a Host Port; an ASPM enable, and a write where no capability lies, change nothing. R366
to R368, R433: Level Runs and lane faults of a Tie Port; SPARES_LOW when a Level Run finds its spare lane gone. -/
def Obligations.PortStepsComplete : Prop :=
  (
  ∀ (s : State) (p : Nat), p < nHost s →
    (hostAllowed s p = true → (portOf s p).link = 0 → exec (.levelRun (.host p) false) s = .next (startLevel s p)) ∧
    ((portOf s p).link = 4 → exec (.levelRun (.host p) true) s = .next (emit s (.levelRun (.host p) true))) ∧
    (∀ rx good u, (portOf s p).link = 1 ∨ (portOf s p).link = 4 → good = goodLanes (.host p) ((portOf s p).link == 4) rx →
      u = emit s (.laneWords (.host p)
        ((physLanes (.host p)).map fun i => laneWord (portKind (.host p)) i (rxGood (.host p) ((portOf s p).link == 4) rx))) →
      exec (.levelRunDone (.host p) rx) s = .next (if good.length < 2 then hostDown u p
        else modPort (hostLanes u p good) p fun x => { x with link := if x.link = 1 then 2 else 3 })) ∧
    (hostAllowed s p = true → (portOf s p).link = 2 → (portOf s p).levelAt + 100000000 ≤ s.sup.now →
      exec (.levelRunRetry p) s = .next
        (startLevel (modPort s p fun x => { x with incompat := true, width := 0, good := [] }) p)) ∧
    (∀ w fast, hostAllowed s p = true → (portOf s p).link = 2 → w = (portOf s p).width →
      ∃ u, u = modPort s p (fun x => { x with link := 3, width := w, fast := fast, incompat := false,
                                              down := x.down.map fun d => { d with up := some s.sup.now } }) ∧
        exec (.linkL0 p w fast) s = .next (markScan (sendAllPending u p))) ∧
    (∀ lane, (portOf s p).link = 3 → lane ∈ (portOf s p).good →
      exec (.laneFault (.host p) lane) s = .next (modPort s p fun x => { x with link := 4, good := x.good.filter (· != lane) })) ∧
    ((portOf s p).link ≠ 0 → exec (.dlDown p) s = .next (markScan (hostDown s p))) ∧
    (∀ d u, (portOf s p).down = some d → d.up = some u → linkUp s p = true →
      ∃ v, v = modPort s p (fun x => { x with down := none, downDrops := 0, firstDrop := 0, lastDrop := 0 }) ∧
        exec (.portResumed p) s = .next (eventTo v (ctxsOn v p) 0x0420 0 [(0x10, 1, p), (0x14, 4, (portOf s p).downDrops),
          (0x18, 8, (portOf s p).firstDrop), (0x20, 8, (portOf s p).lastDrop), (0x28, 8, d.at_), (0x30, 8, u)])) ∧
    (∀ d, (portOf s p).down = some d → d.up = none → d.at_ + d.graceMs * 1000000 ≤ s.sup.now →
      exec (.linkGraceExpire p) s = .next (markScan (modPort (resetPf s p 3) p fun x =>
        { x with down := none, downDrops := 0, firstDrop := 0, lastDrop := 0, ide := [] }))) ∧
    (∀ v c x, v < 64 → linkUp s p = true → vfCtx s p v = some (c, x) →
      exec (.flrVf p v) s = .next (modPort (closeCtx s c 2) p fun x => { x with fns := tdel x.fns (fnKey (.vf v)) })) ∧
    (linkUp s p = true → exec (.flrPf p false) s = .next (markScan (resetPf s p 2)) ∧
      exec (.flrPf p true) s = .next (markScan (modPort (resetPf s p 2) p fun x => { x with ide := [] }))) ∧
    (∀ v, v < 64 → linkUp s p = true → vfCtx s p v = none →
      exec (.flrVf p v) s = .next (modPort s p fun x => { x with fns := tdel x.fns (fnKey (.vf v)) })) ∧
    (∀ f, linkUp s p = true → fnExists f = true →
      exec (.powerStateChange p f true) s = .next (markScan (modFn s p f fun x => { x with d3 := true })) ∧
      exec (.powerStateChange p f false) s = .next (markScan (sendAllPending (modFn s p f fun x => { x with d3 := false }) p)))
  ) ∧ (
  ∀ (s : State) (p : Nat) (f : Fn), p < nHost s → linkUp s p = true → fnExists f = true →
    (∀ v, v < vectors f → ∃ u, u = modFn s p f (fun x =>
        { x with unmasked := if x.unmasked.contains v then x.unmasked else x.unmasked ++ [v] }) ∧
      exec (.msixUnmask p f v) s = .next (sendPending u p f) ∧
      exec (.configurationWrite p f (.maskVector v false)) s = .next (sendPending u p f) ∧
      exec (.configurationWrite p f (.maskVector v true)) s = .next
        (modFn s p f fun x => { x with unmasked := x.unmasked.filter (· != v) })) ∧
    (∀ i, exec (.configurationWrite p f (.read i)) s = .next (emit s (.config p f i (configValue s p f i)))) ∧
    (∀ n, n = 128 ∨ n = 256 ∨ n = 512 →
      exec (.configurationWrite p f (.maxPayload n)) s = .next (modFn s p f fun x => { x with maxPayload := n })) ∧
    (∀ n, n = 128 ∨ n = 256 ∨ n = 512 ∨ n = 1024 ∨ n = 2048 ∨ n = 4096 →
      exec (.configurationWrite p f (.maxReadRequest n)) s = .next (modFn s p f fun x => { x with maxRead := n })) ∧
    (∀ n on, n ≤ 64 → f = .pf →
      exec (.configurationWrite p f (.vfs n on)) s = .next (modFn s p f fun x => { x with numVfs := n, vfEnable := on })) ∧
    (∀ on, exec (.configurationWrite p f (.tenBitTags on)) s = .next (modFn s p f fun x => { x with tenBit := on })) ∧
    (∀ on, exec (.configurationWrite p f (.aspm on)) s = .next s) ∧
    (∀ o v, exec (.configurationWrite p f (.other o v)) s = .next s) ∧
    (∀ r, swept s r = true → ringPort s r = p →
      exec (.hostReadFailure p (.sweep r)) s = .next (sweepFail (modRing s r fun g => { g with swps := g.swps - 1 }) p) ∧
      exec (.hostReadFailure p (.fetch r)) s = .next (sweepFail (modRing s r fun g => { g with asked := 0 }) p)) ∧
    exec (.hostReadFailure p .rtt) s = .next (sweepFail s p) ∧ exec (.hostReadFailure p .data) s = .next s
  ) ∧ (
  ∀ (s : State) (t : Nat), t < nTie s →
    ((tieOf s t).st = .levelRun → exec (.levelRun (.tie t) false) s = .next (emit s (.levelRun (.tie t) false))) ∧
    ((tieOf s t).st = .recovery → exec (.levelRun (.tie t) true) s = .next (emit s (.levelRun (.tie t) true))) ∧
    (∀ rx short good u v, (tieOf s t).st = .levelRun ∨ (tieOf s t).st = .recovery → short = decide ((tieOf s t).st = .recovery) →
      good = goodLanes (.tie t) short rx →
      u = emit s (.laneWords (.tie t)
        ((physLanes (.tie t)).map fun i => laneWord (portKind (.tie t)) i (rxGood (.tie t) short rx))) →
      v = tieLevelDone (modTie u t fun x => { x with spareLane := decide (good.length = 3) }) t good →
      exec (.levelRunDone (.tie t) rx) s = .next (if (tieOf s t).spareLane = true ∧ good.length ≠ 3
        then tellLane v (.tie t) else v)) ∧
    (∀ lane, (tieOf s t).st = .active → lane ∈ (tieOf s t).good → exec (.laneFault (.tie t) lane) s = .next
      (modTie s t fun x => { x with st := .recovery, good := x.good.filter (· != lane) }))
  )

/-! ### The Monument (chapter 11) -/

/-- R334, R390: HOLDING_ATTACH with the right authorisation, the AUTH_VALUE whose HMAC the Holding keeps, attaches a Holding that no
context holds, or makes a new one with keys of its own; a wrong value is refused and counted, and after 16 in a row every attach is
refused; HOLDING_DETACH ends the bindings and the attachment. R399 to R406: the update commands whose checks pass, and UPDATE_BEGIN with a
wrong signature; the end of the full-image pass, which the SHA-384 of the plaintext decides, and whether the Parcels read back. -/
def Obligations.HoldingAndUpdateCommandsComplete : Prop :=
  (
  ∀ (s u : State) (h : CmdHdr) (x : Ctx), u = dropEntry s h.ctx → (platOf s 0).switching = false → mounted s 0 = true →
    (∀ (name auth k : Nat) (d : Holding), CtxTakes s (.holdingAttach h name auth false) h x →
      u.mon.holdings.find? (fun e => e.2.name == name) = some (k, d) →
      (∀ v e, d.fails < 16 → authValue u h.ctx auth name = some v → d.mac = authMac u v → d.ctx = none →
        e = { d with fails := 0, ctx := some h.ctx, keys := unwrapKey u.mon.keys.storage d.wrapped } →
        exec (.holdingAttach h name auth false) s = .next (finishCmd h false
          { st := sendKeys { u with mon := { u.mon with holdings := tput u.mon.holdings k e } }, result := k })) ∧
      (∀ e, d.fails < 16 → (∀ v, authValue u h.ctx auth name = some v → authMac u v ≠ d.mac) →
        e = { d with fails := d.fails + 1 } → exec (.holdingAttach h name auth false) s = .next (finishCmd h false
          { st := { u with mon := { u.mon with holdings := tput u.mon.holdings k e } }, status := ACCESS_DENIED })) ∧
      (16 ≤ d.fails → exec (.holdingAttach h name auth false) s = .next (finishCmd h false { st := u, status := ACCESS_DENIED }))) ∧
    (∀ (name auth k : Nat) (v : Bytes) (d : Bytes × State), CtxTakes s (.holdingAttach h name auth true) h x →
      authValue u h.ctx auth name = some v → (∀ e ∈ u.mon.holdings, e.2.name ≠ name) →
      lowestFree u.mon.holdings 0 256 = some k → d = drawKey u 128 →
      exec (.holdingAttach h name auth true) s = .next (finishCmd h false
        { st := sendKeys { d.2 with mon := { d.2.mon with
                  keyCount := d.2.mon.keyCount + 1
                  holdings := tput d.2.mon.holdings k
                    { name := name, mac := authMac d.2 v, wrapped := wrapKey d.2.mon.keys.storage d.1, fails := 0, ctx := some h.ctx,
                      keys := unwrapKey d.2.mon.keys.storage (wrapKey d.2.mon.keys.storage d.1) } } },
          result := k })) ∧
    (∀ k, CtxTakes s (.holdingDetach h k) h x → holds u h.ctx k = true →
      exec (.holdingDetach h k) s = .next (finishCmd h true
        { st := detachHolding (((u.objs.filter fun e => e.2.ctx == h.ctx && e.2.key == some k).map (·.1)).foldl
                  (fun s o => removeObj s o 1 true) u) k }))
  ) ∧ (
  (∀ (s u : State) (h : CmdHdr) (x : Ctx), u = dropEntry s h.ctx → updateCheck u x = 0 →
    (∀ (replace signed : Bool) (b secret : Bytes) (i : Image) (v : State), CtxTakes s (.updateBegin h replace (some b) ⟨signed, secret⟩) h x →
      hostHeld s h.ctx = false → i = manifestImage b secret → u.mon.upd ≠ .armed → u.mon.upd ≠ .activating → fld b 0 4 = 0x54534E4D →
      1 ≤ i.parcels → i.parcels ≤ 768 → 1 ≤ i.lastLen → i.lastLen ≤ 65536 → i.svn ≤ 64 → (∀ e ∈ i.formats, e.1 ≤ 4) →
      Config.manifestKnown u.mon.image.id (fld b 4 2) = true →
      v = askPk (askHash u h.ctx (b.take 2048)) [.verify, .verifyPq, .agree, .decapsulate] →
      (signed = true → (b.drop 0x90).take 48 = sha384 u.mon.keys.deviceId → (imageKey b secret).isSome = true →
        u.fuses.counter ≤ i.svn → bit i.target (targetBit u.part.variant) = true →
        (∀ y, u.mon.staged = some y → if y.id = i.id then u.mon.upd ≠ .complete else replace = true) →
        exec (.updateBegin h replace (some b) ⟨signed, secret⟩) s = .next (finishCmd h true
          (stage v h (.manifest i (decide ((u.mon.staged.map (·.id)) = some i.id)))))) ∧
      (signed = false → exec (.updateBegin h replace (some b) ⟨signed, secret⟩) s = .next (finishCmd h true
        { st := v, status := INTEGRITY }))) ∧
    (∀ (n len a size : Nat) (b : Bytes) (i : Image), CtxTakes s (.updateParcel h len a (some b)) h x → hostHeld s h.ctx = false →
      u.mon.staged = some i → u.mon.upd = .receiving → n = fld b 4 4 →
      size = fld b 0x10 4 → fld b 0 4 = 0x4C435250 → n < i.parcels → fld b 8 8 = i.id → size = parcelLen i n → len = 80 + size →
      ((tget u.mon.parcels n).isSome = true → exec (.updateParcel h len a (some b)) s = .next (finishCmd h true { st := u })) ∧
      (tget u.mon.parcels n = none → exec (.updateParcel h len a (some b)) s = .next (finishCmd h true
        (later (askGcm { u with mon := { u.mon with keys := { u.mon.keys with image := some i.key } } } h.ctx i.key (parcelNonce i.id n)
            (b.take 64) ((b.drop 64).take size)) h.ctx
          (.parcel n ((b.drop 64).take (size + 16)) h.tag h.flags))))) ∧
    (CtxTakes s (.updateStatus h) h x → exec (.updateStatus h) s = .next (finishCmd h false
      { st := u, result := u.mon.parcels.length + 4096 * updNum u.mon.upd + 65536 * u.fuses.counter })) ∧
    (∀ (i : Image), u.mon.staged = some i →
      (u.mon.upd = .complete → u.fuses.counter ≤ i.svn →
        (CtxTakes s (.updateArm h i.id true) h x →
          exec (.updateArm h i.id true) s = .next (finishCmd h false (stage u h .arm))) ∧
        (CtxTakes s (.updateArm h i.id false) h x → exec (.updateArm h i.id false) s = .next (finishCmd h false
          { st := eventTo u (surveyors u) 0x0301 INTEGRITY [(0x10, 8, i.id), (0x18, 1, 2)], status := INTEGRITY }))) ∧
      (u.mon.upd = .receiving ∨ u.mon.upd = .complete ∨ u.mon.upd = .armed → CtxTakes s (.updateAbandon h i.id) h x →
        exec (.updateAbandon h i.id) s = .next (finishCmd h true (stage u h .abandon))) ∧
      (u.mon.upd = .armed → activateCheck u i = 0 → CtxTakes s (.updateActivate h i.id) h x →
        exec (.updateActivate h i.id) s = .next (finishCmd h false
          (later (holdPlat { u with mon := { u.mon with upd := .activating } } 0) h.ctx (.activate h.tag h.flags)))))) ∧
  (∀ (s : State) (i : Image), s.mon.staged = some i → s.mon.upd = .receiving → s.mon.parcels.length = i.parcels →
    (sha384 (imagePlain s i) = i.digest → exec (.imageVerifyDone true) s = .next (eventTo
      { s with mon := { s.mon with upd := .complete } } (surveyors s) 0x0300 0 [(0x10, 8, i.id), (0x18, 2, i.parcels)])) ∧
    (∀ readOk, readOk = false ∨ sha384 (imagePlain s i) ≠ i.digest → exec (.imageVerifyDone readOk) s = .next (eventTo
      { s with mon := { s.mon with upd := .empty, staged := none, parcels := [], keys := { s.mon.keys with image := none } } }
      (surveyors s) 0x0301 INTEGRITY [(0x10, 8, i.id), (0x18, 1, 1)])))
  )

/-- R101, R102: a chunk of a shared engine ends: a request with more than 4,096 bytes left waits again with its saved state, one that
is done leaves, and the engine takes the request that has waited longest, ties to the lower context. -/
def Obligations.SharedEngineChunks : Prop :=
  (∀ (s : State) (e : SharedEngine) (r : EngReq), (engineOf s e).cur = some r →
    (4096 < r.todo.length → exec (.sharedEngineChunkDone e) s = .next
      (setEngine s e (serveNext ((engineOf s e).wait ++
        [{ r with todo := r.todo.drop 4096, work := r.work.next (r.todo.take 4096), since := s.sup.now }])))) ∧
    (r.todo.length ≤ 4096 → exec (.sharedEngineChunkDone e) s = .next (match e with
      | .gcm => parcelDone (setEngine s e (serveNext (engineOf s e).wait)) r.ctx (r.work.next (r.todo.take 4096)).tag
      | .hash => setEngine s e (serveNext (engineOf s e).wait)))) ∧
  (∀ l r, (serveNext l).cur = some r → r ∈ l ∧ ∀ q ∈ l, r.since < q.since ∨ (r.since = q.since ∧ r.ctx ≤ q.ctx)) ∧
  (∀ l, l ≠ [] → (serveNext l).cur.isSome = true)

/-- R398, R407, R409, R410: the held Plat switches when its engines are idle (Plat 0's switch ends the sessions and unlocks the UDS), and
once its check has passed it is activated with the image of the armed slot and the next Plat held. A burn of the fuse counter adds one;
FIELD_LOCK with its key waits for the fuse, and completes when it is blown. -/
def Obligations.ActivationComplete : Prop :=
  (∀ (s : State) (p : Nat), activating s = some p → (platOf s p).switching = false → platRuns s p = false →
    ∃ u, u = modPlat s p (fun x => { x with switching := true, checked := false }) ∧
      exec (.platSwitchBegin p) s = .next (if p = 0 then endSessions { u with mon := { u.mon with udsLocked := false } } else u)) ∧
  (∀ (s : State) (p : Nat) (i : Image), otherSlot s.mon = some i → activating s = some p → (platOf s p).switching = true →
    (platOf s p).checked = true →
    ∃ u v, u = modPlat s p (fun x =>
        { x with hold := false, switching := false, checked := false, epoch := i.epoch, imageId := i.id }) ∧
      v = (if p = 0 then newMonument u i else u) ∧
      exec (.platActivated p) s = .next (nextHold (eventAll v 0x0303 0 [(0x10, 1, p), (0x12, 2, i.epoch), (0x18, 8, v.sup.now)]) p i)) ∧
  (∀ (s : State) (n : Nat), s.mon.fuseTo = some n → (∀ t, s.mon.lastBurn = some t → t + 1000000 ≤ s.sup.now) →
    exec .fuseCounterBurn s = .next
      { s with fuses := { s.fuses with counter := min 64 (s.fuses.counter + 1) },
               mon := { s.mon with lastBurn := some s.sup.now,
                                   fuseTo := if n ≤ min 64 (s.fuses.counter + 1) then none else some n } }) ∧
  (∀ (s u : State) (h : CmdHdr) (x : Ctx), CtxTakes s (.fieldLock h 0x4C4F434B) h x → (platOf s 0).switching = false →
    x.surveyor = true → u = dropEntry s h.ctx →
    exec (.fieldLock h 0x4C4F434B) s = .next (finishCmd h false
      (later { u with mon := { u.mon with burn := true } } h.ctx (.fieldLock h.tag h.flags)))) ∧
  (∀ s : State, s.mon.burn = true → ∃ u, u = { s with
      fuses := { s.fuses with fieldLock := true }, mon := { s.mon with burn := false }, svcHeld := none, svcStall := none } ∧
    exec .fieldLockBurnDone s = .next (u.ctxs.foldl (fun s e => match e.2.busy with
      | some (.fieldLock tag flags) => finishBusy s e.1 tag flags 0xFFFF 0 0
      | _ => s) u))

/-- R391, R392, R395, R399, R415: the requests of Table 11.3 that are answered now, and what the answer is, under versions 1.2 and 1.3;
another version but GET_VERSION's is answered with an error (PRESUMED, log 14); SPDM_EXCHANGE writes its response to host memory and
returns its length; DOE Discovery names the three protocols. -/
def Obligations.SpdmRequestsComplete : Prop :=
  (∀ (s : State) (a : Asker), answers s a.who = true →
    exec (.getVersion a) s = .next (emit s (.spdm a.who (.version [0x12, 0x13]))) ∧
    (a.version = 0x12 ∨ a.version = 0x13 →
      exec (.getCapabilities a) s = .next (emit s (.spdm a.who .capabilities)) ∧
      (∀ o, exec (.negotiateAlgorithms a o) s = .next (emit s (.spdm a.who (algAnswer o)))) ∧
      exec (.getDigests a) s = .next (emit s (.spdm a.who (.digests 1 (sha384 s.mon.keys.chain)))) ∧
      (∀ slot off len, exec (.getCertificate a slot off len) s = .next (emit s (.spdm a.who (certAnswer slot off len s)))) ∧
      (∀ slot, exec (.challenge a slot) s = .next (emit (challengeAnswer slot s).1 (.spdm a.who (challengeAnswer slot s).2))) ∧
      (∀ i sg, exec (.getMeasurements a i sg) s = .next (emit (measAnswer i sg s).1 (.spdm a.who (measAnswer i sg s).2))) ∧
      (∀ code, exec (.unsupportedSpdmRequest a code) s = .next (emit s (.spdm a.who (.error unsupportedRequest)))) ∧
      (rowAnswered s a.who 3 = true →
        (∀ m, exec (.keyExchange a m) s = .next (emit (keyExchange a m s).1 (.spdm a.who (keyExchange a m s).2))) ∧
        (∀ n ok, exec (.finish a n ok) s = .next
          (emit (finishSession a.who n ok s).1 (.spdm a.who (finishSession a.who n ok s).2))) ∧
        (∀ n, exec (.keyUpdate a n) s = .next (emit (keyUpdate a.who n s).1 (.spdm a.who (keyUpdate a.who n s).2))) ∧
        (∀ n, exec (.heartbeat a n) s = .next (emit s (.spdm a.who
          (if hasSession s a.who n true then .heartbeat n else .error invalidRequest)))) ∧
        (∀ n, exec (.endSession a n) s = .next (emit (endSession a.who n s).1 (.spdm a.who (endSession a.who n s).2))))) ∧
    (a.version ≠ 0x12 → a.version ≠ 0x13 →
      exec (.getCapabilities a) s = .next (emit s (.spdm a.who (.error versionMismatch))) ∧
      exec (.getDigests a) s = .next (emit s (.spdm a.who (.error versionMismatch)))) ∧
    (rowAnswered s a.who 3 = false → ∀ m n ok,
      exec (.keyExchange a m) s = .next (emit s (.spdm a.who (.error unsupportedRequest))) ∧
      exec (.finish a n ok) s = .next (emit s (.spdm a.who (.error unsupportedRequest))))) ∧
  (∀ (s : State) (p index : Nat) (f : Fn), answers s (match f with | .pf => .doePf p | .vf v => .doeVf p v) = true →
    exec (.doeDiscovery p f index) s = .next (emit s (.doe p f (discovery index)))) ∧
  (∀ (s u : State) (h : CmdHdr) (x : Ctx) (cap a : Nat) (b : Bytes), ctxOf s h.ctx = some x → takes s x = true →
    fronts x.ring (.spdmExchange h cap a (some b)) h.tag h.flags = true →
    (platOf s 0).switching = false → hostHeld s h.ctx = false → u = dropEntry s h.ctx → 4 ≤ b.length → b.length ≤ 4096 →
    cap ≤ 65536 → ∃ r v d, r = ringAnswer b (askHash u h.ctx b) ∧ v = { r.1 with free := r.1.free + 1 } ∧
      d = Config.spdmBytes r.1.free ∧
      exec (.spdmExchange h cap a (some b)) s = .next (finishCmd h false
        (if d.length ≤ cap then
          { st := postData (emit v (.spdm (.ring h.ctx) r.2)) x.port (.vf x.vf) a d, result := d.length }
         else { st := v, status := CONFIG_REFUSED })))

/-- R392: a KEY_EXCHANGE with mutual authentication is answered with a new session below the limit of its asker, and Busy at it.
R395: LOCK_INTERFACE_REQUEST locks a TDI only when its VF has an open context that is no Surveyor's and a selective IDE stream is
bound to the VF; any other is answered with a TDISP error and changes nothing. -/
def Obligations.SessionAndLockConditions : Prop :=
  (
  ∀ (s t : State) (r : Asker) (a : SpdmResp), keyExchange r true s = (t, a) →
    ((sessionsOf s r.who).length < sessionLimit r.who → (∃ sig, a = .keyExchange s.mon.nextSess sig) ∧
      (sessionsOf t r.who).length = (sessionsOf s r.who).length + 1 ∧ ∀ q, q ≠ r.who → sessionsOf t q = sessionsOf s q) ∧
    (sessionLimit r.who ≤ (sessionsOf s r.who).length → a = .error spdmBusy ∧ t = s)
  ) ∧ (
  ∀ (s t : State) (p n vf : Nat) (a : SpdmResp), lockInterface p n vf s = (t, a) →
    (a = .tdisp 3 [] → ∃ c x k, vfCtx s p vf = some (c, x) ∧ x.surveyor = false ∧
      (∃ e ∈ (portOf s p).ide, e.1 = k ∧ e.2.selective = some (.vf vf)) ∧
      t = modCtx s c fun y => { y with tdi := .locked, stream := some k, session := n }) ∧
    (a ≠ .tdisp 3 [] → a = .tdispError ∧ t = s)
  )

/-- R393, R395, R396: the IDE_KM and TDISP requests in an established session with the port's PF, and an IDE failure. -/
def Obligations.IdeAndTdispComplete : Prop :=
  (∀ (s : State) (p n : Nat), answers s (.doePf p) = true → terminal s = false → hasSession s (.doePf p) n true = true →
    (∀ k sel key, exec (.keyProg p n ⟨k, key⟩ sel) s = .next
      (emit (keyProg p n k sel key s).1 (.spdm (.doePf p) (keyProg p n k sel key s).2))) ∧
    (∀ k, exec (.kSetGo p n k) s = .next (emit (keySet p k 2 true s).1 (.spdm (.doePf p) (keySet p k 2 true s).2))) ∧
    (∀ k, exec (.kSetStop p n k) s = .next (emit (keySet p k 3 false s).1 (.spdm (.doePf p) (keySet p k 3 false s).2))) ∧
    (∀ vf, exec (.lockInterfaceRequest p n vf) s = .next
      (emit (lockInterface p n vf s).1 (.spdm (.doePf p) (lockInterface p n vf s).2))) ∧
    (∀ vf, vf < 64 →
      exec (.getTdispVersion p n vf) s = .next (emit s (.spdm (.doePf p) (.tdisp 1 [0x10]))) ∧
      exec (.getTdispCapabilities p n vf) s = .next (emit s (.spdm (.doePf p) (.tdisp 2 []))) ∧
      exec (.getDeviceInterfaceReport p n vf) s = .next (emit s (.spdm (.doePf p) (interfaceReport p vf s))) ∧
      exec (.getDeviceInterfaceState p n vf) s = .next (emit s (.spdm (.doePf p) (.tdisp 5 [tdiNum (tdiState s p vf)]))) ∧
      exec (.startInterfaceRequest p n vf) s = .next
        (emit (startInterface p vf s).1 (.spdm (.doePf p) (startInterface p vf s).2)) ∧
      exec (.stopInterfaceRequest p n vf) s = .next
        (emit (stopInterface p vf s).1 (.spdm (.doePf p) (stopInterface p vf s).2)))) ∧
  (∀ (s : State) (p k : Nat) (e : IdeStream), tget (portOf s p).ide k = some e → p < nHost s → e.secure = true →
    ∃ v u, v = modPort s p (fun x => { x with ide := tput x.ide k { e with secure := false } }) ∧
      u = logFault v 0x0C (hostPlat v p) 0 p 0 ∧
      exec (.ideFailure p k) s = .next (((u.ctxs.filter fun c => c.2.port == p && c.2.stream == some k && tdiHeld c.2).map (·.1)).foldl
        (fun s c => closeCtx s c 4) u))

/-! ### Scheduling, periods and rings (chapter 2) -/

/-- R45, R82, R83, R84, R88 to R90, R94, R95: LEG_INSTANTIATE; a ready Leg whose run or period has not ended and that is first for a
free engine of a mapped Station runs when its access test passes and completes with the test's status when it fails; on an unmapped
index it completes DROPPED_FAULT; a Null Leg completes; a Leg whose engine has issued for more than twice its CYCLES is stopped, and the
stop is an event against its Station; an aborting Leg completes ABORTED_BOUNDARY. -/
def Obligations.SchedulingComplete : Prop :=
  (∀ (s : State) (p : Nat), p < nPlats s → exec (.legInstantiate p) s = .next (instantiateOn s p)) ∧
  (∀ (s u : State) (l : LegRef) (t : Trav) (g : Leg) (x : LegRun) (r : Run) (since stn : Nat) (k : CrewSlot),
    travOf s l.ctx l.handle = some t → legOf s l = some g → runOf s l = some x → t.run = some r → x.st = .ready since →
    crewSlot s l.ctx g.stn = some k → dispatchOn s l.ctx = true → inTime s l = true →
    (k.stn = none → exec (.legDispatch l) s = .next (completeLeg s l DROPPED_FAULT 0 false 0)) ∧
    (k.stn = some stn → ready s k.plat = true → (platOf s k.plat).hold = false → stationHeld s k.plat stn = false →
      engineBusy s l g = false → firstReady s l g since = true →
      (accessTest s (whoOf s l) g = 0 → bindViews s (whoOf s l) g = some u →
        exec (.legDispatch l) s = .next (startLeg u l t r g (whoOf s l))) ∧
      (accessTest s (whoOf s l) g = 0 → bindViews s (whoOf s l) g = none →
        exec (.legDispatch l) s = .next (completeLeg s l ACCESS_DENIED 0 false 0)) ∧
      (accessTest s (whoOf s l) g ≠ 0 →
        exec (.legDispatch l) s = .next (completeLeg s l (accessTest s (whoOf s l) g) 0 false 0)))) ∧
  (∀ (s : State) (l : LegRef) (g : Leg), legOf s l = some g → legRuns s l = true → g.kind = 7 →
    exec (.nullLeg l) s = .next (completeLeg s l 0 0 false 0)) ∧
  (∀ (s u v : State) (l : LegRef) (g : Leg) (x : LegRun), u = snapsIn s l → legOf u l = some g → runOf u l = some x →
    legRuns u l = true → g.kind ≤ 5 → 128 * g.cycles < issuedFor u l g x →
    v = finishLeg { spoilAll u (whoOf u l) g with fans := u.fans.filter fun f => f.leg != l } l { status := INTEGRITY } →
    (legStation u l g = none → exec (.legWatchdogStop l) s = .next (snapsOut s l v)) ∧
    (∀ p q, legStation u l g = some (p, q) → exec (.legWatchdogStop l) s = .next (snapsOut s l
      (faultEvent v ⟨p, 4, .station q, false, false, false, .none, 0⟩)))) ∧
  (∀ (s v w u : State) (l : LegRef) (t : Trav) (g : Leg) (a b : List Ending) (e : Ending) (x : LegRun) (who : Who) (n : Nat),
    v = snapsIn s l → travOf v l.ctx l.handle = some t → legOf v l = some g → splitEnding l.leg t.ending = some (a, e, b) →
    e.run.legs[l.leg]? = some x → who = ⟨l.ctx, l.handle, e.run.k, e.run.began⟩ →
    w = spoil (settleCommit v who l g x (some e.at_)) who g → n = subWarn v l.ctx g ABORTED_BOUNDARY 0 →
    u = modTrav w l.ctx l.handle (fun t => { t with ending := a ++ { e with run :=
          { e.run with legs := setAt e.run.legs l.leg fun x => { x with st := .done ABORTED_BOUNDARY, warn := n } } } :: b }) →
    exec (.legAbortDone l) s = .next (snapsOut s l (record u l.ctx
      (.cq (legRec u t e.run.k l g ABORTED_BOUNDARY n 0 (min u.sup.now (e.at_ + 1000)))))))

/-- R91, R92, R94, R97, R175: runs and periods. A run starts at its start time and meets its deadline; an armed Traverse begins period 0
at B0; a boundary empties the flags of the Traverse's rings, ends its period and begins the next, but for the last one or a pending
DISARM; the summary comes 1,000 ns after. -/
def Obligations.RunsAndPeriodsComplete : Prop :=
  ∀ (s : State) (c h : Nat) (t : Trav), travOf s c h = some t →
    (∀ tag flags, (ctxOf s c).bind (·.busy) = some (.run h tag flags) → t.st = .resident → t.start ≤ s.sup.now →
      ctxStalled s c = false →
      exec (.runStart c h) s = .next (finishBusy (startRun s c h tag flags t.start t.deadline) c tag flags h 0 0)) ∧
    (t.st = .running → t.run.isSome = true → t.deadline ≠ 0 → t.deadline ≤ s.sup.now →
      exec (.runDeadline c h) s = .next (boundary s c h t.deadline true)) ∧
    (t.st = .armed → t.b0 ≤ s.sup.now →
      exec (.periodBegin c h) s = .next (nextPeriod (modTrav (emptyFlags s t) c h fun t => { t with st := .periodic }) c h t.b0)) ∧
    (∀ b v, t.st = .periodic → stopping t = false → b = t.b0 + t.next * t.period → b ≤ s.sup.now → v = emptyFlags s t →
      (t.run.isSome = true →
        (t.disarm = true ∨ t.count ≠ 0 ∧ t.count ≤ t.next → exec (.periodBoundary c h) s = .next (boundary v c h b true)) ∧
        (t.disarm = false → t.count = 0 ∨ t.next < t.count →
          exec (.periodBoundary c h) s = .next (nextPeriod (boundary v c h b false) c h b))) ∧
      (t.run = none →
        (t.disarm = false → t.count = 0 ∨ t.next < t.count → exec (.periodBoundary c h) s = .next (nextPeriod v c h b)) ∧
        (t.disarm = true ∨ t.count ≠ 0 ∧ t.count ≤ t.next →
          (t.ending = [] → exec (.periodBoundary c h) s = .next
            (endBusy (modTrav v c h fun t => { t with st := .resident, disarm := false }) c h)) ∧
          (t.ending ≠ [] → exec (.periodBoundary c h) s = .next
            (modTrav v c h fun t => { t with ending := t.ending.map fun e => { e with stop := true } }))))) ∧
    (∀ e rest u, t.ending = e :: rest → e.at_ + 1000 ≤ s.sup.now → (e.run.legs.all isDone) = true →
      u = record s c (.cq (summary t e.run (if t.st = .periodic then 2 else 3) (e.at_ + 1000))) →
      (e.stop = false → exec (.periodSummary c h) s = .next
        (releaseViews (modTrav u c h fun t => { t with ending := rest }) ⟨c, h, e.run.k, e.run.began⟩)) ∧
      (e.stop = true → exec (.periodSummary c h) s = .next (endBusy (releaseViews
        (modTrav u c h fun t => { t with ending := rest, st := .resident, disarm := false }) ⟨c, h, e.run.k, e.run.began⟩) c h)))

/-- R66 to R70, R359, R362: at a multiple of its period a port's sweep writes the device halves that changed and reads each
Doorbell Page; the read's heads free entries, its SQ_TAIL counts only when at most a ring's depth ahead; fetched entries advance
SQ_HEAD; a time threshold raises the vector; t_rt is the largest of the latencies measured. -/
def Obligations.RingsComplete : Prop :=
  (∀ (s u v : State) (p : Nat), p < nHost s → s.sup.running = true → u = adoptSweep s p → sweeps s p = true →
    (portOf s p).ctrl.enable = true → linkUp s p = true → s.sup.now % (500 * (portOf u p).sweep) = 0 →
    v = (portRings u p).foldl (fun w r => writeHalf w (500 * (portOf u p).sweep) r) u →
    exec (.doorbellSweep p) s = .next (if (portOf u p).rtt = 0 then v
      else ((portRings v p).filter (swept v)).foldl (fun w r => sweepPage w p r) v)) ∧
  (∀ (s v w : State) (r : RingId) (p : Nat), swept s r = true → p = ringPort s r →
    v = modRing s r (fun g => { g with swps := g.swps - 1 }) → w = modRing s r (fun g => { g with asked := 0 }) →
    (∀ n, exec (.sweepReadReturn r n none) s = .next (sweepFail v p)) ∧
    exec (.entryFetchReturn r none) s = .next (sweepFail w p) ∧
    (∀ c n d, r = .context c → ∃ u, u = newHeads (modPort v p fun x => { x with lats := (n :: x.lats).take 16 })
        c d.cqHead d.eqHead ∧ exec (.sweepReadReturn r n (some d)) s = .next (newTail u r d.sqTail)) ∧
    (∀ n d, r = .admin p → ∃ u, u = modPort (modPort v p fun x => { x with lats := (n :: x.lats).take 16 }) p (fun x =>
        { x with ring := { x.ring with cqHead := d.cqHead } }) ∧
      exec (.sweepReadReturn r n (some d)) s = .next (newTail (drainAdmin (portOf u p).aheld.length u p) r d.sqTail)) ∧
    (∀ (l : List Bytes) (g : Ring), ringOf s r = some g → l ≠ [] → l.length ≤ sub32 g.sqTail g.sqHead →
      exec (.entryFetchReturn r (some l)) s = .next (modRing w r fun g =>
        { g with sqHead := wrap32 (g.sqHead + l.length), stamp := g.readAt, fetched := g.fetched ++ l, dirty := true }))) ∧
  (∀ (s : State) (c t : Nat) (x : Ctx), ctxOf s c = some x → t ≤ s.sup.now →
    (x.cqMod.due = some t → exec (.msixTimeThreshold c .completion) s = .next (raiseMsix
      (modCtx s c fun x => { x with cqMod := { x.cqMod with since := 0, due := none } }) x.port (.vf x.vf) x.cqVec)) ∧
    (x.eqMod.due = some t → exec (.msixTimeThreshold c .event) s = .next (raiseMsix
      (modCtx s c fun x => { x with eqMod := { x.eqMod with since := 0, due := none } }) x.port (.vf x.vf) x.eqVec))) ∧
  (∀ (s : State) (p : Nat) (l : List (Option Nat)),
    (rttReady s p = true → (portOf s p).rtt = 0 → (portOf s p).rttRetryAt = none →
      exec (.rttMeasure p l) s = .next (measureRtt s p l)) ∧
    (∀ t, rttReady s p = true → (portOf s p).rttRetryAt = some t → t ≤ s.sup.now → exec (.rttRetry p l) s = .next (measureRtt s p l)) ∧
    (p < nHost s → (portOf s p).rtt ≠ 0 → (portOf s p).lats ≠ [] → (portOf s p).rttAt + 1000000000 ≤ s.sup.now →
      exec (.rttUpdate p) s = .next (modPort s p fun x => { x with rtt := x.lats.foldl max 0, rttAt := s.sup.now })))

/-! ### Power, thermal control and bring-up (chapters 1, 10 and 12) -/

/-- R48, R51, R443 to R446: power and thermal samples. The Governor's ratio falls by 8 or rises by 1 as the mean of its window
asks; a sample fails the sensors it judges bad, counts, and trips the package at 120 °C or changes the Plat's state; a change
zeroes the four counters, and its ratio takes effect 1,000 ns later. R444, R445: a change of thermal state gives the Plat's state,
zeroes its four counters and makes the ratio of the new state, 64/64, 48/64 or 16/64, due 1,000 ns after the sample; another
Plat's thermal state and the Governor's ratio do not change. R47, R48: the governor's next numerator stays in 8 to 64, falls by at
most 8 and only when the window's mean lies above the limit, and rises by at most 1 and only when it lies below 97% of it. -/
def Obligations.PowerAndThermalStepsComplete : Prop :=
  (
  (∀ (s : State) (mw : Nat), s.sup.running = true → s.sup.now % 10000 = 0 →
    ∃ l, l = lastMs s.sup.now ((s.sup.now, mw) :: s.glb.samples) ∧
      exec (.powerSample mw) s = .next { s with glb :=
        { s.glb with samples := l, meanMw := sumNat (l.map (·.2)) / l.length } }) ∧
  (∀ (s : State) (m : Nat), s.sup.running = true → s.sup.now % 50000 = 0 → m = nextPace s.glb.pace s.glb.ppl (window s) →
    (m = s.glb.pace → exec .governorControl s = .next s) ∧
    (m ≠ s.glb.pace → ∃ u, u = { s with glb := { s.glb with
        pace := m, lowest := if m = 64 then 64 else min s.glb.lowest m, lastChange := some s.sup.now } } ∧
      exec .governorControl s = .next (if s.glb.pace = 64 ∨ m = 64
        then eventAll u 0x0001 0 [(0x10, 1, m), (0x11, 1, min s.glb.lowest m)] else u))) ∧
  (∀ (s : State) (p : Nat) (r : List Int) (f : List Nat), p < nPlats s → s.sup.running = true → s.sup.now % 100000 = 0 →
    (platOf s p).st ≠ .unreleased → s.sup.tripped = false → f = judge (platOf s p).thermal.failed r →
    ∃ u, u = modPlat (logSensors s p r (f.filter fun i => !(platOf s p).thermal.failed.contains i)) p
        (fun x => { x with thermal := sampled x.thermal f r }) ∧
      (∀ i t, hottest f r = some (i, t) → 480 ≤ t → exec (.thermalSample p r) s = .next (trip u p i)) ∧
      ((∀ i t, hottest f r = some (i, t) → t < 480) → exec (.thermalSample p r) s = .next (settleTherm u p))) ∧
  (∀ (s : State) (p r t : Nat), (platOf s p).thermal.due = some (r, t) → t ≤ s.sup.now →
    exec (.thermalRatioApply p) s = .next (modPlat s p fun x => { x with thermal := { x.thermal with ratio := r, due := none } }))
  ) ∧ (
  ∀ (s : State) (p : Nat) (n : Therm), ∃ x, x = (platOf (changeTherm s p n) p).thermal ∧
    x.st = n ∧ x.warmEntry = 0 ∧ x.warmExit = 0 ∧ x.hotEntry = 0 ∧ x.hotExit = 0 ∧
    (n = .normal → x.due = some (64, s.sup.now + 1000)) ∧ (n = .warm → x.due = some (48, s.sup.now + 1000)) ∧
    (n = .hot → x.due = some (16, s.sup.now + 1000)) ∧ x.ratio = (platOf s p).thermal.ratio ∧
    (changeTherm s p n).glb = s.glb ∧ ∀ q, q ≠ p → (platOf (changeTherm s p n) q).thermal = (platOf s q).thermal
  ) ∧ (
  ∀ (n ppl : Nat) (w : List Nat), 8 ≤ n → n ≤ 64 →
    8 ≤ nextPace n ppl w ∧ nextPace n ppl w ≤ 64 ∧ n ≤ nextPace n ppl w + 8 ∧ nextPace n ppl w ≤ n + 1 ∧
    (nextPace n ppl w < n → w ≠ [] ∧ ppl * 1000 * w.length < sumNat w) ∧
    (n < nextPace n ppl w → w ≠ [] ∧ sumNat w * 100 < ppl * 1000 * w.length * 97)
  )

/-- R47: the Package Power Limit is a value of the GLB block. A whole write of it by a path with the right sets it, in steps of 1
W, where it lies in the variant's range, 68 to 210 W, 128 to 390 W or 240 to 735 W, whether or not anything runs; a write outside
the range is ignored and counted; the ratio does not change with the write, and the next control interval compares with the new
limit. -/
def Obligations.PowerLimitWrites : Prop :=
  ∀ (s : State) (p : Path) (v lo hi : Nat), pathUp s p = true → (p = .svc ∨ ∃ n, p = .pf n ∧ bit s.glb.setupPorts n = true) →
    v < 65536 →
    (s.part.variant = .vlh2 ∧ lo = 68 ∧ hi = 210 ∨ s.part.variant = .vlh4 ∧ lo = 128 ∧ hi = 390 ∨
      s.part.variant = .vlh8 ∧ lo = 240 ∧ hi = 735) →
    (lo ≤ v → v ≤ hi → ∃ t, exec (.glbPpl p v) s = .next t ∧ t.glb.ppl = v ∧ rdReg t 0x10 = v ∧
      t.glb.pace = s.glb.pace ∧ t.glb.samples = s.glb.samples ∧ t.glb.lastChange = s.glb.lastChange) ∧
    (v < lo ∨ hi < v → exec (.glbPpl p v) s = .next { s with glb := { s.glb with ignored := satAdd max32 s.glb.ignored 1 } }) ∧
    (s.sup.running = true → s.sup.now % 50000 = 0 → ∃ t, exec .governorControl s = .next t ∧
      t.glb.pace = nextPace s.glb.pace s.glb.ppl (window s) ∧ t.glb.ppl = s.glb.ppl)

/-- R109, R349, R378 to R381, R386, R387, R408, R417 to R421: supplies, resets and Datum Time's start; the boot from the active or the
armed slot, from the other one where that fails, or to Terminal; a Plat's release, which its key's proof against the fused digest decides;
measurement and self-check of the Plats, at bring-up and in an Update Reset; a Station zeroed; a setting durable. -/
def Obligations.BringUpComplete : Prop :=
  (∀ s : State,
    exec .vstbyRise s = .next { s with sup := { s.sup with vstby := true } } ∧
    (s.sup.vstby = true → exec .vmainRise s = .next { s with sup := { s.sup with vmain := true } }) ∧
    exec .resetRelease s = .next { s with sup := { s.sup with resetN := true } } ∧
    (s.sup.resetN = true → exec .resetAssert s = .next
      { packageReset s with sup := { (packageReset s).sup with resetN := false } }) ∧
    (∀ mv ns, s.sup.vmain = true → mv < 10800 → 1000 < ns → ∃ u, u = packageReset s ∧ exec (.powerLoss mv ns) s = .next
      { u with sup := { u.sup with vmain := false, lossSeen := true }, mon := { u.mon with burn := false } }) ∧
    (∃ u, u = packageReset s ∧ exec .vstbyLoss s = .next
      { u with sup := { u.sup with vstby := false, vmain := false, thermtrip := false, tripPlat := none
                                   lossSeen := s.sup.vmain || u.sup.lossSeen }
               mon := { u.mon with burn := u.mon.burn && !s.sup.vmain }
               flt := { u.flt with totals := [], losses := [], reported := [] } }) ∧
    (∀ n, s.sup.vstby = true → s.sup.vmain = true → s.sup.resetN = true → s.sup.running = false → n ≤ 5000000 →
      exec (.datumTimeStart n) s = .next (modPlat { s with sup := { s.sup with running := true, now := 0, startNs := n } } 0
        fun x => { x with st := .measuring }))) ∧
  (∀ (s u : State) (okA okB b1 : Bool) (first other : Option Image), s.sup.running = true → s.sup.tripped = false →
    s.mon.running = false → (platOf s 0).st = .measuring → u = logBoot s → b1 = (u.mon.activeB != u.mon.armed) →
    first = (if b1 then slotPasses u u.mon.slotB okB else slotPasses u u.mon.slotA okA) →
    other = (if b1 then slotPasses u u.mon.slotA okA else slotPasses u u.mon.slotB okB) →
    (∀ i, first = some i → exec (.monumentBoot okA okB) s = .next (bootImage u i u.mon.armed)) ∧
    (∀ i, first = none → other = some i → exec (.monumentBoot okA okB) s = .next
      (eventAll (bootImage u i false) 0x0307 0 [(0x10, 1, b2n (!b1)), (0x18, 8, i.id)])) ∧
    (first = none → other = none → exec (.monumentBoot okA okB) s = .next (enterTerminal u 0 2 0))) ∧
  (∀ (s : State) (p : Nat), 1 ≤ p → p < nPlats s → s.sup.running = true → s.mon.running = true → s.sup.tripped = false →
    (platOf s p).st = .unreleased → (platOf s p).unproven = false → (platOf s 0).st = .ready →
    ((List.range p).all (releasedBefore s)) = true → p = 1 ∨ (platOf s (p - 1)).releasedAt + 20000000 ≤ s.sup.now →
    (∀ k d, s.fuses.platKeys[p]? = some d → sha384 k = d → exec (.platRelease p (some k)) s = .next
      (openChannel (modPlat s p fun x => { x with st := .measuring, releasedAt := s.sup.now }) p)) ∧
    (∀ proof d, s.fuses.platKeys[p]? = some d → proof.map sha384 ≠ some d → exec (.platRelease p proof) s = .next
      (tryEnd (modPlat s p fun x => { x with unproven := true, releasedAt := s.sup.now })))) ∧
  (∀ (s u : State) (p : Nat) (m : Measurement), p < nPlats s → (platOf s p).st = .measuring → (platOf s p).measured = false →
    s.sup.running = true → s.sup.tripped = false →
    (m.ok = true → exec (.platMeasurementDone p m) s = .next
      (readyOrCheck (logMeasured (modPlat s p fun x => measuredPlat x m) p m) p)) ∧
    (m.ok = false → u = portsDown (logFault (modPlat s p fun x => { x with st := .out, cause := 4 }) 0x0A p 0 0 4) p →
      exec (.platMeasurementDone p m) s = .next
        (if p = 0 then u else tryEnd (eventAll u 0x0401 INTEGRITY [(0x10, 1, p), (0x11, 1, 4)])))) ∧
  (∀ (s : State) (p code : Nat), activating s = none → p < nPlats s → activatingReset s = true → s.mon.running = true →
    (platOf s p).st = .measuring → (platOf s p).measured = true →
    exec (.platSelfCheckDone p false code) s = .next (enterTerminal s p 1 code) ∧
    exec (.platSelfCheckDone p true code) s = .next
      (tryEnd (if p = 0 then checkSettings (becomeReady s 0) s.mon.image else becomeReady s p))) ∧
  (∀ (s u : State) (p code : Nat) (i : Image), activating s = some p → otherSlot s.mon = some i → (platOf s p).switching = true →
    (platOf s p).checked = false → u = modPlat s p (fun x => { x with checked := true }) →
    exec (.platSelfCheckDone p true code) s = .next (if p = 0 then checkSettings u i else u) ∧
    exec (.platSelfCheckDone p false code) s = .next (enterTerminal s p 1 code)) ∧
  (∀ (s : State) (p n : Nat), p < nPlats s → n ∈ (platOf s p).zeroing → exec (.stationZeroingDone p n) s = .next
    (modPlat s p fun x => { x with zeroing := x.zeroing.filter (· != n), flags := tdel x.flags n })) ∧
  (∀ (s : State) (k d v : Nat), tget s.settings k = some ⟨d, some v⟩ → (cadOf s 0).st = 2 →
    exec (.settingDurable k) s = .next { s with settings := tput s.settings k { durable := v } })

/-- R109, R349, R389, R404, R407, R441, R456: a package reset leaves the fuses, the NAND's blocks, the Boot Slots, the Fault Log's
totals and the durable settings as they were, and nothing of what ran: no context, no Traverse, no Plat ready, and Datum Time
stands at 0. -/
def Obligations.PackageResetKeeps : Prop :=
  ∀ s : State, ∃ t, t = packageReset s ∧ t.part = s.part ∧ t.fuses = s.fuses ∧ t.pending = s.pending ∧ t.out = s.out ∧
    t.mon.slotA = s.mon.slotA ∧ t.mon.slotB = s.mon.slotB ∧ t.mon.activeB = s.mon.activeB ∧ t.mon.armed = s.mon.armed ∧
    t.mon.staged = s.mon.staged ∧ t.mon.parcels = s.mon.parcels ∧ t.mon.running = false ∧
    t.flt.totals = s.flt.totals ∧ t.flt.losses = s.flt.losses ∧ t.flt.log = [] ∧
    t.ctxs = [] ∧ t.travs = [] ∧ t.plats = [] ∧ t.groups = [] ∧ t.sup.now = 0 ∧ t.sup.running = false ∧
    (∀ k, (tget t.settings k).map (·.durable) = (tget s.settings k).map (·.durable)) ∧
    (∀ k, (tget t.settings k).bind (·.pending) = none)

/-! ### Set-up registers and the service port (chapters 10 and 13) -/

/-- R419, R429 to R435, R440 to R442: a counted event is logged, tracked and, when it makes its resource lasting, declared and
repaired; tracker entries expire; the repair at the head of a Plat's queue ends; a lost Station's index goes to a spare, or is
unmapped; FAULT_LOG_TAKE copies and frees the oldest entries. -/
def Obligations.FaultsComplete : Prop :=
  (∀ (s u : State) (e : FaultEv), e.plat < nPlats s → s.sup.running = true → (platOf s e.plat).st ≠ .unreleased →
    s.sup.tripped = false → u = logRes s e.cls e.plat e.resource e.detail →
    ∃ v, v = (if (e.lasting || (e.again && !e.unc && inMemory e.resource) || lasting u e.plat e.resource) && (track u e.plat e.resource).flt.ctrl.enable
        then startRepair (logRes (track u e.plat e.resource) 0x07 e.plat e.resource 0) e.plat e.resource
        else track u e.plat e.resource) ∧
      exec (.faultEvent e) s = .next (match e.loss with
        | .none => v
        | .ringLink => ringLinkDown v e.plat
        | .logic => platOut v e.plat 2
        | .hbm => platOut v e.plat 3)) ∧
  (∀ (s : State) (p : Nat) (r : Resource), exec (.faultTrackerExpire p r) s = .next (modPlat s p fun x =>
    { x with tracker := x.tracker.filter fun e =>
        e.res != r || decide (s.sup.now ≤ e.stamps.headD 0 + bits s.flt.window.inForce 27 16 * 1000000000) })) ∧
  (∀ (s : State) (p : Nat) (o : Scrub), p < nPlats s → (platOf s p).st = .ready → o.pass = true → exec (.patrolScrub p o) s = .next
    (modPlat s p fun x => { x with scrubs := satAdd max32 x.scrubs 1 })) ∧
  (∀ (s : State) (p : Nat) (o : Scrub), o.pass = false → exec (.patrolScrub p o) s = .next s) ∧
  (∀ (s : State) (p at_ : Nat) (r : Resource) (l : List Repair), repairing s p = true →
    ((platOf s p).repairs = ⟨r, at_, none⟩ :: l → exec (.repairDone p) s = .next
      (beginHead (logRes (modPlat s p fun x => { useSpare x r with repairs := l }) 0x08 p r 0) p)) ∧
    (∀ n q sp u, (platOf s p).repairs = ⟨r, at_, some n⟩ :: l → (platOf s p).spares = q :: sp →
      u = modPlat s p (fun x => { x with repairs := l }) →
      exec (.stationSubstitutionDone p) s = .next (beginHead (rerun (logRes (remap u p n q) 0x08 p r q) p n) p)) ∧
    (∀ n phys u, (platOf s p).repairs = ⟨r, at_, some n⟩ :: l → (platOf s p).spares = [] → (platOf s p).map.getD n none = some phys →
      u = modPlat s p (fun x => { x with repairs := l }) →
      exec (.stationSubstitutionDone p) s = .next (beginHead (loseStation u p n phys) p))) ∧
  (∀ (s u : State) (p phys : Nat), p < nPlats s → (platOf s p).st = .ready → u = modPlat (logRes (logRes s 0x05 p (.station phys) 0) 0x07 p (.station phys) 0) p (fun x =>
      { x with repairs := x.repairs.filter fun r => r.res != .station phys }) →
    (logicalOf (platOf s p) phys = none → phys ∈ (platOf s p).spares → exec (.stationLost p phys) s = .next
      (checkSpares (modPlat u p fun x => { x with spares := x.spares.filter (· != phys) }) p)) ∧
    (∀ n, logicalOf (platOf s p) phys = some n → (platOf s p).spares = [] → exec (.stationLost p phys) s = .next (beginHead (loseStation u p n phys) p)) ∧
    (∀ n q l v, logicalOf (platOf s p) phys = some n → (platOf s p).spares = q :: l →
      v = modPlat (remap u p n q) p (fun x => { x with flags := tdel x.flags n }) → crewIndex v p n = none →
      exec (.stationLost p phys) s = .next (beginHead (logRes v 0x08 p (.station phys) q) p)) ∧
    (∀ n q l c i, logicalOf (platOf s p) phys = some n → (platOf s p).spares = q :: l →
      crewIndex (modPlat (remap u p n q) p fun x => { x with flags := tdel x.flags n }) p n = some (c, i) →
      exec (.stationLost p phys) s = .next (beginHead (logRes (loseQueues (zeroNear (failLegs
        (modPlat (remap u p n q) p fun x => { x with flags := tdel x.flags n }) c i INTEGRITY) c i) c i)
        0x08 p (.station phys) q) p))) ∧
  (∀ (s u v : State) (h : CmdHdr) (x : Ctx) (a n : Nat), CtxTakes s (.faultLogTake h a n) h x → u = dropEntry s h.ctx → x.surveyor = true → 1 ≤ n → n ≤ 4096 →
    v = { u with flt := { u.flt with log := u.flt.log.drop n, reported := [] } } →
    (u.flt.log ≠ [] → exec (.faultLogTake h a n) s = .next (finishCmd h false
      { st := postData v x.port (.vf x.vf) a ((u.flt.log.take n).flatMap logBytes), result := (u.flt.log.take n).length })) ∧
    (u.flt.log = [] → exec (.faultLogTake h a n) s = .next (finishCmd h false { st := v, result := 0 })))

/-- R441: an event of a class, Plat and source that an entry of the Fault Log holds, within 1,000,000 ns of its FIRST, adds no
entry; any other adds one while fewer than 4,096 are held; the class's total counts it either way, and no other entry's FIRST
changes. -/
def Obligations.FaultLogMerges : Prop :=
  ∀ (s : State) (cls p kind source detail : Nat), s.sup.tripped = false → ∃ t, t = logFault s cls p kind source detail ∧
    tgetD t.flt.totals cls 0 = satAdd 0xFFFFFFFFFFFFFFFF (tgetD s.flt.totals cls 0) 1 ∧
    ((∃ e ∈ s.flt.log, e.cls = cls ∧ e.plat = p ∧ e.source = source ∧ s.sup.now ≤ e.first + 1000000) →
      t.flt.log.map (·.first) = s.flt.log.map (·.first) ∧ t.flt.eseq = s.flt.eseq) ∧
    ((∀ e ∈ s.flt.log, e.cls = cls → e.plat = p → e.source = source → e.first + 1000000 < s.sup.now) →
      (s.flt.log.length < 4096 → t.flt.log = s.flt.log ++ [⟨cls, p, kind, source, s.sup.now, s.sup.now, 1, s.flt.eseq, detail⟩]) ∧
      (4096 ≤ s.flt.log.length → t.flt.log = s.flt.log ∧
        tgetD t.flt.losses cls 0 = satAdd max32 (tgetD s.flt.losses cls 0) 1))

/-- R450 to R452, R456, R460, R463, R464: a write of a register field in its range, by a path with the right and, for an RWE field, with
its block disabled, sets it and stores the persistent ones; CTRL takes ENABLE. R448, R449: a memory write through BAR 0 of 4 aligned bytes
writes the register at its offset, one of 8 bytes those at both; any other size or alignment is a partial write, as `wrPartial` says.
R353: a VF's writes of its MSI-X table set or clear a vector's mask and keep the other words. R450: an aligned 4-byte write of the
bit-wise alias sets one bit that can be written so and changes nothing else; of another bit it does nothing, and a write of another size
counts as ignored. -/
def Obligations.RegisterWritesComplete : Prop :=
  (∀ (s : State) (p : Path) (v : Nat), pathUp s p = true → (p = .svc ∨ ∃ n, p = .pf n ∧ bit s.glb.setupPorts n = true) →
    (pplLow s ≤ v → v ≤ pplHigh s → v < 65536 →
      exec (.glbPpl p v) s = .next (storeSetting { s with glb := { s.glb with ppl := v } } 0x10 v)) ∧
    (1 ≤ v → v < 16 → exec (.glbSetupPorts p v) s = .next (storeSetting { s with glb := { s.glb with setupPorts := v } } 0x28 v)) ∧
    (v < 512 → exec (.glbAlertEn p v) s = .next (storeSetting { s with glb := { s.glb with alertEn := v } } 0x30 v)) ∧
    (1 ≤ v → v ≤ 1000 → exec (.tptAck p v) s = .next (storeSetting { s with tpt := { s.tpt with ackMs := v } } 0x18004 v)) ∧
    (v < 64 → (∀ t < nTie s, (tieOf s t).ctrl.enable = false) →
      exec (.tptNode p v) s = .next (storeSetting { s with tpt := { s.tpt with node := s.tpt.node.put v } } 0x18000 v)) ∧
    (∀ c x k, ctxOf s c = some x → c < 64 → tdiHeld x = false → 1 ≤ v % 512 → v % 512 ≤ 256 → v / 65536 % 1024 ≤ 1000 →
      exec (.ctxModWrite p c k v) s = .next (modCtx s c fun x => match k with
        | .completion => { x with cqMod := { x.cqMod with count := v % 512, timeUs := v / 65536 % 1024 } }
        | .event => { x with eqMod := { x.eqMod with count := v % 512, timeUs := v / 65536 % 1024 } })) ∧
    (∀ c x k, ctxOf s c = some x → c < 64 → tdiHeld x = true → exec (.ctxModWrite p c k v) s = .next
      (modCtx s c fun x => { x with ignored := satAdd max32 x.ignored 1 })) ∧
    (∀ on, exec (.blockEnableWrite p .dtm on) s = .next (enableDtm s on) ∧ exec (.blockEnableWrite p .flt on) s = .next (enableFlt s on)) ∧
    (∀ t on, t < nTie s → exec (.blockEnableWrite p (.tpt t) on) s = .next
      (storeSetting (enableTpt s t on) (0x19000 + t * 0x1000) (b2n on)))) ∧
  (∀ (s : State) (p : Path) (n v : Nat), pathUp s p = true → n < nHost s →
    (p = .svc ∨ p = .pf n ∨ ∃ m, p = .pf m ∧ bit s.glb.setupPorts m = true) →
    (1 ≤ v → v ≤ 128 → exec (.hptSweep p n v) s = .next (storeSetting (modPort s n fun x =>
      { x with sweepNew := some (v, (s.sup.now / (500 * v) + 1) * (500 * v)) }) (0x10008 + n * 0x2000) v)) ∧
    (v ≤ 10000 → exec (.hptGrace p n v) s = .next
      (storeSetting (modPort s n fun x => { x with graceMs := v }) (0x1000C + n * 0x2000) v)) ∧
    (∀ on, exec (.blockEnableWrite p (.hpt n) on) s = .next
      (storeSetting (enableHpt s n on) (0x10000 + n * 0x2000) (b2n on)))) ∧
  (∀ (s : State) (p : Path) (a b : Nat) (d : Bytes), (∃ n, p = .pf n ∨ ∃ w, p = .vf n w) → pathUp s p = true →
    pathOffset s p a = some b →
    (a % 4 = 0 → d.length = 4 → exec (.registerWrite p a d) s = .next (wrReg s p b (leNat d))) ∧
    (a % 4 = 0 → d.length = 8 → exec (.registerWrite p a d) s = .next
      (wrWord (wrReg s p b (leNat (d.take 4))) p (a + 4) (leNat (d.drop 4)))) ∧
    (a % 4 ≠ 0 → d.length = 8 → ∀ c, pathOffset s p (a + 4) = some c → pathOffset (wrPartial s p b) p (a + 4) = some c →
      exec (.registerWrite p a d) s = .next (wrPartial (wrPartial s p b) p c)) ∧
    (d ≠ [] → d.length ≠ 8 → d.length ≠ 4 ∨ a % 4 ≠ 0 →
      exec (.registerWrite p a d) s = .next (wrPartial s p b))) ∧
  (∀ (s : State) (n w j v : Nat) (d : Bytes), pathUp s (.vf n w) = true → j < 32 → d.length = 4 → v = leNat d →
    exec (.registerWrite (.vf n w) (0x2000 + j * 16 + 12) d) s = .next (maskVector s n (.vf w) j (bit v 0)) ∧
    (∀ k, k = 0 ∨ k = 4 ∨ k = 8 → exec (.registerWrite (.vf n w) (0x2000 + j * 16 + k) d) s = .next
      (modFn s n (.vf w) fun x => { x with table := tput x.table (j * 16 + k) v }))) ∧
  (∀ (s : State) (n w c v : Nat) (k : RingKind) (x : Ctx), pathUp s (.vf n w) = true → vfCtx s n w = some (c, x) → c < 64 →
    1 ≤ v % 512 → v % 512 ≤ 256 → v / 65536 % 1024 ≤ 1000 → ctxOf s c = some x →
    exec (.ctxModWrite (.vf n w) c k v) s = .next (modCtx s c fun x => match k with
      | .completion => { x with cqMod := { x.cqMod with count := v % 512, timeUs := v / 65536 % 1024 } }
      | .event => { x with eqMod := { x.eqMod with count := v % 512, timeUs := v / 65536 % 1024 } })) ∧
  (∀ (s : State) (n r b v : Nat), pathUp s (.bitAlias n) = true → r % 4 = 0 → r < 0x80000 → b < 32 →
    mayWrite s (.bitAlias n) (blockAt s r) = true →
    (takesBit (blockAt s r) b = true →
      exec (.bitAliasWrite (.bitAlias n) (r * 32 + b * 4) v) s = .next (wrReg s (.bitAlias n) r (setBit (rdReg s r) b (bit v 0))) ∧
      ∀ d, d.length = 4 → leNat d = v →
        exec (.registerWrite (.bitAlias n) (r * 32 + b * 4) d) s = .next (wrReg s (.bitAlias n) r (setBit (rdReg s r) b (bit v 0)))) ∧
    (takesBit (blockAt s r) b = false → exec (.bitAliasWrite (.bitAlias n) (r * 32 + b * 4) v) s = .next s) ∧
    (∀ d, d ≠ [] → d.length ≠ 4 → exec (.registerWrite (.bitAlias n) (r * 32 + b * 4) d) s = .next (countIgnored s (blockAt s r))))

/-- R450, R452: a write without the right changes only GLB_DENIED; a write outside its field's range changes only its block's
count of ignored writes, and so does a write of an RWE field of an enabled block but for that block's WRITE_IGNORED. -/
def Obligations.IgnoredWritesChangeOnlyCounts : Prop :=
  (∀ (s : State) (p : Path) (a v : Nat), pathUp s p = true → (∃ n, p = .pf n) → mayWrite s p (blockAt s a) = false →
    barWrite s p a v = { s with glb := { s.glb with denied := satAdd max32 s.glb.denied 1 } }) ∧
  (∀ (s : State) (b : RegBlock) (ok : Bool) (f : State → State),
    (ok = false → wrRw s b ok f = countIgnored s b) ∧ (ok = true → wrRw s b ok f = f s) ∧
    (blockOn s b = true → wrRwe s b ok f = noteRwe (countIgnored s b) b) ∧
    (blockOn s b = false → wrRwe s b ok f = wrRw s b ok f)) ∧
  (∀ (s : State) (b : RegBlock), ∃ t, t = noteRwe (countIgnored s b) b ∧ t.settings = s.settings ∧ t.objs = s.objs ∧ t.travs = s.travs ∧
    t.sup = s.sup ∧ t.mon = s.mon ∧ t.plats = s.plats ∧ t.cads = s.cads ∧ t.out = s.out ∧
    t.dtm.ptmInterval = s.dtm.ptmInterval ∧ t.dtm.mapInterval = s.dtm.mapInterval ∧ t.dtm.syncCfg = s.dtm.syncCfg ∧
    t.flt.window = s.flt.window ∧ t.flt.sparesMin = s.flt.sparesMin ∧ t.tpt.node = s.tpt.node ∧ t.tpt.ackMs = s.tpt.ackMs ∧
    t.glb.ppl = s.glb.ppl ∧ t.glb.setupPorts = s.glb.setupPorts ∧ t.glb.alertEn = s.glb.alertEn ∧ t.glb.denied = s.glb.denied ∧
    ∀ n, { portOf t n with ctrl := (portOf s n).ctrl } = portOf s n)

/-- R448, R454: reads of up to 4 bytes, or of 8, through a port's BAR give the registers' bytes; a LOL register latches its path's shadow
and no other, and its HIS register gives that shadow; an offset of a VF without a register gives its MSI-X words. A read of the bit-wise
alias gives its bit. R357: a read of the Intake Aperture completes with Unsupported Request, and the port's PF keeps the error (its bit is
PRESUMED, log 44). R380, R398: the service port delivers a value at once, or NACKs a stalled read, whose value the next read phase
delivers; another access discards it. While an access stalls, with VMAIN out of range or the Field Lock fuse blown, it NACKs. A CCC is
answered while VSTBY is held (its reply is free, log 44). -/
def Obligations.ReadsComplete : Prop :=
  (∀ (s : State) (p : Path) (a b n : Nat), pathUp s p = true → (∃ m, p = .pf m ∨ ∃ w, p = .vf m w) → a % 4 = 0 → 1 ≤ n →
    (n ≤ 4 → pathOffset s p a = some b → exec (.lolRead p ⟨a, n⟩) s = .next
      (emit (pathRead s p b).1 (.register p a ((le 4 (pathRead s p b).2).take n)))) ∧
    (n = 8 → pathOffset s p a = some b → pathOffset s p (a + 4) = some (b + 4) →
      ∃ v w, v = pathRead s p b ∧ w = pathRead v.1 p (b + 4) ∧
        exec (.lolRead p ⟨a, n⟩) s = .next (emit w.1 (.register p a (le 4 v.2 ++ le 4 w.2)))) ∧
    (n ≤ 4 → pathOffset s p a = none → exec (.lolRead p ⟨a, n⟩) s = .next
      (emit s (.register p a ((le 4 (rdVectors s p a)).take n))))) ∧
  (∀ (s : State) (m r b n : Nat), pathUp s (.bitAlias m) = true → r % 4 = 0 → r < 0x80000 → b < 32 → 1 ≤ n → n ≤ 4 →
    exec (.lolRead (.bitAlias m) ⟨r * 32 + b * 4, n⟩) s = .next
      (emit s (.register (.bitAlias m) (r * 32 + b * 4) ((le 4 (b2n (bit (rdReg s r) b))).take n)))) ∧
  (∀ (s : State) (m a n : Nat), pathUp s (.aperture m) = true → exec (.lolRead (.aperture m) ⟨a, n⟩) s = .next
    (modFn (emit s (.unsupported (.aperture m) a)) m .pf fun x => { x with aerUnc := x.aerUnc ||| 2 ^ 20 })) ∧
  (∀ (s : State) (p : Path) (b v : Nat), wide s b = some v → (pathRead s p b).2 = v % 4294967296 ∧
    shadowOf (pathRead s p b).1 p b = v / 4294967296 % 4294967296 ∧
    (∀ q c, (q, c) ≠ (p, b) → shadowOf (pathRead s p b).1 q c = shadowOf s q c) ∧
    (wide s (b + 4) = none → pathRead (pathRead s p b).1 p (b + 4) = ((pathRead s p b).1, v / 4294967296 % 4294967296))) ∧
  (∀ (s u : State) (a v : Nat), u = settleSvc s →
    (svcUp u = false ∨ u.svcStall.isSome = true → (∀ o, exec (.i3cRegisterRead o) s = .next (emit u .i3cNack)) ∧
      exec (.i3cRegisterWrite a v) s = .next (emit u .i3cNack)) ∧
    (svcUp u = true → u.svcStall = none → a < 1048576 →
      ∃ w, w = { u with svcHeld := none } ∧
      (svcStalls w a = false → exec (.i3cRegisterRead (some a)) s = .next
        (emit (pathRead w .svc a).1 (.i3cAck (pathRead w .svc a).2))) ∧
      (svcStalls w a = true → exec (.i3cRegisterRead (some a)) s = .next (emit (stallSvc w (some a)) .i3cNack)) ∧
      (∀ r, u.svcHeld = some r → exec (.i3cRegisterRead none) s = .next (emit w (.i3cAck r))) ∧
      (u.svcHeld = none → exec (.i3cRegisterRead none) s = .next (emit u .i3cNack)) ∧
      (∀ t, (a % 4 = 0 → v < 4294967296 → t = wrReg (emit w (.i3cAck 0)) .svc a v) →
        (a % 4 ≠ 0 → t = wrPartial (emit w (.i3cAck 0)) .svc a) → v < 4294967296 →
        exec (.i3cRegisterWrite a v) s = .next (if svcStalls w a = true then stallSvc t none else t)))) ∧
  (∀ (s : State) (o : Option Nat) (t : Nat), s.svcStall = some (o, t) →
    (s.sup.now < t → settleSvc s = s) ∧
    (t ≤ s.sup.now → ∃ u, u = { s with svcStall := none } ∧ (o = none → settleSvc s = u) ∧
      ∀ a, o = some a → settleSvc s = { (pathRead u .svc a).1 with svcHeld := some (pathRead u .svc a).2 })) ∧
  (∀ (s : State) (code : Nat), s.sup.vstby = true → exec (.i3cCcc code) s = .next (emit s (.i3cCcc code (Config.cccReply code))))

/-! ### The whole package -/

/-- A step takes the command at the front of the queue and runs it on the package with the queue's rest. On an empty queue (the model's
choice, log 2; R109) nothing happens while Datum Time does not run; else it advances by one count, and records that are stamped for it,
fill choices, a stalled access and a public-key operation that end with it are settled. -/
def Obligations.StepRunsFrontCommand : Prop :=
  (∀ (s : State) (c : Instr) (r : List Instr), s.pending = c :: r → step s = exec c { s with pending := r }) ∧
  (∀ s : State, s.pending = [] → s.sup.running = false → step s = .next s) ∧
  (∀ s : State, s.pending = [] → s.sup.running = true → s.sup.now + 1 < 2 ^ 64 →
    step s = .next (settlePk (settleSvc (flushRecords { settleFills s with sup := { s.sup with now := s.sup.now + 1 } }))))

/-- What the spec gives for reset: no context, Traverse, object or Plat is there, Datum Time does not run, the Pace Ratio is
64/64, and the persistent settings hold the defaults of Tables 13.5 to 13.21. -/
def Obligations.ResetValues : Prop :=
  ∃ s, s = State.reset ∧ s.pending = [] ∧ s.ctxs = [] ∧ s.travs = [] ∧ s.objs = [] ∧ s.groups = [] ∧ s.sup.running = false ∧
    s.sup.now = 0 ∧ s.glb.pace = 64 ∧ s.glb.lowest = 64 ∧ rdReg s 0x28 = 1 ∧ rdReg s 0x30 = 3 ∧ rdReg s 0x4000 = 1 ∧
    rdReg s 0x4010 = 1000000 ∧ rdReg s 0x4014 = 100 ∧ rdReg s 0x4018 = 0 ∧ rdReg s 0x10008 = 4 ∧ rdReg s 0x1000C = 100 ∧
    rdReg s 0x10004 = 0x15 ∧ rdReg s 0x12004 = 0x11 ∧ rdReg s 0x18000 = 0 ∧ rdReg s 0x18004 = 10 ∧ rdReg s 0x50000 = 1 ∧
    rdReg s 0x50004 = 0x3C0003 ∧ rdReg s 0x50008 = 2 ∧ s.fuses.counter ≤ 64

/-- R398, R407, R414, R469: every step keeps the package's identity, takes one command from the queue, never unblows a fuse and
never lowers the fuse counter, which stays within 64. -/
def Obligations.EveryStepKeepsIdentityAndFuses : Prop :=
  ∀ s t : State, step s = .next t → t.part = s.part ∧ t.pending = s.pending.tail ∧
    (s.fuses.fieldLock = true → t.fuses.fieldLock = true) ∧ (s.fuses.terminal = true → t.fuses.terminal = true) ∧
    (s.fuses.counter ≤ 64 → s.fuses.counter ≤ t.fuses.counter ∧ t.fuses.counter ≤ 64)

/-- R398, R407, R414: only MONUMENT_BOOT, PLAT_SELF_CHECK_DONE, FIELD_LOCK_BURN_DONE and FUSE_COUNTER_BURN change a fuse: every
other command leaves all of them as they are, the package's identity and the queue. -/
def Obligations.OnlyFourCommandsChangeFuses : Prop :=
  ∀ (c : Instr) (s t : State), exec c s = .next t →
    (∀ a b, c ≠ .monumentBoot a b) → (∀ p ok n, c ≠ .platSelfCheckDone p ok n) → c ≠ .fieldLockBurnDone → c ≠ .fuseCounterBurn →
    t.fuses = s.fuses ∧ t.part = s.part ∧ t.pending = s.pending

/-- R71, R72, R79, R104: completing a command, and writing records to any context or Admin ring, changes nothing of the package
but its contexts, its ports and what it has put out; a Fault Log entry changes also the Fault Log. -/
def Obligations.RecordsChangeRingsOnly : Prop :=
  (∀ (h : CmdHdr) (q : Bool) (r : CmdRes), ∃ c p o, finishCmd h q r = { r.st with ctxs := c, ports := p, out := o }) ∧
  (∀ (s : State) (i type st : Nat) (f : List Fld), ∃ c p o, event s i type st f = { s with ctxs := c, ports := p, out := o }) ∧
  (∀ (s : State) (p : Nat) (r : Rec), ∃ c q o, adminRec s p r = { s with ctxs := c, ports := q, out := o }) ∧
  (∀ (s : State) (a b k n d : Nat), ∃ c p o f, logFault s a b k n d = { s with ctxs := c, ports := p, out := o, flt := f })

/-- R86, R88, R471: the frame of the Stake commands: no object, tier, register, fuse or link changes; every Stake but the one
named keeps its value (STAKE_READ, STAKE_GRANT and STAKE_REVOKE change none). -/
def Obligations.StakeCommandsFrame : Prop :=
  ∀ (s t : State) (c : Instr) (h : CmdHdr) (ref : Nat),
    (∃ v, c = .stakeSet h ref v ∨ c = .stakeAdd h ref v) ∨ c = .stakeRead h ref ∨ (∃ g r, c = .stakeGrant h ref g r ∨ c = .stakeRevoke h ref g) →
    exec c s = .next t →
    t.objs = s.objs ∧ t.cads = s.cads ∧ t.mon = s.mon ∧ t.glb = s.glb ∧ t.settings = s.settings ∧ t.dtm = s.dtm ∧ t.flt = s.flt ∧
    t.tpt = s.tpt ∧ t.sup = s.sup ∧ t.fuses = s.fuses ∧ t.part = s.part ∧ t.groups = s.groups ∧ t.cams = s.cams ∧ t.pairs = s.pairs ∧
    t.tracks = s.tracks ∧ t.services = s.services ∧ t.landings = s.landings ∧ t.outlets = s.outlets ∧ t.ties = s.ties ∧
    ∀ i, (∀ x v, ctxOf s h.ctx = some x → c = .stakeSet h ref v ∨ c = .stakeAdd h ref v →
        cmdStake (dropEntry s h.ctx) x h.ctx ref true ≠ .ok i) → stakeVal t i = stakeVal s i

/-- R448 to R464: the frame of the set-up register writes GLB_PPL, GLB_SETUP_PORTS, GLB_ALERT_EN, HPT_SWEEP, HPT_GRACE, TPT_NODE,
TPT_ACK and CTX_MOD_WRITE: nothing that runs changes, and neither do the supplies, the Monument, the fuses or the Fault Log's
entries. -/
def Obligations.RegisterWritesFrame : Prop :=
  ∀ (s t : State) (c : Instr) (p : Path) (n k v : Nat) (r : RingKind),
    c ∈ [.glbPpl p v, .glbSetupPorts p v, .glbAlertEn p v, .hptSweep p n v, .hptGrace p n v, .tptNode p v, .tptAck p v,
      .ctxModWrite p k r v] → exec c s = .next t →
    t.objs = s.objs ∧ t.travs = s.travs ∧ t.plats = s.plats ∧ t.cads = s.cads ∧ t.mon = s.mon ∧ t.sup = s.sup ∧ t.fuses = s.fuses ∧
    t.part = s.part ∧ t.groups = s.groups ∧ t.cams = s.cams ∧ t.flt.log = s.flt.log ∧ t.flt.totals = s.flt.totals ∧
    t.dtm.ptmInterval = s.dtm.ptmInterval ∧ t.out = s.out ∧ t.free = s.free ∧ t.shadows = s.shadows ∧ t.tpt.routes = s.tpt.routes ∧
    t.outlets = s.outlets ∧ t.landings = s.landings

/-- R49, R86, R95: completing a Leg applies its signals and writes its completion; it changes no object's bytes, no Cadastre, no
setting and no fuse, and neither Datum Time nor the Monument. -/
def Obligations.LegCompletionFrame : Prop :=
  ∀ (s t : State) (l : LegRef) (st ret : Nat) (cond : Bool) (tier : Nat), t = completeLeg s l st ret cond tier →
    t.objs = s.objs ∧ t.cads = s.cads ∧ t.mon = s.mon ∧ t.sup = s.sup ∧ t.fuses = s.fuses ∧ t.settings = s.settings ∧ t.glb = s.glb ∧
    t.tracks = s.tracks ∧ t.flt = s.flt

/-- R406: UPDATE_ACTIVATE of the armed image starts an Update Reset at once, with Plat 0 held. It is refused NOT_READY while any
Plat is not ready, and else VERSION_REFUSED when the staged manifest lacks ROLLING, when its EPOCH differs by more than 1 from the
Epoch of any Plat, or when its FORMATS omit a format of the running image; a refusal leaves the image armed. -/
def Obligations.UpdateActivateChecks : Prop :=
  ∀ (s u : State) (h : CmdHdr) (x : Ctx) (i : Image), CtxTakes s (.updateActivate h i.id) h x → u = dropEntry s h.ctx → hostHeld s h.ctx = false →
    updateCheck u x = 0 → u.mon.staged = some i → u.mon.upd = .armed →
    ((∃ p < nPlats u, ready u p = false) →
      exec (.updateActivate h i.id) s = .next (finishCmd h false { st := u, status := 0x0204 })) ∧
    ((∀ p < nPlats u, ready u p = true) →
      (i.rolling = false ∨ (∃ p < nPlats u, (platOf u p).epoch + 1 < i.epoch ∨ i.epoch + 1 < (platOf u p).epoch) ∨
        (∃ f ∈ u.mon.image.formats, f ∉ i.formats) →
        exec (.updateActivate h i.id) s = .next (finishCmd h false { st := u, status := 0x0203 })) ∧
      (i.rolling = true → (∀ p < nPlats u, i.epoch ≤ (platOf u p).epoch + 1 ∧ (platOf u p).epoch ≤ i.epoch + 1) →
        (∀ f ∈ u.mon.image.formats, f ∈ i.formats) →
        exec (.updateActivate h i.id) s = .next (finishCmd h false
          (later (holdPlat { u with mon := { u.mon with upd := .activating } } 0) h.ctx (.activate h.tag h.flags)))))

/-- R118: an active edge of SYNC_IN less than 1,000 ns after the previous accepted edge is ignored and counted; a pulse shorter
than 10 ns is ignored. -/
def Obligations.SyncEdgesIgnored : Prop :=
  ∀ (s : State) (rising : Bool) (width l : Nat), s.sup.running = true → s.dtm.ctrl.enable = true →
    rising = !bit s.dtm.syncCfg.inForce 0 →
    (10 ≤ width → s.dtm.lastEdge = some l → s.sup.now - 2 < l + 1000 → exec (.syncInEdge rising width) s = .next
      { s with dtm := { s.dtm with rejected := satAdd 65535 s.dtm.rejected 1 } }) ∧
    (width < 10 → exec (.syncInEdge rising width) s = .next s)
end

