-- ==== Sys2Proof/Laws/Cipher.lean ====
section
/-!
SUPPORT. AES-256 and the key wrap: the inverse block function undoes the block function, and a wrapped key comes out of its wrapping.
-/
namespace Sys2Proof.Laws
open Sys2Proof Sys2Proof.Machine

/-! ### One block -/

theorem unsub_sub : ∀ b : Byte, unsubByte (subByte b) = b := by decide +kernel

theorem timesX_xor (a b : Byte) : timesX (a ^^^ b) = timesX a ^^^ timesX b := by
  unfold timesX
  rw [BitVec.msb_xor]
  cases a.msb <;> cases b.msb <;> simp [BitVec.shiftLeft_xor_distrib] <;> (ac_nf; try simp)

theorem byte_xor_cancel (a b : Byte) : a ^^^ (a ^^^ b) = b := by
  rw [← BitVec.xor_assoc, BitVec.xor_self, BitVec.zero_xor]

theorem byte_xor_left_comm (a b c : Byte) : a ^^^ (b ^^^ c) = b ^^^ (a ^^^ c) := by
  rw [← BitVec.xor_assoc, BitVec.xor_comm a b, BitVec.xor_assoc]

theorem mixColumn_twice (a b c d : Byte) : mixColumn (mixColumn [a, b, c, d]) =
    [timesX (timesX a) ^^^ (a ^^^ timesX (timesX c)), timesX (timesX b) ^^^ (b ^^^ timesX (timesX d)),
     timesX (timesX c) ^^^ (c ^^^ timesX (timesX a)), timesX (timesX d) ^^^ (d ^^^ timesX (timesX b))] := by
  have e (a b c d : Byte) : mixColumn [a, b, c, d] =
      [timesX a ^^^ timesX b ^^^ b ^^^ c ^^^ d, timesX b ^^^ timesX c ^^^ c ^^^ d ^^^ a,
       timesX c ^^^ timesX d ^^^ d ^^^ a ^^^ b, timesX d ^^^ timesX a ^^^ a ^^^ b ^^^ c] := rfl
  rw [e, e]
  simp only [timesX_xor, List.cons.injEq, and_true]
  refine ⟨?_, ?_, ?_, ?_⟩ <;>
    simp only [BitVec.xor_assoc, BitVec.xor_comm, byte_xor_left_comm, BitVec.xor_self, byte_xor_cancel, BitVec.zero_xor]

theorem mixColumn_four (a b c d : Byte) : mixColumn (mixColumn (mixColumn (mixColumn [a, b, c, d]))) = [a, b, c, d] := by
  rw [mixColumn_twice, mixColumn_twice]
  simp only [timesX_xor, List.cons.injEq, and_true]
  refine ⟨?_, ?_, ?_, ?_⟩ <;>
    simp only [BitVec.xor_assoc, BitVec.xor_comm, byte_xor_left_comm, BitVec.xor_self, byte_xor_cancel, BitVec.xor_zero]

/-- A block is sixteen bytes, four columns of four. -/
theorem block_cases {p : Bytes → Prop} (h : ∀ a b c d e f g i j k l m n o q r, p [a, b, c, d, e, f, g, i, j, k, l, m, n, o, q, r]) :
    ∀ x : Bytes, x.length = 16 → p x
  | [_, _, _, _, _, _, _, _, _, _, _, _, _, _, _, _], _ => h ..

theorem unshift_shift : ∀ x : Bytes, x.length = 16 → unshiftRows (shiftRows x) = x :=
  block_cases fun _ _ _ _ _ _ _ _ _ _ _ _ _ _ _ _ => rfl

theorem mixColumns_length (x : Bytes) : (mixColumns x).length = 16 := by
  simp [mixColumns, mixColumn, List.length_flatMap]

theorem unmix_mix : ∀ x : Bytes, x.length = 16 → unmixColumns (mixColumns x) = x := by
  apply block_cases
  intro a b c d e f g i j k l m n o q r
  have s (a b c d e f g i j k l m n o q r : Byte) : mixColumns (mixColumns [a, b, c, d, e, f, g, i, j, k, l, m, n, o, q, r]) =
      mixColumn (mixColumn [a, b, c, d]) ++ (mixColumn (mixColumn [e, f, g, i]) ++
        (mixColumn (mixColumn [j, k, l, m]) ++ mixColumn (mixColumn [n, o, q, r]))) := rfl
  rw [unmixColumns, s, mixColumn_twice, mixColumn_twice, mixColumn_twice, mixColumn_twice]
  simp only [List.cons_append, List.nil_append]
  rw [s]
  simp only [← mixColumn_twice, mixColumn_four]
  rfl

theorem xor_xor : ∀ a b : Bytes, a.length = b.length → xorBytes (xorBytes a b) b = a
  | [], [], _ => rfl
  | x :: a, y :: b, h => by
    have h := xor_xor a b (Nat.succ.inj h)
    simp only [xorBytes, List.zipWith_cons_cons, List.cons.injEq] at h ⊢
    exact ⟨by rw [BitVec.xor_assoc, BitVec.xor_self, BitVec.xor_zero], h⟩

theorem xor_length (a b : Bytes) (h : a.length = b.length) : (xorBytes a b).length = a.length := by
  simp [xorBytes, h]

/-- One round, with its key. -/
def aesRound (k x : Bytes) : Bytes := xorBytes (mixColumns (shiftRows (x.map subByte))) k
/-- One inverse round. -/
def unaesRound (k x : Bytes) : Bytes := unmixColumns (xorBytes ((unshiftRows x).map unsubByte) k)
/-- What the last round leaves before its key. -/
def aesLast (x : Bytes) : Bytes := shiftRows (x.map subByte)

theorem aesLast_length (x : Bytes) : (aesLast x).length = 16 := by simp [aesLast, shiftRows]
theorem aesRound_length (k x : Bytes) (h : k.length = 16) : (aesRound k x).length = 16 := by
  rw [aesRound, xor_length _ _ ((mixColumns_length _).trans h.symm), mixColumns_length]

theorem unlast (x : Bytes) (h : x.length = 16) : (unshiftRows (aesLast x)).map unsubByte = x := by
  rw [aesLast, unshift_shift _ (by simpa using h), List.map_map]
  exact (List.map_congr_left fun b _ => unsub_sub b).trans (List.map_id _)

theorem unround (k x : Bytes) (hk : k.length = 16) : unaesRound k (aesLast (aesRound k x)) = aesLast x := by
  rw [unaesRound, unlast _ (aesRound_length k x hk), aesRound, xor_xor _ _ ((mixColumns_length _).trans hk.symm)]
  exact unmix_mix _ (aesLast_length x)

/-! ### The key schedule -/

theorem keyWord_length (w : List Bytes) (rc : Byte) (n : Nat) (h : ∀ x ∈ w, x.length = 4) (h8 : w.length = 8 + n) :
    (keyWord w rc).length = 4 := by
  have a (i : Nat) (hi : i < w.length) : (w.getD i []).length = 4 := by
    rw [List.getD_eq_getElem?_getD, List.getElem?_eq_getElem hi]
    exact h _ (List.getElem_mem _)
  have b := a (w.length - 1) (by omega)
  have c := a (w.length - 8) (by omega)
  dsimp only [keyWord]
  generalize w.getD (w.length - 1) [] = y at b ⊢
  generalize w.getD (w.length - 8) [] = z at c ⊢
  split
  · simp [xorBytes, b, c]
  · split <;> simp [xorBytes, b, c]

theorem keyWords_lengths (key : Bytes) (h : key.length = 32) : (keyWords key).length = 60 ∧ ∀ x ∈ keyWords key, x.length = 4 := by
  have f (l : List Nat) : ∀ (n : Nat) (w : List Bytes × Byte), w.1.length = 8 + n → (∀ x ∈ w.1, x.length = 4) →
      (l.foldl (fun (r : List Bytes × Byte) i => (r.1 ++ [keyWord r.1 r.2], if i % 8 = 0 then timesX r.2 else r.2)) w).1.length =
        8 + n + l.length ∧
      ∀ x ∈ (l.foldl (fun (r : List Bytes × Byte) i => (r.1 ++ [keyWord r.1 r.2], if i % 8 = 0 then timesX r.2 else r.2)) w).1,
        x.length = 4 := by
    induction l with
    | nil => exact fun n w a b => ⟨a, b⟩
    | cons i l ih =>
      intro n w a b
      have := ih (n + 1) (w.1 ++ [keyWord w.1 w.2], if i % 8 = 0 then timesX w.2 else w.2)
        (by simp only [List.length_append, List.length_cons, List.length_nil]; omega)
        (by
          intro x hx
          rcases List.mem_append.1 hx with hx | hx
          · exact b x hx
          · rw [List.mem_singleton.1 hx]
            exact keyWord_length _ _ n b a)
      exact ⟨this.1.trans (by simp only [List.length_cons]; omega), this.2⟩
  have := f (List.range 52) 0 ((List.range 8).map (fun i => (key.drop (4 * i)).take 4), 1) (by simp) (by
    intro x hx
    obtain ⟨i, hi, rfl⟩ := List.mem_map.1 hx
    have := List.mem_range.1 hi
    simp only [List.length_take, List.length_drop, h]
    omega)
  exact ⟨this.1.trans (by simp), this.2⟩

theorem roundKey_length (w : List Bytes) (h : w.length = 60) (h4 : ∀ x ∈ w, x.length = 4) (n : Nat) (hn : n < 15) :
    (roundKey w n).length = 16 := by
  have e : ((w.drop (4 * n)).take 4).length = 4 := by
    simp only [List.length_take, List.length_drop, h]
    omega
  have m : ∀ x ∈ (w.drop (4 * n)).take 4, x.length = 4 := fun x hx => h4 x (List.mem_of_mem_drop (List.mem_of_mem_take hx))
  unfold roundKey
  generalize (w.drop (4 * n)).take 4 = l at e m
  match l, e with
  | [a, b, c, d], _ =>
    simp [m a, m b, m c, m d]

/-- The inverse block function undoes the block function. -/
theorem unaes_aes (key x : Bytes) (hk : key.length = 32) (hx : x.length = 16) : unaes256 key (aes256 key x) = x := by
  obtain ⟨h60, h4⟩ := keyWords_lengths key hk
  have r (n : Nat) (hn : n < 15) : (roundKey (keyWords key) n).length = 16 := roundKey_length _ h60 h4 n hn
  have e : aes256 key x = xorBytes (aesLast ((List.range 13).foldl (fun b i => aesRound (roundKey (keyWords key) (i + 1)) b)
      (xorBytes x (roundKey (keyWords key) 0)))) (roundKey (keyWords key) 14) := rfl
  have d (y : Bytes) : unaes256 key y = xorBytes ((unshiftRows ((List.range 13).foldl
      (fun b i => unaesRound (roundKey (keyWords key) (13 - i)) b) (xorBytes y (roundKey (keyWords key) 14)))).map unsubByte)
      (roundKey (keyWords key) 0) := rfl
  have l : List.range 13 = [0, 1, 2, 3, 4, 5, 6, 7, 8, 9, 10, 11, 12] := rfl
  rw [d, e, xor_xor _ _ ((aesLast_length _).trans (r 14 (by decide)).symm), l]
  simp only [List.foldl_cons, List.foldl_nil]
  simp only [show 13 - 0 = 12 + 1 from rfl, show 13 - 1 = 11 + 1 from rfl, show 13 - 2 = 10 + 1 from rfl, show 13 - 3 = 9 + 1 from rfl,
    show 13 - 4 = 8 + 1 from rfl, show 13 - 5 = 7 + 1 from rfl, show 13 - 6 = 6 + 1 from rfl, show 13 - 7 = 5 + 1 from rfl,
    show 13 - 8 = 4 + 1 from rfl, show 13 - 9 = 3 + 1 from rfl, show 13 - 10 = 2 + 1 from rfl, show 13 - 11 = 1 + 1 from rfl,
    show 13 - 12 = 0 + 1 from rfl]
  rw [unround _ _ (r _ (by decide)), unround _ _ (r _ (by decide)), unround _ _ (r _ (by decide)), unround _ _ (r _ (by decide)),
    unround _ _ (r _ (by decide)), unround _ _ (r _ (by decide)), unround _ _ (r _ (by decide)), unround _ _ (r _ (by decide)),
    unround _ _ (r _ (by decide)), unround _ _ (r _ (by decide)), unround _ _ (r _ (by decide)), unround _ _ (r _ (by decide)),
    unround _ _ (r _ (by decide)), unlast _ ((xor_length _ _ (hx.trans (r 0 (by decide)).symm)).trans hx),
    xor_xor _ _ (hx.trans (r 0 (by decide)).symm)]

theorem aes_length (key x : Bytes) (hk : key.length = 32) : (aes256 key x).length = 16 := by
  obtain ⟨h60, h4⟩ := keyWords_lengths key hk
  have : aes256 key x = xorBytes (aesLast ((List.range 13).foldl (fun b i => aesRound (roundKey (keyWords key) (i + 1)) b)
      (xorBytes x (roundKey (keyWords key) 0)))) (roundKey (keyWords key) 14) := rfl
  rw [this, xor_length _ _ ((aesLast_length _).trans (roundKey_length _ h60 h4 14 (by decide)).symm), aesLast_length]

/-! ### Key wrap -/

/-- What the wrapping works on: the value of eight bytes and `n` registers of eight. -/
def WrapOk (n : Nat) (a : Bytes × List Bytes) : Prop := a.1.length = 8 ∧ a.2.length = n ∧ ∀ x ∈ a.2, x.length = 8

theorem le_length (n v : Nat) : (le n v).length = n := by
  induction n generalizing v with
  | zero => rfl
  | succ n ih => simp [le, ih]

theorem be_length (n v : Nat) : (be n v).length = n := by simp [be, le_length]

/-- A wrapping step with any function of a block for the cipher, and the step that undoes it with that function's inverse. -/
def wrapWith (f : Bytes → Bytes) (n : Nat) (a : Bytes × List Bytes) (t : Nat) : Bytes × List Bytes :=
  let x := f (a.1 ++ a.2.getD ((t - 1) % n) [])
  (xorBytes (x.take 8) (be 8 t), a.2.set ((t - 1) % n) (x.drop 8))
def unwrapWith (f : Bytes → Bytes) (n : Nat) (a : Bytes × List Bytes) (t : Nat) : Bytes × List Bytes :=
  let x := f (xorBytes a.1 (be 8 t) ++ a.2.getD ((t - 1) % n) [])
  (x.take 8, a.2.set ((t - 1) % n) (x.drop 8))

theorem wrapWith_ok (f : Bytes → Bytes) (n t : Nat) (a : Bytes × List Bytes) (hf : ∀ x, (f x).length = 16) (h : WrapOk n a) :
    WrapOk n (wrapWith f n a t) := by
  refine ⟨?_, (List.length_set ..).trans h.2.1, ?_⟩
  · simp [wrapWith, xorBytes, be_length, hf]
  · intro x hx
    rcases List.mem_or_eq_of_mem_set hx with hx | rfl
    · exact h.2.2 x hx
    · simp [hf]

theorem unwrap_wrapWith (f g : Bytes → Bytes) (n t : Nat) (a : Bytes × List Bytes) (hf : ∀ x, (f x).length = 16)
    (hg : ∀ x, x.length = 16 → g (f x) = x) (hn : 0 < n) (h : WrapOk n a) : unwrapWith g n (wrapWith f n a t) t = a := by
  obtain ⟨v, r⟩ := a
  obtain ⟨hv, hr, h8⟩ := h
  simp only at hv hr h8
  have hi : (t - 1) % n < r.length := by rw [hr]; exact Nat.mod_lt _ hn
  have e : r.getD ((t - 1) % n) [] = r[(t - 1) % n] := by
    rw [List.getD_eq_getElem?_getD, List.getElem?_eq_getElem hi]
    rfl
  have l : (v ++ r[(t - 1) % n]).length = 16 := by
    rw [List.length_append, hv, h8 _ (List.getElem_mem _)]
  have s (y : Bytes) : (r.set ((t - 1) % n) y).getD ((t - 1) % n) [] = y := by
    rw [List.getD_eq_getElem?_getD, List.getElem?_set_self hi]
    rfl
  simp only [unwrapWith, wrapWith, e, s]
  rw [xor_xor _ _ (by simp only [List.length_take, hf, be_length]; rfl), List.take_append_drop, hg _ l, List.set_set,
    List.take_left' hv, List.drop_left' hv, List.set_getElem_self]

/-- Steps undone in the reverse order leave what was there. -/
theorem unwrap_steps (f g : Bytes → Bytes) (n : Nat) (hf : ∀ x, (f x).length = 16) (hg : ∀ x, x.length = 16 → g (f x) = x) (hn : 0 < n) :
    ∀ (l : List Nat) (a : Bytes × List Bytes), WrapOk n a →
    WrapOk n (l.foldl (wrapWith f n) a) ∧ l.reverse.foldl (unwrapWith g n) (l.foldl (wrapWith f n) a) = a
  | [], _, h => ⟨h, rfl⟩
  | t :: l, a, h => by
    have ih := unwrap_steps f g n hf hg hn l _ (wrapWith_ok f n t a hf h)
    refine ⟨ih.1, ?_⟩
    rw [List.reverse_cons, List.foldl_append]
    exact (congrArg (fun y => unwrapWith g n y t) ih.2).trans (unwrap_wrapWith f g n t a hf hg hn h)

/-- Registers of eight bytes read out of their bytes in a row. -/
theorem chunks_flatten : ∀ l : List Bytes, (∀ x ∈ l, x.length = 8) →
    (List.range l.length).map (fun i => (l.flatten.drop (8 * i)).take 8) = l
  | [], _ => rfl
  | x :: l, h => by
    have h8 := h x (List.mem_cons_self ..)
    have ih := chunks_flatten l fun y hy => h y (List.mem_cons_of_mem _ hy)
    rw [List.length_cons, List.range_succ_eq_map, List.map_cons, List.map_map]
    simp only [List.flatten_cons, Nat.mul_zero, List.drop_zero]
    rw [List.take_left' h8]
    refine congrArg _ (Eq.trans (List.map_congr_left fun i _ => ?_) ih)
    simp only [Function.comp]
    rw [show 8 * Nat.succ i = x.length + 8 * i by rw [h8]; omega, ← List.drop_drop, List.drop_left]

/-- The bytes of a key are those of its registers. -/
theorem flatten_chunks (n : Nat) : ∀ key : Bytes, key.length = 8 * n →
    ((List.range n).map fun i => (key.drop (8 * i)).take 8).flatten = key := by
  induction n with
  | zero => intro key h; simpa using (List.length_eq_zero_iff.1 h).symm
  | succ n ih =>
    intro key h
    rw [List.range_succ_eq_map, List.map_cons, List.map_map, List.flatten_cons]
    have := ih (key.drop 8) (by simp only [List.length_drop]; omega)
    simp only [List.drop_drop] at this
    refine Eq.trans (congrArg _ (Eq.trans (congrArg _ (List.map_congr_left fun i _ => ?_)) this)) (List.take_append_drop 8 key)
    simp only [Function.comp]
    congr 2
    omega

theorem flatten_length : ∀ l : List Bytes, (∀ x ∈ l, x.length = 8) → l.flatten.length = 8 * l.length
  | [], _ => rfl
  | x :: l, h => by
    rw [List.flatten_cons, List.length_append, h x (List.mem_cons_self ..),
      flatten_length l fun y hy => h y (List.mem_cons_of_mem _ hy), List.length_cons]
    omega

/-- What wrapping a key of `n` blocks of 8 bytes leaves, and that the steps undone leave the key's registers. -/
theorem wrapped (kek key : Bytes) (n : Nat) (hk : kek.length = 32) (hn : 0 < n) (h : key.length = 8 * n) :
    ∃ v r, wrapKey kek key = v ++ r.flatten ∧ WrapOk n (v, r) ∧
      ((List.range (6 * n)).map (· + 1)).reverse.foldl (unwrapStep kek n) (v, r) =
        (List.replicate 8 0xA6, (List.range n).map fun i => (key.drop (8 * i)).take 8) := by
  have o : WrapOk n (List.replicate 8 0xA6, (List.range n).map fun i => (key.drop (8 * i)).take 8) := by
    refine ⟨List.length_replicate, by simp, fun x hx => ?_⟩
    obtain ⟨i, hi, rfl⟩ := List.mem_map.1 hx
    have := List.mem_range.1 hi
    simp only [List.length_take, List.length_drop, h]
    omega
  obtain ⟨w, u⟩ := unwrap_steps (aes256 kek) (unaes256 kek) n (fun x => aes_length kek x hk) (fun x hx => unaes_aes kek x hk hx) hn
    ((List.range (6 * n)).map (· + 1)) _ o
  have ew : wrapStep kek n = wrapWith (aes256 kek) n := rfl
  have eu : unwrapStep kek n = unwrapWith (unaes256 kek) n := rfl
  refine ⟨_, _, ?_, w, eu ▸ u⟩
  unfold wrapKey
  simp only [show key.length / 8 = n by omega, ew]

theorem wrapKey_length (kek key : Bytes) (n : Nat) (hk : kek.length = 32) (hn : 0 < n) (h : key.length = 8 * n) :
    (wrapKey kek key).length = 8 * n + 8 := by
  obtain ⟨v, r, e, ⟨hv, hr, h8⟩, -⟩ := wrapped kek key n hk hn h
  simp only at hv hr h8
  rw [e, List.length_append, hv, flatten_length r h8, hr, Nat.add_comm]

/-- A wrapped key comes out of its wrapping (R334, R401). -/
theorem unwrapKey_wrapKey (kek key : Bytes) (n : Nat) (hk : kek.length = 32) (hn : 0 < n) (h : key.length = 8 * n) :
    unwrapKey kek (wrapKey kek key) = some key := by
  obtain ⟨v, r, e, ⟨hv, hr, h8⟩, u⟩ := wrapped kek key n hk hn h
  simp only at hv hr h8
  have c := chunks_flatten r h8
  rw [hr] at c
  have cs : ((List.range n).map fun i => ((v ++ r.flatten).drop (8 * (i + 1))).take 8) = r := by
    refine Eq.trans (List.map_congr_left fun i _ => ?_) c
    rw [show 8 * (i + 1) = v.length + 8 * i by rw [hv]; omega, ← List.drop_drop, List.drop_left]
  have rv : (List.range (6 * n)).map (6 * n - ·) = ((List.range (6 * n)).map (· + 1)).reverse := by
    apply List.ext_getElem
    · simp
    · intro i h1 h2
      simp only [List.length_map, List.length_range] at h1
      simp only [List.getElem_map, List.getElem_range, List.getElem_reverse, List.length_map, List.length_range]
      omega
  rw [e]
  unfold unwrapKey
  simp only [show (v ++ r.flatten).length / 8 - 1 = n by rw [List.length_append, hv, flatten_length r h8, hr]; omega]
  rw [List.take_left' hv, cs, rv, u]
  simp only [if_true]
  rw [flatten_chunks n key h]

/-! ### Lengths of the hash and of the keys it gives -/

theorem smallPrimes_length : smallPrimes.length = 80 := by decide +kernel

theorem shaRounds_length {w : Nat} (k : ShaKind) (l : List (BitVec w)) :
    ∀ a : List (BitVec w) × List (BitVec w), a.1.length = 8 →
      (l.foldl (fun a c => (shaRound k (c + a.2.headD 0) a.1, shaSlide k a.2)) a).1.length = 8 := by
  induction l with
  | nil => exact fun a h => h
  | cons c l ih => exact fun a _ => ih _ rfl

theorem shaBlock_length {w : Nat} (k : ShaKind) (h : List (BitVec w)) (b : Bytes) (h8 : h.length = 8) : (shaBlock k h b).length = 8 := by
  simp only [shaBlock, List.length_zipWith, h8]
  rw [shaRounds_length k _ (h, _) h8]
  rfl

theorem sha384_length (m : Bytes) : (sha384 m).length = 48 := by
  have i : sha384Init.length = 8 := by simp [sha384Init, rootWords, smallPrimes_length]
  have f (l : List Nat) (p : Bytes) (n : Nat) : ∀ h : List (BitVec 64), h.length = 8 →
      (l.foldl (fun h i => shaBlock sha384Kind h ((p.drop (n * i)).take n)) h).length = 8 := by
    induction l with
    | nil => exact fun h e => e
    | cons j l ih => exact fun h e => ih _ (shaBlock_length _ _ _ e)
  have b (l : List (BitVec 64)) : (l.flatMap fun x => be (64 / 8) x.toNat).length = 8 * l.length := by
    induction l with
    | nil => rfl
    | cons x l ih => rw [List.flatMap_cons, List.length_append, be_length, ih, List.length_cons]; omega
  unfold sha384 shaOf
  rw [List.length_take, b, f _ _ _ _ i]
  rfl

/-- A key of 32 bytes derived by HKDF has its 32 bytes. -/
theorem hkdf384_length (salt ikm info : Bytes) : (hkdf384 salt ikm info 32).length = 32 := by
  have e : hkdf384 salt ikm info 32 = (hmac384 (hmac384 salt ikm) ([] ++ info ++ [BitVec.ofNat 8 1]) ++ []).take 32 := rfl
  rw [e, List.append_nil, List.length_take, hmac384, sha384_length]
  rfl

end Sys2Proof.Laws
end

