-- ==== Sys2Proof/Laws/Cmd.lean ====
section
/-!
SUPPORT. What the taking of a command comes to, once: an Admin command, a context command, and their refusals.
-/
namespace Sys2Proof.Machine
open Sys2Proof

/-- A port that takes Admin commands runs the command's body on the state without its entry and records its completion. -/
theorem adminCmd_takes {s : State} {i : Instr} {h : AdmHdr} (H : AdminTakes s i h) (body : State → CmdRes) :
    adminCmd s i h body =
      (if (body (dropAdmin s h.port)).later then (body (dropAdmin s h.port)).st
       else adminRec (body (dropAdmin s h.port)).st h.port (.cq (cmdRec (body (dropAdmin s h.port)).st h.tag h.flags
         (body (dropAdmin s h.port)).trav (body (dropAdmin s h.port)).status (body (dropAdmin s h.port)).result))) := by
  unfold adminCmd
  rw [if_pos (by simp [H.1, H.2.1, H.2.2.1, H.2.2.2.2])]
  rfl

/-- Outside the Terminal state an Admin command runs its own body. -/
theorem notTerminal_takes {s : State} {i : Instr} {h : AdmHdr} (H : AdminTakes s i h) (body : State → CmdRes) :
    notTerminal body (dropAdmin s h.port) = body (dropAdmin s h.port) := by
  unfold notTerminal
  rw [if_neg]
  have e : terminal (dropAdmin s h.port) = terminal s := rfl
  rw [e, H.2.2.2.1]; simp

/-- A context that takes its next command runs the command's body on the state without its entry and finishes it. -/
theorem ctxCmd_takes {s : State} {i : Instr} {h : CmdHdr} {x : Ctx} (H : CtxTakes s i h x) (quiet : Bool) (body : State → Ctx → CmdRes) :
    ctxCmd s i h quiet body = finishCmd h quiet (body (dropEntry s h.ctx) x) := by
  have e : terminal (dropEntry s h.ctx) = terminal s := rfl
  unfold ctxCmd
  simp only [H.1, H.2.1, e, H.2.2.1, H.2.2.2, Bool.and_self, if_true]
  simp

/-- So does a context whose command the Terminal state carries out as well. -/
theorem ctxCmdAlways_takes {s : State} {i : Instr} {h : CmdHdr} {x : Ctx} (H : CtxTakes s i h x) (body : State → Ctx → CmdRes) :
    ctxCmdAlways s i h body = finishCmd h false (body (dropEntry s h.ctx) x) := by
  unfold ctxCmdAlways
  simp only [H.1, H.2.1, H.2.2.2, Bool.and_self, if_true]

/-- A command that waits for a later step leaves no completion yet. -/
theorem finishCmd_later (h : CmdHdr) (quiet : Bool) (r : CmdRes) (hl : r.later = true) : finishCmd h quiet r = r.st := by
  unfold finishCmd; rw [if_pos hl]

/-- A quiet command that succeeds without REPORT writes no completion (R75). -/
theorem finishCmd_quiet (h : CmdHdr) (r : CmdRes) (hs : r.status = 0) (hf : bit h.flags 1 = false) :
    finishCmd h true r = r.st := by
  unfold finishCmd; split <;> simp_all

/-- Every other command records its completion (R75). -/
theorem finishCmd_record (h : CmdHdr) (quiet : Bool) (r : CmdRes) (hl : r.later = false)
    (hq : quiet = false ∨ r.status ≠ 0 ∨ bit h.flags 1 = true) :
    finishCmd h quiet r = record r.st h.ctx (.cq (cmdRec r.st h.tag h.flags r.trav r.status r.result)) := by
  unfold finishCmd
  rw [if_neg (by simp [hl]), if_neg]
  rcases hq with hq | hq | hq <;> simp [hq]

end Sys2Proof.Machine
end

