-- ==== Sys2Proof/Laws/Fixed.lean ====
section
/-!
SUPPORT. What almost no command changes, the part, the queue of commands and the fuses, and how a fold keeps it.
-/
namespace Sys2Proof.Machine
open Sys2Proof

/-- The part, the queue and the fuses. -/
def State.fixed (s : State) : Part × List Instr × Fuses := (s.part, s.pending, s.fuses)

@[simp] theorem fixed_mk (a b c d e f g h i j k l m n o p q r t u v w x y z a1 a2 a3 a4 a5 a6 a7 a8 a9 a10) :
    State.fixed (State.mk a b c d e f g h i j k l m n o p q r t u v w x y z a1 a2 a3 a4 a5 a6 a7 a8 a9 a10) = (b, a, c) := rfl
@[simp] theorem fixed_eta (s : State) : (s.part, s.pending, s.fuses) = s.fixed := rfl

/-- A new GLB block keeps them; stated for any block, so that no check looks into it. -/
theorem fixed_glb (s : State) (g : Glb) : ({ s with glb := g } : State).fixed = s.fixed := rfl

theorem foldl_keeps {α β γ : Type} (m : β → γ) (f : β → α → β) (h : ∀ b a, m (f b a) = m b) (l : List α) (b : β) :
    m (l.foldl f b) = m b := by
  induction l generalizing b with
  | nil => rfl
  | cons a r ih => rw [List.foldl_cons, ih, h]

theorem foldl_fixed {α : Type} (f : State → α → State) (h : ∀ s a, (f s a).fixed = s.fixed) (l : List α) (s : State) :
    (l.foldl f s).fixed = s.fixed := foldl_keeps State.fixed f h l s

theorem foldl_fst_fixed {α β : Type} (f : State × β → α → State × β) (h : ∀ a x, (f a x).1.fixed = a.1.fixed) (l : List α)
    (a : State × β) : (l.foldl f a).1.fixed = a.1.fixed := foldl_keeps (fun p => p.1.fixed) f h l a

end Sys2Proof.Machine
end

