-- ==== Sys2Proof/Laws/FixedOps.lean ====
section
/-!
SUPPORT. The operations of Machine/Ops.lean leave the part, the queue and the fuses as they are: one lemma each.
-/
namespace Sys2Proof.Machine
open Sys2Proof

@[simp] theorem setPort_fixed (s : State) (p : Nat) (x : Port) :
    (setPort s p x).fixed = s.fixed := by
  simp [setPort]

@[simp] theorem modPort_fixed (s : State) (p : Nat) (f : Port → Port) :
    (modPort s p f).fixed = s.fixed := by
  simp [modPort]

@[simp] theorem modFn_fixed (s : State) (p : Nat) (f : Fn) (g : FnState → FnState) :
    (modFn s p f g).fixed = s.fixed := by
  simp [modFn]

@[simp] theorem modTie_fixed (s : State) (t : Nat) (f : TiePort → TiePort) :
    (modTie s t f).fixed = s.fixed := by
  simp [modTie]

@[simp] theorem modPlat_fixed (s : State) (p : Nat) (f : Plat → Plat) :
    (modPlat s p f).fixed = s.fixed := by
  simp [modPlat]

@[simp] theorem modCad_fixed (s : State) (p : Nat) (f : Cad → Cad) :
    (modCad s p f).fixed = s.fixed := by
  simp [modCad]

@[simp] theorem modCtx_fixed (s : State) (c : Nat) (f : Ctx → Ctx) :
    (modCtx s c f).fixed = s.fixed := by
  simp [modCtx]

@[simp] theorem modTrav_fixed (s : State) (c h : Nat) (f : Trav → Trav) :
    (modTrav s c h f).fixed = s.fixed := by
  simp [modTrav]

@[simp] theorem modObj_fixed (s : State) (k : Nat) (f : Obj → Obj) :
    (modObj s k f).fixed = s.fixed := by
  simp [modObj]

@[simp] theorem modGroup_fixed (s : State) (k : Nat) (f : Chain → Chain) :
    (modGroup s k f).fixed = s.fixed := by
  simp [modGroup]

@[simp] theorem modCam_fixed (s : State) (k : Nat) (f : Cam → Cam) :
    (modCam s k f).fixed = s.fixed := by
  simp [modCam]

@[simp] theorem modPair_fixed (s : State) (k : Nat) (f : Pair → Pair) :
    (modPair s k f).fixed = s.fixed := by
  simp [modPair]

@[simp] theorem modOutlet_fixed (s : State) (k : Nat) (f : Outlet → Outlet) :
    (modOutlet s k f).fixed = s.fixed := by
  simp [modOutlet]

@[simp] theorem emit_fixed (s : State) (o : Out) :
    (emit s o).fixed = s.fixed := by
  simp [emit]

@[simp] theorem dropPosted_fixed (s : State) (p : Nat) :
    (dropPosted s p).fixed = s.fixed := by
  simp [dropPosted]

@[simp] theorem post_fixed (s : State) (p : Nat) (f : Fn) (o : Out) :
    (post s p f o).fixed = s.fixed := by
  unfold post; split <;> simp

@[simp] theorem raiseMsix_fixed (s : State) (p : Nat) (f : Fn) (v : Nat) :
    (raiseMsix s p f v).fixed = s.fixed := by
  unfold raiseMsix; split <;> simp

@[simp] theorem sendPending_fixed (s : State) (p : Nat) (f : Fn) :
    (sendPending s p f).fixed = s.fixed := by
  unfold sendPending; simp [apply_ite State.fixed, foldl_fixed]

@[simp] theorem carry_fixed (s : State) (p t : Nat) :
    (carry s p t).fixed = s.fixed := by
  simp [carry]

@[simp] theorem putCq_fixed (s : State) (i : Nat) (r : CqRec) :
    (putCq s i r).fixed = s.fixed := by
  unfold putCq; dsimp only; (repeat' split) <;> simp

@[simp] theorem putEv_fixed (s : State) (i : Nat) (r : EvRec) :
    (putEv s i r).fixed = s.fixed := by
  unfold putEv; dsimp only; (repeat' split) <;> simp

@[simp] theorem pushCq_fixed (s : State) (i : Nat) (r : CqRec) :
    (pushCq s i r).fixed = s.fixed := by
  unfold pushCq; (repeat' split) <;> simp

@[simp] theorem pushEv_fixed (s : State) (i : Nat) (r : EvRec) :
    (pushEv s i r).fixed = s.fixed := by
  unfold pushEv; (repeat' split) <;> simp

@[simp] theorem pushRec_fixed (s : State) (i : Nat) (r : Rec) : (pushRec s i r).fixed = s.fixed := by
  cases r <;> simp [pushRec]

@[simp] theorem record_fixed (s : State) (i : Nat) (r : Rec) :
    (record s i r).fixed = s.fixed := by
  unfold record; (repeat' split) <;> simp

@[simp] theorem event_fixed (s : State) (i type status : Nat) (payload : List Fld) :
    (event s i type status payload).fixed = s.fixed := by
  unfold event; split <;> simp

@[simp] theorem eventTo_fixed (s : State) (l : List Nat) (type status : Nat) (payload : List Fld) :
    (eventTo s l type status payload).fixed = s.fixed := by
  unfold eventTo; simp [apply_ite State.fixed, foldl_fixed]

@[simp] theorem eventAll_fixed (s : State) (type status : Nat) (payload : List Fld) :
    (eventAll s type status payload).fixed = s.fixed := by
  simp [eventAll]

@[simp] theorem putAdmin_fixed (s : State) (p : Nat) (r : Rec) :
    (putAdmin s p r).fixed = s.fixed := by
  unfold putAdmin; (repeat' split) <;> simp

@[simp] theorem adminRec_fixed (s : State) (p : Nat) (r : Rec) :
    (adminRec s p r).fixed = s.fixed := by
  unfold adminRec; dsimp only; (repeat' split) <;> simp

@[simp] theorem logFault_fixed (s : State) (cls plat kind source detail : Nat) :
    (logFault s cls plat kind source detail).fixed = s.fixed := by
  unfold logFault; dsimp only; (repeat' split) <;> simp

@[simp] theorem freeBytes_fixed (s : State) (n : Nat) :
    (freeBytes s n).2.fixed = s.fixed := by
  simp [freeBytes]

@[simp] theorem postData_fixed (s : State) (p : Nat) (f : Fn) (address : Nat) (d : Bytes) : (postData s p f address d).fixed = s.fixed := by
  simp [postData, foldl_fixed]

@[simp] theorem askHost_fixed (s : State) (p : Nat) (f : Fn) (address n : Nat) : (askHost s p f address n).fixed = s.fixed := by
  simp [askHost, foldl_fixed]

end Sys2Proof.Machine
end

