-- ==== Sys2Proof/Laws/FixedOperands.lean ====
section
/-!
SUPPORT. The operations of Machine/Operands.lean leave the part, the queue and the fuses as they are: one lemma each.
-/
namespace Sys2Proof.Machine
open Sys2Proof

@[simp] theorem wrObj_fixed (s : State) (k off : Nat) (d : Bytes) :
    (wrObj s k off d).fixed = s.fixed := by
  simp [wrObj]

@[simp] theorem wrOp_fixed (s : State) (c : Nat) (o : OpEnt) (off : Nat) (d : Bytes) :
    (wrOp s c o off d).fixed = s.fixed := by
  unfold wrOp; (repeat' split) <;> simp

end Sys2Proof.Machine
end

