-- ==== Sys2Proof/Laws/FixedFlags.lean ====
section
/-!
SUPPORT. The operations of Machine/Flags.lean leave the part, the queue and the fuses as they are: one lemma each.
-/
namespace Sys2Proof.Machine
open Sys2Proof

@[simp] theorem stakePut_fixed (s : State) (v : Nat) (i : StakeId) : (stakePut s v i).fixed = s.fixed := by
  cases i <;> simp [stakePut]

@[simp] theorem stakeAdd_fixed (s : State) (id : StakeId) (n : Nat) :
    (stakeAdd s id n).fixed = s.fixed := by
  unfold stakeAdd; dsimp only; (repeat' split) <;> simp

@[simp] theorem signalRef_fixed (s : State) (c : Nat) (h : Option Nat) (r n : Nat) :
    (signalRef s c h r n).fixed = s.fixed := by
  unfold signalRef; split <;> simp

@[simp] theorem rescan_fixed (s : State) :
    (rescan s).fixed = s.fixed := by
  simp [rescan]

@[simp] theorem signal_fixed (s : State) (c : Nat) (h : Option Nat) (r n : Nat) :
    (signal s c h r n).fixed = s.fixed := by
  simp [signal]

@[simp] theorem signalOpt_fixed (s : State) (c r n : Nat) :
    (signalOpt s c r n).fixed = s.fixed := by
  unfold signalOpt; split <;> simp

@[simp] theorem setFlags_fixed (s : State) (p stn v : Nat) :
    (setFlags s p stn v).fixed = s.fixed := by
  simp [setFlags]

end Sys2Proof.Machine
end

