-- ==== Sys2Proof/Laws/FixedTieLink.lean ====
section
/-!
SUPPORT. The operations of Machine/TieLink.lean leave the part, the queue and the fuses as they are: one lemma each.
-/
namespace Sys2Proof.Machine
open Sys2Proof

@[simp] theorem transmit_fixed (s : State) (t : Nat) (f : TieFrame) :
    (transmit s t f).fixed = s.fixed := by
  simp [transmit]

@[simp] theorem newLinkKeys_fixed (s : State) (t : Nat) (tx rx : Bool) : (newLinkKeys s t tx rx).fixed = s.fixed := by
  simp [newLinkKeys]

@[simp] theorem tieRekey_fixed (s : State) (t : Nat) : (tieRekey s t).fixed = s.fixed := by
  unfold tieRekey; simp [apply_ite State.fixed]

@[simp] theorem drainTie_fixed (s : State) (t : Nat) :
    (drainTie s t).fixed = s.fixed := by
  unfold drainTie; simp [apply_ite State.fixed, foldl_fixed, foldl_fst_fixed, apply_ite Prod.fst]

@[simp] theorem sendOn_fixed (s : State) (t : Nat) (f : TieFrame) :
    (sendOn s t f).fixed = s.fixed := by
  simp [sendOn]

@[simp] theorem sendControl_fixed (s : State) (t type : Nat) (msg : List Fld) (payload : Bytes) :
    (sendControl s t type msg payload).fixed = s.fixed := by
  unfold sendControl; simp [apply_ite State.fixed]

@[simp] theorem noRoute_fixed (s : State) :
    (noRoute s).fixed = s.fixed := by
  simp [noRoute]

@[simp] theorem sendTo_fixed (s : State) (node : Nat) (l : List TieFrame) :
    (sendTo s node l).fixed = s.fixed := by
  unfold sendTo; split <;> simp [apply_ite State.fixed, foldl_fixed]

@[simp] theorem writeFailed_fixed (s : State) (w : Sent) (reason node : Nat) :
    (writeFailed s w reason node).fixed = s.fixed := by
  simp [writeFailed]

@[simp] theorem formTransfer_fixed (s : State) (k : Nat) (l : LegRef) (period : Nat) (data : List (Nat × Bytes)) :
    (formTransfer s k l period data).fixed = s.fixed := by
  unfold formTransfer; dsimp only; (repeat' split) <;> simp [apply_ite State.fixed, foldl_fixed]

@[simp] theorem formTransfers_fixed (s : State) (l : LegRef) (period : Nat) (data : List (Nat × Nat × Bytes)) :
    (formTransfers s l period data).fixed = s.fixed := by
  unfold formTransfers; simp [apply_ite State.fixed, foldl_fixed]

end Sys2Proof.Machine
end

