-- ==== Sys2Proof/Laws/FixedLegs.lean ====
section
/-!
SUPPORT. The operations of Machine/Legs.lean leave the part, the queue and the fuses as they are: one lemma each.
-/
namespace Sys2Proof.Machine
open Sys2Proof

@[simp] theorem modRun_fixed (s : State) (l : LegRef) (f : LegRun → LegRun) :
    (modRun s l f).fixed = s.fixed := by
  simp [modRun]

@[simp] theorem instantiateOn_fixed (s : State) (p : Nat) :
    (instantiateOn s p).fixed = s.fixed := by
  unfold instantiateOn; simp [apply_ite State.fixed, foldl_fixed]

@[simp] theorem instantiateAll_fixed (s : State) :
    (instantiateAll s).fixed = s.fixed := by
  unfold instantiateAll; simp [apply_ite State.fixed, foldl_fixed]

@[simp] theorem emptyFlags_fixed (s : State) (t : Trav) :
    (emptyFlags s t).fixed = s.fixed := by
  unfold emptyFlags; (try dsimp only); rw [foldl_fixed]; intro s a; (repeat' split) <;> simp [foldl_fixed]

@[simp] theorem finishBusy_fixed (s : State) (c tag flags trav status result : Nat) :
    (finishBusy s c tag flags trav status result).fixed = s.fixed := by
  simp [finishBusy]

@[simp] theorem releaseViews_fixed (s : State) (w : Who) :
    (releaseViews s w).fixed = s.fixed := by
  unfold releaseViews; simp [apply_ite State.fixed, foldl_fixed]

@[simp] theorem applySignals_fixed (s : State) (l : LegRef) (g : Leg) (st : Nat) (cond : Bool) :
    (applySignals s l g st cond).fixed = s.fixed := by
  unfold applySignals; simp [apply_ite State.fixed, foldl_fixed]

@[simp] theorem closeRun_fixed (s : State) (c h : Nat) :
    (closeRun s c h).fixed = s.fixed := by
  unfold closeRun; (repeat' split) <;> simp

@[simp] theorem completeLegAt_fixed (s : State) (l : LegRef) (st warn : Nat) (cond : Bool) (tier stamp : Nat) :
    (completeLegAt s l st warn cond tier stamp).fixed = s.fixed := by
  unfold completeLegAt; (repeat' split) <;> simp

@[simp] theorem completeLeg_fixed (s : State) (l : LegRef) (st warn : Nat) (cond : Bool) (tier : Nat) :
    (completeLeg s l st warn cond tier).fixed = s.fixed := by
  simp [completeLeg]

@[simp] theorem settleOutlets_fixed (s : State) (w : OutWait) :
    (settleOutlets s w).fixed = s.fixed := by
  unfold settleOutlets; split <;> simp

@[simp] theorem freeRanges_fixed (s : State) (c : Nat) (l : List (OpEnt × Nat × Nat)) :
    (freeRanges s c l).fixed = s.fixed := by
  unfold freeRanges; simp [apply_ite State.fixed, foldl_fixed]

@[simp] theorem useScratch_fixed (s : State) (l : LegRef) :
    (useScratch s l).fixed = s.fixed := by
  unfold useScratch; split <;> simp

@[simp] theorem finishLeg_fixed (s : State) (l : LegRef) (o : EngOut) :
    (finishLeg s l o).fixed = s.fixed := by
  unfold finishLeg; simp [apply_ite State.fixed, foldl_fixed]

@[simp] theorem beginRun_fixed (s : State) (c h k b : Nat) :
    (beginRun s c h k b).fixed = s.fixed := by
  unfold beginRun; (repeat' split) <;> simp

@[simp] theorem boundaryRecords_fixed (s : State) (t : Trav) (r : Run) (b : Nat) :
    (boundaryRecords s t r b).fixed = s.fixed := by
  unfold boundaryRecords; (try dsimp only); rw [foldl_fixed]; intro s a; (repeat' split) <;> simp

@[simp] theorem dropMarks_fixed (s : State) (c h : Nat) :
    (dropMarks s c h).fixed = s.fixed := by
  simp [dropMarks]

@[simp] theorem boundary_fixed (s : State) (c h b : Nat) (stop : Bool) :
    (boundary s c h b stop).fixed = s.fixed := by
  unfold boundary; (repeat' split) <;> simp

@[simp] theorem startRun_fixed (s : State) (c h tag flags start deadline : Nat) :
    (startRun s c h tag flags start deadline).fixed = s.fixed := by
  unfold startRun; dsimp only; (repeat' split) <;> simp

@[simp] theorem settlePace_fixed (s : State) (p : Nat) : (settlePace s p).fixed = s.fixed := by
  simp [settlePace]

@[simp] theorem refuseLeg_fixed (s : State) (l : LegRef) (st : Nat) : (refuseLeg s l st).fixed = s.fixed := by
  simp [refuseLeg]

/-- Snapshots stand in for objects alone: what `f` keeps stays kept. -/
@[simp] theorem onSnaps_fixed (s : State) (l : LegRef) (f : State → State) (h : ∀ u, (f u).fixed = u.fixed) :
    (onSnaps s l f).fixed = s.fixed := (h _).trans rfl

/-- Without snapshots a Leg acts on the package itself. -/
theorem onSnaps_none (s : State) (l : LegRef) (f : State → State) (h : snapsOf s l = []) : onSnaps s l f = f s := by
  simp only [onSnaps, snapsOut, snapsIn, h, List.foldl_nil]

@[simp] theorem dropSnaps_fixed (s : State) (l : LegRef) : (dropSnaps s l).fixed = s.fixed := rfl

end Sys2Proof.Machine
end

