-- ==== Sys2Proof/Laws/FixedCmd.lean ====
section
/-!
SUPPORT. The operations of Machine/Cmd.lean leave the part, the queue and the fuses as they are: one lemma each.
-/
namespace Sys2Proof.Machine
open Sys2Proof

@[simp] theorem CmdRes.refuse_fixed (s : State) (status : Nat) :
    (CmdRes.refuse s status).st.fixed = s.fixed := by
  simp [CmdRes.refuse]

@[simp] theorem dropEntry_fixed (s : State) (c : Nat) :
    (dropEntry s c).fixed = s.fixed := by
  simp [dropEntry]

@[simp] theorem finishCmd_fixed (h : CmdHdr) (quiet : Bool) (r : CmdRes) : (finishCmd h quiet r).fixed = r.st.fixed := by
  unfold finishCmd; (repeat' split) <;> simp

@[simp] theorem ctxCmd_fixed (s : State) (i : Instr) (h : CmdHdr) (quiet : Bool) (body : State → Ctx → CmdRes)
    (hb : ∀ s x, (body s x).st.fixed = s.fixed) : (ctxCmd s i h quiet body).fixed = s.fixed := by
  unfold ctxCmd; (try dsimp only); (repeat' split) <;> simp [hb, CmdRes.refuse]

@[simp] theorem ctxCmdAlways_fixed (s : State) (i : Instr) (h : CmdHdr) (body : State → Ctx → CmdRes)
    (hb : ∀ s x, (body s x).st.fixed = s.fixed) : (ctxCmdAlways s i h body).fixed = s.fixed := by
  unfold ctxCmdAlways; (try dsimp only); (repeat' split) <;> simp [hb, CmdRes.refuse]

@[simp] theorem later_fixed (s : State) (c : Nat) (b : Busy) :
    (later s c b).st.fixed = s.fixed := by
  simp [later]

@[simp] theorem adminCmd_fixed (s : State) (i : Instr) (h : AdmHdr) (body : State → CmdRes)
    (hb : ∀ s, (body s).st.fixed = s.fixed) : (adminCmd s i h body).fixed = s.fixed := by
  unfold adminCmd; (try dsimp only); (repeat' split) <;> simp [hb]

@[simp] theorem issueFlush_fixed (s : State) (p : Nat) :
    (issueFlush s p).fixed = s.fixed := by
  simp [issueFlush]

@[simp] theorem markScan_fixed (s : State) :
    (markScan s).fixed = s.fixed := by
  unfold markScan; simp [apply_ite State.fixed, foldl_fixed]

@[simp] theorem flushCtx_fixed (s : State) (c : Nat) : (flushCtx s c).fixed = s.fixed := by
  unfold flushCtx; split <;> simp [foldl_fixed, pushRec_fixed]

@[simp] theorem flushRecords_fixed (s : State) : (flushRecords s).fixed = s.fixed := by
  simp [flushRecords, foldl_fixed]

end Sys2Proof.Machine
end

