-- ==== Sys2Proof/Laws/FixedSched.lean ====
section
/-!
SUPPORT. The operations of Machine/Sched.lean leave the part, the queue and the fuses as they are: one lemma each.
-/
namespace Sys2Proof.Machine
open Sys2Proof

theorem bindView_fixed (s t : State) (w : Who) (v : View) (h : bindView s w v = some t) : t.fixed = s.fixed := by
  cases v <;> simp only [bindView] at h <;> (repeat' split at h) <;> simp_all <;> (subst h; simp)

theorem bindViews_fixed (s t : State) (w : Who) (g : Leg) (h : bindViews s w g = some t) : t.fixed = s.fixed := by
  unfold bindViews at h
  suffices H : ∀ (l : List View) (a : Option State), (∀ u, a = some u → u.fixed = s.fixed) →
      l.foldl (fun a v => a.bind fun s => bindView s w v) a = some t → t.fixed = s.fixed from
    H _ _ (by simp) h
  intro l
  induction l with
  | nil => intro a ha e; exact ha t e
  | cons v r ih =>
    intro a ha e
    refine ih _ (fun u hu => ?_) e
    obtain ⟨b, rfl, hb⟩ := Option.bind_eq_some_iff.mp hu
    rw [bindView_fixed b u w v hb, ha b rfl]

@[simp] theorem startLeg_fixed (s : State) (l : LegRef) (t : Trav) (r : Run) (g : Leg) (w : Who) :
    (startLeg s l t r g w).fixed = s.fixed := by
  unfold startLeg; split <;> simp

@[simp] theorem legDispatch_fixed (s : State) (l : LegRef) :
    (legDispatch s l).fixed = s.fixed := by
  unfold legDispatch; (try dsimp only); (repeat' split) <;> simp
  rename_i h; exact bindViews_fixed _ _ _ _ h

@[simp] theorem nullLeg_fixed (s : State) (l : LegRef) :
    (nullLeg s l).fixed = s.fixed := by
  unfold nullLeg; (repeat' split) <;> simp

@[simp] theorem runStart_fixed (s : State) (c h : Nat) :
    (runStart s c h).fixed = s.fixed := by
  unfold runStart; (repeat' split) <;> simp

@[simp] theorem runDeadline_fixed (s : State) (c h : Nat) :
    (runDeadline s c h).fixed = s.fixed := by
  unfold runDeadline; (repeat' split) <;> simp

@[simp] theorem nextPeriod_fixed (s : State) (c h b : Nat) :
    (nextPeriod s c h b).fixed = s.fixed := by
  unfold nextPeriod; (repeat' split) <;> simp

@[simp] theorem periodBegin_fixed (s : State) (c h : Nat) :
    (periodBegin s c h).fixed = s.fixed := by
  unfold periodBegin; (repeat' split) <;> simp

@[simp] theorem endBusy_fixed (s : State) (c h : Nat) :
    (endBusy s c h).fixed = s.fixed := by
  unfold endBusy; (repeat' split) <;> simp

@[simp] theorem periodBoundary_fixed (s : State) (c h : Nat) :
    (periodBoundary s c h).fixed = s.fixed := by
  unfold periodBoundary; dsimp only; (repeat' split) <;> simp

@[simp] theorem periodSummary_fixed (s : State) (c h : Nat) :
    (periodSummary s c h).fixed = s.fixed := by
  unfold periodSummary; (repeat' split) <;> simp

end Sys2Proof.Machine
end

