-- ==== Sys2Proof/Laws/FixedChain.lean ====
section
/-!
SUPPORT. The operations of Machine/Chain.lean leave the part, the queue and the fuses as they are: one lemma each.
-/
namespace Sys2Proof.Machine
open Sys2Proof

@[simp] theorem applyFx_fixed (s : State) (c q : Nat) (l : List Fx) :
    (applyFx s c q l).fixed = s.fixed := by
  unfold applyFx; (try dsimp only); rw [rescan_fixed, foldl_fixed]; intro s a; cases a <;> dsimp only <;> (try split) <;> simp

@[simp] theorem chainBlockProcess_fixed (s : State) (c h : Nat) :
    (chainBlockProcess s c h).fixed = s.fixed := by
  unfold chainBlockProcess; (repeat' split) <;> simp

@[simp] theorem acceptBlock_fixed (s : State) (k : Nat) (g : Chain) (hd : Bytes) (p : Mem) (tov : Int) :
    (acceptBlock s k g hd p tov).fixed = s.fixed := by
  unfold acceptBlock; dsimp only; (repeat' split) <;> simp

@[simp] theorem checkBlock_fixed (s : State) (k : Nat) (g : Chain) (whole : Bool) (hd : Bytes) (p : Mem) :
    (checkBlock s k g whole hd p).fixed = s.fixed := by
  unfold checkBlock; (repeat' split) <;> simp

@[simp] theorem modSlot_fixed (s : State) (port slot : Nat) (f : Slot → Slot) :
    (modSlot s port slot f).fixed = s.fixed := by
  simp [modSlot]

@[simp] theorem sampleBlockCommit_fixed (s : State) (port slot : Nat) (hd : Bytes) :
    (sampleBlockCommit s port slot hd).fixed = s.fixed := by
  unfold sampleBlockCommit; dsimp only; (repeat' split) <;> simp

@[simp] theorem stagingCopyDone_fixed (s : State) (port slot : Nat) :
    (stagingCopyDone s port slot).fixed = s.fixed := by
  unfold stagingCopyDone; split <;> simp

@[simp] theorem starvationTimeout_fixed (s : State) (c h : Nat) :
    (starvationTimeout s c h).fixed = s.fixed := by
  unfold starvationTimeout; (repeat' split) <;> simp

@[simp] theorem chainBind_fixed (h : CmdHdr) (b : ChainBindBody) (s : State) (x : Ctx) :
    (chainBind h b s x).st.fixed = s.fixed := by
  unfold chainBind; (repeat' split) <;> simp

@[simp] theorem groupCmd_fixed (h : CmdHdr) (n : Nat) (f : State → Chain → State) (s : State) (x : Ctx)
    (hf : ∀ s g, (f s g).fixed = s.fixed) : (groupCmd h n f s x).st.fixed = s.fixed := by
  unfold groupCmd; (repeat' split) <;> simp [hf, CmdRes.refuse]

@[simp] theorem chainStart_fixed (s : State) (g : Chain) :
    (chainStart s g).fixed = s.fixed := by
  simp [chainStart]

@[simp] theorem chainStop_fixed (s : State) (g : Chain) :
    (chainStop s g).fixed = s.fixed := by
  simp [chainStop]

@[simp] theorem endGroup_fixed (s : State) (g : Chain) :
    (endGroup s g).fixed = s.fixed := by
  simp [endGroup]

@[simp] theorem timedClear_fixed (h : CmdHdr) (sync tc : Nat) (s : State) (u4 : Ctx) :
    (timedClear h sync tc s u4).st.fixed = s.fixed := by
  unfold timedClear; dsimp only; (repeat' split) <;> simp [apply_ite State.fixed, foldl_fixed]

@[simp] theorem syncGroupClear_fixed (s : State) (c h : Nat) :
    (syncGroupClear s c h).fixed = s.fixed := by
  unfold syncGroupClear; dsimp only; (repeat' split) <;> simp

@[simp] theorem take_fixed (s : State) (l : LegRef) :
    (take s l).fixed = s.fixed := by
  unfold take; (repeat' split) <;> simp

end Sys2Proof.Machine
end

