-- ==== Sys2Proof/Laws/FixedTime.lean ====
section
/-!
SUPPORT. The operations of Machine/Time.lean leave the part, the queue and the fuses as they are: one lemma each.
-/
namespace Sys2Proof.Machine
open Sys2Proof

@[simp] theorem ptmDialogueStart_fixed (s : State) (p : Nat) :
    (ptmDialogueStart s p).fixed = s.fixed := by
  unfold ptmDialogueStart; dsimp only; (repeat' split) <;> simp

@[simp] theorem timeMapAll_fixed (s : State) (p : Nat) :
    (timeMapAll s p).fixed = s.fixed := by
  simp [timeMapAll]

@[simp] theorem setMapValid_fixed (s : State) (p : Nat) (v : Bool) :
    (setMapValid s p v).fixed = s.fixed := by
  unfold setMapValid; dsimp only; (repeat' split) <;> simp

@[simp] theorem ptmResponse_fixed (s : State) (p t2 d : Nat) :
    (ptmResponse s p t2 d).fixed = s.fixed := by
  unfold ptmResponse; (repeat' split) <;> simp

@[simp] theorem ptmTimeout_fixed (s : State) (p : Nat) :
    (ptmTimeout s p).fixed = s.fixed := by
  unfold ptmTimeout; dsimp only; (repeat' split) <;> simp

@[simp] theorem timeMap_fixed (s : State) (p : Nat) :
    (timeMap s p).fixed = s.fixed := by
  unfold timeMap; dsimp only; (repeat' split) <;> simp

@[simp] theorem timeMapRead_fixed (h : CmdHdr) (p : Nat) (s : State) (u3 : Ctx) :
    (timeMapRead h p s u3).st.fixed = s.fixed := by
  unfold timeMapRead; (repeat' split) <;> simp

@[simp] theorem acceptEdge_fixed (s : State) (te : Nat) :
    (acceptEdge s te).fixed = s.fixed := by
  unfold acceptEdge; simp [apply_ite State.fixed, foldl_fixed]

@[simp] theorem syncInEdge_fixed (s : State) (rising : Bool) (width : Nat) :
    (syncInEdge s rising width).fixed = s.fixed := by
  unfold syncInEdge; dsimp only; (repeat' split) <;> simp

end Sys2Proof.Machine
end

