-- ==== Sys2Proof/Laws/FixedFrames.lean ====
section
/-!
SUPPORT. The operations of Machine/Frames.lean leave the part, the queue and the fuses as they are: one lemma each.
-/
namespace Sys2Proof.Machine
open Sys2Proof

@[simp] theorem dropFrame_fixed (s : State) (k index : Nat) :
    (dropFrame s k index).fixed = s.fixed := by
  simp [dropFrame]

@[simp] theorem supersede_fixed (s : State) (k index : Nat) :
    (supersede s k index).fixed = s.fixed := by
  unfold supersede; dsimp only; (repeat' split) <;> simp

theorem takeBuffer_fixed (s t : State) (k i : Nat) (c : Cam) (h : takeBuffer s k c = some (t, i)) : t.fixed = s.fixed := by
  unfold takeBuffer at h
  simp only [Option.map_eq_some_iff, Prod.mk.injEq] at h
  obtain ⟨j, -, rfl, -⟩ := h
  split <;> simp

@[simp] theorem chooseFill_fixed (s : State) (k : Nat) :
    (chooseFill s k).fixed = s.fixed := by
  unfold chooseFill
  (repeat' split) <;> simp
  rename_i h
  exact takeBuffer_fixed _ _ _ _ _ h

@[simp] theorem bufferWrite_fixed (s : State) (c : Cam) (i off : Nat) (d : Bytes) :
    (bufferWrite s c i off d).fixed = s.fixed := by
  unfold bufferWrite; (repeat' split) <;> simp

@[simp] theorem pixelWrite_fixed (s : State) (k off : Nat) (d : Bytes) :
    (pixelWrite s k off d).fixed = s.fixed := by
  unfold pixelWrite; dsimp only; (repeat' split) <;> simp

@[simp] theorem settleFill_fixed (s : State) (k : Nat) (f : Fill) : (settleFill s k f).1.fixed = s.fixed := by
  unfold settleFill
  (repeat' split) <;> simp [foldl_fixed]
  rename_i h
  exact takeBuffer_fixed _ _ _ _ _ h

@[simp] theorem settleStaged_fixed (k : Nat) (s : State) (i : Nat) : (settleStaged k s i).fixed = s.fixed := by
  unfold settleStaged; (repeat' split) <;> simp

@[simp] theorem settleCam_fixed (s : State) (k : Nat) : (settleCam s k).fixed = s.fixed := by
  unfold settleCam; (repeat' split) <;> simp [foldl_fixed]

@[simp] theorem settleFills_fixed (s : State) : (settleFills s).fixed = s.fixed := by
  simp [settleFills, foldl_fixed]

@[simp] theorem pageWrite_fixed (s : State) (k off : Nat) (d : Bytes) :
    (pageWrite s k off d).fixed = s.fixed := by
  unfold pageWrite; split <;> simp

@[simp] theorem intakeDrop_fixed (s : State) (port : Nat) :
    (intakeDrop s port).fixed = s.fixed := by
  simp [intakeDrop]

@[simp] theorem frameRecordCommit_fixed (s : State) (port window : Nat) (r : Bytes) :
    (frameRecordCommit s port window r).fixed = s.fixed := by
  unfold frameRecordCommit; (repeat' split) <;> simp

@[simp] theorem windowWrite_fixed (s : State) (port w off : Nat) (d : Bytes) :
    (windowWrite s port w off d).fixed = s.fixed := by
  unfold windowWrite; dsimp only; (repeat' split) <;> simp

@[simp] theorem slotsWrite_fixed (s : State) (port off : Nat) (d : Bytes) :
    (slotsWrite s port off d).fixed = s.fixed := by
  unfold slotsWrite; dsimp only; (repeat' split) <;> simp

@[simp] theorem intakeApertureWrite_fixed (s : State) (port off : Nat) (d : Bytes) :
    (intakeApertureWrite s port off d).fixed = s.fixed := by
  unfold intakeApertureWrite; (repeat' split) <;> simp

@[simp] theorem exposureRec_fixed (s : State) (c h : Nat) :
    (exposureRec s c h).fixed = s.fixed := by
  unfold exposureRec; dsimp only; (repeat' split) <;> simp

@[simp] theorem formPairs_fixed (n : Nat) (s : State) (k : Nat) : (formPairs n s k).fixed = s.fixed := by
  induction n generalizing s with
  | zero => simp [formPairs]
  | succ n ih => unfold formPairs; (try dsimp only); (repeat' split) <;> simp [ih]

@[simp] theorem joinPair_fixed (s : State) (k index : Nat) :
    (joinPair s k index).fixed = s.fixed := by
  unfold joinPair; split <;> simp

@[simp] theorem discardFrame_fixed (s : State) (k : Nat) (c : Cam) (r : Bytes) (reason : Nat) :
    (discardFrame s k c r reason).fixed = s.fixed := by
  unfold discardFrame; split <;> simp

@[simp] theorem exposureStep_fixed (s : State) (k : Nat) (c : Cam) (r : Bytes) (mean : Nat) :
    (exposureStep s k c r mean).fixed = s.fixed := by
  unfold exposureStep; dsimp only; (repeat' split) <;> simp

@[simp] theorem acceptFrame_fixed (s : State) (k : Nat) (c : Cam) (r : Bytes) (buf : Nat) (t : FrameStats) (start : Int) :
    (acceptFrame s k c r buf t start).fixed = s.fixed := by
  simp [acceptFrame]

@[simp] theorem frameCheckDone_fixed (s : State) (c h : Nat) :
    (frameCheckDone s c h).fixed = s.fixed := by
  unfold frameCheckDone; dsimp only; (repeat' split) <;> simp

@[simp] theorem frameBind_fixed (h : CmdHdr) (desc camera port mode : Nat) (s : State) (x : Ctx) :
    (frameBind h desc camera port mode s x).st.fixed = s.fixed := by
  unfold frameBind; (repeat' split) <;> simp

@[simp] theorem camCmd_fixed (h : CmdHdr) (n : Nat) (f : State → Nat → Cam → CmdRes) (s : State) (x : Ctx)
    (hf : ∀ s k c, (f s k c).st.fixed = s.fixed) : (camCmd h n f s x).st.fixed = s.fixed := by
  unfold camCmd; (repeat' split) <;> simp [hf, CmdRes.refuse]

@[simp] theorem frameStart_fixed (s : State) (k : Nat) (u2 : Cam) :
    (frameStart s k u2).st.fixed = s.fixed := by
  simp [frameStart]

@[simp] theorem frameStop_fixed (s : State) (k : Nat) (u2 : Cam) :
    (frameStop s k u2).st.fixed = s.fixed := by
  simp [frameStop]

@[simp] theorem endPair_fixed (s : State) (pk : Nat) :
    (endPair s pk).fixed = s.fixed := by
  unfold endPair; split <;> simp

@[simp] theorem endCam_fixed (s : State) (k : Nat) :
    (endCam s k).fixed = s.fixed := by
  unfold endCam; (repeat' split) <;> simp

@[simp] theorem frameUnbind_fixed (s : State) (k : Nat) (c : Cam) :
    (frameUnbind s k c).st.fixed = s.fixed := by
  unfold frameUnbind; dsimp only; (repeat' split) <;> simp

@[simp] theorem exposureControl_fixed (on lag : Nat) (s : State) (k : Nat) (u4 : Cam) :
    (exposureControl on lag s k u4).st.fixed = s.fixed := by
  unfold exposureControl; split <;> simp

@[simp] theorem pairBind_fixed (h : CmdHdr) (b : PairBindBody) (s : State) (x : Ctx) :
    (pairBind h b s x).st.fixed = s.fixed := by
  unfold pairBind; (repeat' split) <;> simp

@[simp] theorem pairUnbind_fixed (h : CmdHdr) (n : Nat) (s : State) (u3 : Ctx) :
    (pairUnbind h n s u3).st.fixed = s.fixed := by
  unfold pairUnbind; (repeat' split) <;> simp

end Sys2Proof.Machine
end

