-- ==== Sys2Proof/Laws/FixedHandoff.lean ====
section
/-!
SUPPORT. The operations of Machine/Handoff.lean leave the part, the queue and the fuses as they are: one lemma each.
-/
namespace Sys2Proof.Machine
open Sys2Proof

theorem takeBand_fixed (s t : State) (l : LegRef) (w : Who) (g : Leg) (p : PxDesc)
    (h : takeBand s l w g p = some t) : t.fixed = s.fixed := by
  unfold takeBand at h
  (repeat' split at h) <;> simp at h
  rw [← h.2]; simp

@[simp] theorem takeBands_fixed (n : Nat) (s : State) (l : LegRef) (w : Who) (g : Leg) (p : PxDesc) :
    (takeBands n s l w g p).fixed = s.fixed := by
  induction n generalizing s with
  | zero => rfl
  | succ n ih =>
    unfold takeBands
    split
    · rw [ih]; exact takeBand_fixed _ _ _ _ _ _ ‹_›
    · rfl

@[simp] theorem putBands_fixed (g : Leg) (l : LegRef) (r : RingDesc) (n : Nat) (band : Nat → List (OpEnt × Nat × Bytes)) (f : Nat)
    (s : State) (k : Nat) : (putBands g l r n band f s k).1.fixed = s.fixed := by
  induction f generalizing s k with
  | zero => rfl
  | succ f ih =>
    unfold putBands
    split
    · rfl
    · split
      · rfl
      · dsimp only
        split
        · split
          · rw [ih]
            obtain ⟨c, _, hc⟩ := Option.bind_eq_some_iff.mp ‹_›
            exact takeBand_fixed _ _ _ _ _ _ hc
          · rfl
        · rw [ih]; simp [foldl_fixed]

end Sys2Proof.Machine
end

