-- ==== Sys2Proof/Laws/FixedTensor.lean ====
section
/-!
SUPPORT. The operations of Machine/Tensor.lean leave the part, the queue and the fuses as they are: one lemma each.
-/
namespace Sys2Proof.Machine
open Sys2Proof

@[simp] theorem produce_fixed (s : State) (l : LegRef) (g : Leg) (x : Step_) (key : Nat) (a : TData) (o : TDesc) :
    (produce s l g x key a o).1.fixed = s.fixed := by
  simp [produce]

@[simp] theorem progStep_fixed (l : LegRef) (w : Who) (g : Leg) (x : Step_) (rest : List Step_) (r : ProgRun) :
    (progStep l w g x rest r).s.fixed = r.s.fixed := by
  unfold progStep
  dsimp only
  split
  · rfl
  · split
    · split <;> split <;> simp [foldl_fixed]
    · rfl

@[simp] theorem progRun_fixed (l : LegRef) (w : Who) (g : Leg) (x : List Step_) (r : ProgRun) :
    (progRun l w g x r).s.fixed = r.s.fixed := by
  induction x generalizing r with
  | nil => rfl
  | cons x rest ih => rw [progRun, ih]; simp

@[simp] theorem tensorLeg_fixed (s : State) (l : LegRef) (r : EngineRun) :
    (tensorLeg s l r).fixed = s.fixed := by
  unfold tensorLeg; dsimp only; (repeat' split) <;> simp [foldl_fixed, freeRanges]

end Sys2Proof.Machine
end

