-- ==== Sys2Proof/Laws/FixedEgo.lean ====
section
/-!
SUPPORT. The operations of Machine/Ego.lean leave the part, the queue and the fuses as they are: one lemma each.
-/
namespace Sys2Proof.Machine
open Sys2Proof

@[simp] theorem egoEvent_fixed (r : EgoRun) (c id type status : Nat) (l : List Fld) :
    (egoEvent r c id type status l).s.fixed = r.s.fixed := by simp [egoEvent]

@[simp] theorem imuStep_fixed (d : Bytes) (c id : Nat) (a : EgoRun × Mat) (e : Int × List Int) :
    (imuStep d c id a e).1.s.fixed = a.1.s.fixed := by
  unfold imuStep
  dsimp only
  split
  · rfl
  · dsimp only
    split <;> simp

@[simp] theorem propagate_fixed (d : Bytes) (c id : Nat) (r : EgoRun) (l : List (Int × List Int)) :
    (propagate d c id r l).s.fixed = r.s.fixed := by
  unfold propagate
  dsimp only
  split
  · rfl
  · exact foldl_keeps (fun a : EgoRun × Mat => a.1.s.fixed) (imuStep d c id) (imuStep_fixed d c id) _ _

@[simp] theorem egoInit_fixed (d : Bytes) (r : EgoRun) (o : Bytes) : (egoInit d r o).s.fixed = r.s.fixed := rfl

@[simp] theorem limitCol_fixed (d : Bytes) (c id : Nat) (r : EgoRun) (e : Nat) :
    (limitCol d c id r e).s.fixed = r.s.fixed := by
  unfold limitCol
  dsimp only
  (repeat' split) <;> simp

@[simp] theorem applyBatch_fixed (d : Bytes) (c id : Nat) (r : EgoRun) (l : List EgoObs) :
    (applyBatch d c id r l).s.fixed = r.s.fixed := by
  unfold applyBatch
  exact foldl_keeps (fun r : EgoRun => r.s.fixed) (limitCol d c id) (limitCol_fixed d c id) _ _

@[simp] theorem sortObs_fixed (d : Bytes) (a : EgoRun × List EgoObs) (o : EgoObs) :
    (sortObs d a o).1.s.fixed = a.1.s.fixed := by
  unfold sortObs
  dsimp only
  (repeat' split) <;> rfl

@[simp] theorem applyObs_fixed (d : Bytes) (c id : Nat) (caps : List Nat) (obs : List EgoObs) (r : EgoRun) :
    (applyObs d c id caps obs r).1.s.fixed = r.s.fixed := by
  unfold applyObs
  dsimp only
  rw [foldl_keeps (fun a : EgoRun × Nat => a.1.s.fixed)]
  · exact foldl_keeps (fun a : EgoRun × List EgoObs => a.1.s.fixed) (sortObs d) (sortObs_fixed d) _ _
  · intro b a
    (try dsimp only)
    split <;> simp

@[simp] theorem writeSink_fixed (d body : Bytes) (r : EgoRun) (j : Nat) : (writeSink d body r j).s.fixed = r.s.fixed := by
  unfold writeSink
  dsimp only
  split <;> simp

@[simp] theorem fixEvents_fixed (d : Bytes) (c id : Nat) (r : EgoRun) (x : FixInfo) :
    (fixEvents d c id r x).s.fixed = r.s.fixed := by
  unfold fixEvents
  dsimp only
  (repeat' split) <;> (first | (simp; done) | (refine (foldl_keeps (fun r : EgoRun => r.s.fixed) _ (fun b a => ?_) _ _).trans ?_ <;> (repeat' split) <;> simp))

@[simp] theorem makeFix_fixed (d : Bytes) (c id : Nat) (r : EgoRun) : (makeFix d c id r).1.s.fixed = r.s.fixed := by
  unfold makeFix
  dsimp only
  generalize fixInfo _ _ = x
  generalize fixBody _ _ _ _ _ _ = body
  simp only [apply_ite EgoRun.s, apply_ite State.fixed, writeSink_fixed, fixed_mk, fixed_eta, fixEvents_fixed, ite_self]

@[simp] theorem setEgo_fixed (s : State) (c : Nat) (e : Ego) :
    (setEgo s c e).fixed = s.fixed := by
  simp [setEgo]

@[simp] theorem egoStart_fixed (s : State) (c : Nat) (d b : Bytes) (obs : List EgoObs) :
    (egoStart s c d b obs).s.fixed = s.fixed := by
  unfold egoStart; dsimp only; split <;> simp

@[simp] theorem egoAdvance_fixed (d : Bytes) (c id : Nat) (take : Option (List (Int × List Int))) (obs : List EgoObs) (caps : List Nat)
    (r : EgoRun) : (egoAdvance d c id take obs caps r).1.s.fixed = r.s.fixed := by
  unfold egoAdvance; dsimp only; split <;> split <;> simp

@[simp] theorem filterFailed_fixed (s : State) (c id reason t : Nat) :
    (filterFailed s c id reason t).fixed = s.fixed := by
  simp [filterFailed]

@[simp] theorem egoWork_fixed (s : State) (l : LegRef) (o : OpEnt) (d b : Bytes) (sel tier : Nat) (take : Option (List (Int × List Int)))
    (obs : List EgoObs) (caps : List Nat) :
    (egoWork s l o d b sel tier take obs caps).fixed = s.fixed := by
  unfold egoWork; dsimp only; (repeat' split) <;> simp

@[simp] theorem egoLeg_fixed (s : State) (l : LegRef) (r : EngineRun) :
    (egoLeg s l r).fixed = s.fixed := by
  unfold egoLeg; dsimp only; (repeat' split) <;> simp

end Sys2Proof.Machine
end

