-- ==== Sys2Proof/Laws/FixedAdjust.lean ====
section
/-!
SUPPORT. The operations of Machine/Adjust.lean leave the part, the queue and the fuses as they are: one lemma each.
-/
namespace Sys2Proof.Machine
open Sys2Proof

@[simp] theorem adjEvent_fixed (s : State) (l : LegRef) (type status : Nat) (p : List Fld) :
    (adjEvent s l type status p).fixed = s.fixed := by
  simp [adjEvent]

@[simp] theorem adjFail_fixed (s : State) (l : LegRef) (iter : Nat) :
    (adjFail s l iter).fixed = s.fixed := by
  simp [adjFail]

@[simp] theorem adjRefuse_fixed (s : State) (l : LegRef) : (adjRefuse s l).fixed = s.fixed := by
  simp [adjRefuse]

@[simp] theorem adjSolveLeg_fixed (s : State) (l : LegRef) (g : Leg) (w : Who) (i : AdjIn) :
    (adjSolveLeg s l g w i).fixed = s.fixed := by
  unfold adjSolveLeg; dsimp only; (repeat' split) <;> simp

@[simp] theorem adjShiftLeg_fixed (s : State) (l : LegRef) (g : Leg) (x : LegRun) (end_ : Option Nat) (i : AdjIn) :
    (adjShiftLeg s l g x end_ i).fixed = s.fixed := by
  unfold adjShiftLeg; split <;> simp

@[simp] theorem adjLeg_fixed (mode : Nat → Bool) (s : State) (l : LegRef) (r : EngineRun) :
    (adjLeg mode s l r).fixed = s.fixed := by
  unfold adjLeg; dsimp only; (repeat' split) <;> simp

end Sys2Proof.Machine
end

