-- ==== Sys2Proof/Laws/FixedRings.lean ====
section
/-!
SUPPORT. The operations of Machine/Rings.lean leave the part, the queue and the fuses as they are: one lemma each.
-/
namespace Sys2Proof.Machine
open Sys2Proof

@[simp] theorem modRing_fixed (s : State) (r : RingId) (f : Ring → Ring) :
    (modRing s r f).fixed = s.fixed := by
  unfold modRing; split <;> simp

@[simp] theorem sweepFail_fixed (s : State) (p : Nat) :
    (sweepFail s p).fixed = s.fixed := by
  simp [sweepFail]

@[simp] theorem writeHalf_fixed (s : State) (period : Nat) (r : RingId) :
    (writeHalf s period r).fixed = s.fixed := by
  unfold writeHalf; dsimp only; (repeat' split) <;> simp

@[simp] theorem adoptSweep_fixed (s : State) (p : Nat) :
    (adoptSweep s p).fixed = s.fixed := by
  unfold adoptSweep; (repeat' split) <;> simp

@[simp] theorem sweepPage_fixed (s : State) (p : Nat) (r : RingId) : (sweepPage s p r).fixed = s.fixed := by
  unfold sweepPage; split <;> simp

@[simp] theorem doorbellSweep_fixed (s : State) (p : Nat) :
    (doorbellSweep s p).fixed = s.fixed := by
  unfold doorbellSweep; simp [apply_ite State.fixed, foldl_fixed]

@[simp] theorem drainHeld_fixed (n : Nat) (s : State) (c : Nat) : (drainHeld n s c).fixed = s.fixed := by
  induction n generalizing s with
  | zero => rfl
  | succ n ih => unfold drainHeld; (repeat' split) <;> simp [ih]

@[simp] theorem tellLost_fixed (s : State) (c : Nat) :
    (tellLost s c).fixed = s.fixed := by
  unfold tellLost; (repeat' split) <;> simp

@[simp] theorem tellSkipped_fixed (s : State) (c : Nat) :
    (tellSkipped s c).fixed = s.fixed := by
  unfold tellSkipped; simp [apply_ite State.fixed, foldl_fixed]

@[simp] theorem newHeads_fixed (s : State) (c cqHead eqHead : Nat) :
    (newHeads s c cqHead eqHead).fixed = s.fixed := by
  simp [newHeads]

@[simp] theorem drainAdmin_fixed (n : Nat) (s : State) (p : Nat) : (drainAdmin n s p).fixed = s.fixed := by
  induction n generalizing s with
  | zero => rfl
  | succ n ih => unfold drainAdmin; dsimp only; (repeat' split) <;> simp [ih]

@[simp] theorem issueFetch_fixed (s : State) (r : RingId) :
    (issueFetch s r).fixed = s.fixed := by
  unfold issueFetch; split <;> simp [apply_ite State.fixed, foldl_fixed]

@[simp] theorem newTail_fixed (s : State) (r : RingId) (tail : Nat) :
    (newTail s r tail).fixed = s.fixed := by
  unfold newTail; dsimp only; (repeat' split) <;> simp

@[simp] theorem sweepReadReturn_fixed (s : State) (r : RingId) (latency : Nat) (d : Option SweepData) :
    (sweepReadReturn s r latency d).fixed = s.fixed := by
  unfold sweepReadReturn; (repeat' split) <;> simp

@[simp] theorem entryFetchReturn_fixed (s : State) (r : RingId) (d : Option (List Bytes)) :
    (entryFetchReturn s r d).fixed = s.fixed := by
  unfold entryFetchReturn; dsimp only; (repeat' split) <;> simp

@[simp] theorem msixTimeThreshold_fixed (s : State) (c : Nat) (k : RingKind) :
    (msixTimeThreshold s c k).fixed = s.fixed := by
  unfold msixTimeThreshold; dsimp only; (repeat' split) <;> simp

@[simp] theorem measureRtt_fixed (s : State) (p : Nat) (reads : List (Option Nat)) :
    (measureRtt s p reads).fixed = s.fixed := by
  unfold measureRtt; simp [apply_ite State.fixed, foldl_fixed]

@[simp] theorem rttMeasure_fixed (s : State) (p : Nat) (reads : List (Option Nat)) :
    (rttMeasure s p reads).fixed = s.fixed := by
  unfold rttMeasure; split <;> simp

@[simp] theorem rttRetry_fixed (s : State) (p : Nat) (reads : List (Option Nat)) :
    (rttRetry s p reads).fixed = s.fixed := by
  unfold rttRetry; (repeat' split) <;> simp

@[simp] theorem rttUpdate_fixed (s : State) (p : Nat) :
    (rttUpdate s p).fixed = s.fixed := by
  unfold rttUpdate; dsimp only; (repeat' split) <;> simp

end Sys2Proof.Machine
end

