-- ==== Sys2Proof/Laws/FixedKeys.lean ====
section
/-!
SUPPORT. The operations of Machine/Keys.lean leave the part, the queue and the fuses as they are: one lemma each.
-/
namespace Sys2Proof.Machine
open Sys2Proof

@[simp] theorem romDerive_fixed (s : State) (i : Image) : (romDerive s i).fixed = s.fixed := by
  unfold romDerive; split <;> simp

@[simp] theorem seedDrbg_fixed (s : State) : (seedDrbg s).fixed = s.fixed := by
  simp [seedDrbg]

@[simp] theorem drawKey_fixed (s : State) (n : Nat) : (drawKey s n).2.fixed = s.fixed := by
  simp [drawKey]

@[simp] theorem sendKeys_fixed (s : State) : (sendKeys s).fixed = s.fixed := by
  simp [sendKeys]

@[simp] theorem openChannel_fixed (s : State) (p : Nat) : (openChannel s p).fixed = s.fixed := by
  simp [openChannel]

@[simp] theorem startPk_fixed (s : State) : (startPk s).fixed = s.fixed := by
  unfold startPk; split <;> simp

@[simp] theorem askPk_fixed (s : State) (l : List PkOp) : (askPk s l).fixed = s.fixed := by
  unfold askPk; dsimp only; split <;> simp

@[simp] theorem settlePk_fixed (s : State) : (settlePk s).fixed = s.fixed := by
  unfold settlePk; split <;> simp

end Sys2Proof.Machine
end

