-- ==== Sys2Proof/Laws/FixedCadastre.lean ====
section
/-!
SUPPORT. The operations of Machine/Cadastre.lean leave the part, the queue and the fuses as they are: one lemma each.
-/
namespace Sys2Proof.Machine
open Sys2Proof

@[simp] theorem checkWear_fixed (s : State) (p : Nat) :
    (checkWear s p).fixed = s.fixed := by
  unfold checkWear; dsimp only; (repeat' split) <;> simp

@[simp] theorem newGroup_fixed (s : State) (p : Nat) (pages : List GPage) (use : GroupUse) (clears took : List Nat) :
    (newGroup s p pages use clears took).fixed = s.fixed := by
  simp [newGroup]

@[simp] theorem relocate_fixed (s : State) (p b : Nat) :
    (relocate s p b).fixed = s.fixed := by
  unfold relocate; dsimp only; (repeat' split) <;> simp

@[simp] theorem retireBlock_fixed (s : State) (p b : Nat) :
    (retireBlock s p b).fixed = s.fixed := by
  simp [retireBlock]

@[simp] theorem mediaFail_fixed (s : State) (p b : Nat) :
    (mediaFail s p b).fixed = s.fixed := by
  simp [mediaFail]

@[simp] theorem nandProgramDone_fixed (s : State) (p group : Nat) (ok : Bool) :
    (nandProgramDone s p group ok).fixed = s.fixed := by
  unfold nandProgramDone; dsimp only; (repeat' split) <;> simp

@[simp] theorem endFlushes_fixed (s : State) (p k : Nat) :
    (endFlushes s p k).fixed = s.fixed := by
  unfold endFlushes; split
  · rfl
  · apply foldl_fixed; intro s a; (repeat' split) <;> simp

@[simp] theorem finishStaged_fixed (s : State) (cmd : Option (Nat × Nat × Nat)) (quiet : Bool) :
    (finishStaged s cmd quiet).fixed = s.fixed := by
  unfold finishStaged; (repeat' split) <;> simp

@[simp] theorem groupDone_fixed (s : State) (p : Nat) (g : Group) :
    (groupDone s p g).fixed = s.fixed := by
  unfold groupDone; split <;> simp

@[simp] theorem groupCommit_fixed (s : State) (p group : Nat) :
    (groupCommit s p group).fixed = s.fixed := by
  unfold groupCommit; (repeat' split) <;> simp

@[simp] theorem eraseDone_fixed (s : State) (p b : Nat) (ok : Bool) :
    (eraseDone s p b ok).fixed = s.fixed := by
  unfold eraseDone; dsimp only; (repeat' split) <;> simp

@[simp] theorem eraseResume_fixed (s : State) (p b : Nat) :
    (eraseResume s p b).fixed = s.fixed := by
  unfold eraseResume; split <;> simp

@[simp] theorem losePage_fixed (s : State) (p lpn : Nat) :
    (losePage s p lpn).fixed = s.fixed := by
  unfold losePage; dsimp only; (repeat' split) <;> simp [apply_ite State.fixed, foldl_fixed]

@[simp] theorem cadastrePageReadDone_fixed (s : State) (p lpn : Nat) (o : PageRead) :
    (cadastrePageReadDone s p lpn o).fixed = s.fixed := by
  unfold cadastrePageReadDone; (repeat' split) <;> simp

@[simp] theorem cadastrePatrol_fixed (s : State) (p b : Nat) (o : PageRead) :
    (cadastrePatrol s p b o).fixed = s.fixed := by
  unfold cadastrePatrol; dsimp only; (repeat' split) <;> simp

@[simp] theorem blockRefresh_fixed (s : State) (p b : Nat) :
    (blockRefresh s p b).fixed = s.fixed := by
  unfold blockRefresh; split <;> simp

@[simp] theorem wearRelocation_fixed (s : State) (p : Nat) :
    (wearRelocation s p).fixed = s.fixed := by
  unfold wearRelocation; dsimp only; (repeat' split) <;> simp

@[simp] theorem checkpointTimer_fixed (s : State) (p : Nat) :
    (checkpointTimer s p).fixed = s.fixed := by
  unfold checkpointTimer; dsimp only; (repeat' split) <;> simp

@[simp] theorem endQuiesce_fixed (s : State) (p : Nat) :
    (endQuiesce s p).fixed = s.fixed := by
  unfold endQuiesce; apply foldl_fixed; intro s a; (try dsimp only); (repeat' split) <;> simp

@[simp] theorem checkpointDone_fixed (s : State) (p : Nat) :
    (checkpointDone s p).fixed = s.fixed := by
  unfold checkpointDone; split <;> simp

@[simp] theorem cadastreQuiesce_fixed (h : CmdHdr) (p : Nat) (s : State) (x : Ctx) :
    (cadastreQuiesce h p s x).st.fixed = s.fixed := by
  unfold cadastreQuiesce; dsimp only; (repeat' split) <;> simp [apply_ite State.fixed, foldl_fixed]

@[simp] theorem cadastreMount_fixed (s : State) (p : Nat) (media : MountMedia) :
    (cadastreMount s p media).fixed = s.fixed := by
  unfold cadastreMount; split <;> simp

end Sys2Proof.Machine
end

