-- ==== Sys2Proof/Laws/FixedObjects.lean ====
section
/-!
SUPPORT. The operations of Machine/Objects.lean leave the part, the queue and the fuses as they are: one lemma each.
-/
namespace Sys2Proof.Machine
open Sys2Proof

@[simp] theorem enterObj_fixed (s : State) (c : Nat) (b : CreateBody) (o : Obj) (base : Nat) :
    (enterObj s c b o base).fixed = s.fixed := by
  unfold enterObj; (repeat' split) <;> simp

@[simp] theorem placeNew_fixed (s : State) (c : Nat) (x : Ctx) (b : CreateBody) :
    (placeNew s c x b).st.fixed = s.fixed := by
  unfold placeNew; dsimp only; (repeat' split) <;> simp

@[simp] theorem objectCreate_fixed (h : CmdHdr) (b : CreateBody) (s : State) (x : Ctx) :
    (objectCreate h b s x).st.fixed = s.fixed := by
  unfold objectCreate; split <;> simp

@[simp] theorem replan_fixed (s : State) (k : Nat) :
    (replan s k).fixed = s.fixed := by
  unfold replan; (repeat' split) <;> simp

@[simp] theorem signalDone_fixed (s : State) (q : Claim) :
    (signalDone s q).fixed = s.fixed := by
  simp [signalDone]

@[simp] theorem meetClaims_fixed (s : State) (k : Nat) :
    (meetClaims s k).fixed = s.fixed := by
  unfold meetClaims; split <;> simp [apply_ite State.fixed, foldl_fixed]

@[simp] theorem dropClaim_fixed (s : State) (k c : Nat) :
    (dropClaim s k c).fixed = s.fixed := by
  unfold dropClaim; split <;> simp [apply_ite State.fixed, foldl_fixed]

@[simp] theorem formWriteBack_fixed (s : State) (k : Nat) :
    (formWriteBack s k).fixed = s.fixed := by
  unfold formWriteBack; dsimp only; (repeat' split) <;> simp

@[simp] theorem moveUnitCopied_fixed (s : State) (p : Nat) :
    (moveUnitCopied s p).fixed = s.fixed := by
  unfold moveUnitCopied; (repeat' split) <;> simp

@[simp] theorem moveComplete_fixed (s : State) (p : Nat) :
    (moveComplete s p).fixed = s.fixed := by
  unfold moveComplete; (repeat' split) <;> simp

@[simp] theorem placeLate_fixed (s : State) (c id : Nat) :
    (placeLate s c id).fixed = s.fixed := by
  unfold placeLate; (repeat' split) <;> simp

@[simp] theorem claimObj_fixed (s : State) (c k tier byTime done : Nat) :
    (claimObj s c k tier byTime done).fixed = s.fixed := by
  simp [claimObj]

@[simp] theorem place_fixed (h : CmdHdr) (id tier byTime done : Nat) (s : State) (x : Ctx) :
    (place h id tier byTime done s x).st.fixed = s.fixed := by
  unfold place; dsimp only; (repeat' split) <;> simp

@[simp] theorem evict_fixed (h : CmdHdr) (id : Nat) (s : State) (u3 : Ctx) :
    (evict h id s u3).st.fixed = s.fixed := by
  unfold evict; (repeat' split) <;> simp

@[simp] theorem archiveWrite_fixed (s : State) (h : CmdHdr) (k : Nat) (o : Obj) (off : Nat) (d : Bytes) :
    (archiveWrite s h k o off d).st.fixed = s.fixed := by
  unfold archiveWrite; dsimp only; (repeat' split) <;> simp

@[simp] theorem objectWrite_fixed (h : CmdHdr) (id off len : Nat) (data : Option Bytes) (s : State) (u6 : Ctx) :
    (objectWrite h id off len data s u6).st.fixed = s.fixed := by
  unfold objectWrite; (repeat' split) <;> simp

@[simp] theorem objectRead_fixed (h : CmdHdr) (id off address len : Nat) (s : State) (x : Ctx) :
    (objectRead h id off address len s x).st.fixed = s.fixed := by
  unfold objectRead; split <;> simp [apply_ite State.fixed, foldl_fixed]

@[simp] theorem flushGroups_fixed (n : Nat) (s : State) (k : Nat) : (flushGroups n s k).fixed = s.fixed := by
  induction n generalizing s with
  | zero => rfl
  | succ n ih => unfold flushGroups; (repeat' split) <;> simp [ih]

@[simp] theorem objectFlush_fixed (h : CmdHdr) (id : Nat) (s : State) (u3 : Ctx) :
    (objectFlush h id s u3).st.fixed = s.fixed := by
  unfold objectFlush; dsimp only; (repeat' split) <;> simp

@[simp] theorem takeBack_fixed (s : State) (p k : Nat) (mine : Group → Bool) :
    (takeBack s p k mine).fixed = s.fixed := by
  unfold takeBack; dsimp only; (repeat' split) <;> simp

@[simp] theorem cancelWrites_fixed (s : State) (p k c : Nat) :
    (cancelWrites s p k c).fixed = s.fixed := by
  unfold cancelWrites; dsimp only; (repeat' split) <;> simp

@[simp] theorem snapFor_fixed (s : State) (k : Nat) (cs : List Nat) : (snapFor s k cs).fixed = s.fixed := by
  unfold snapFor; dsimp only; (repeat' split) <;> simp

@[simp] theorem objectGrant_fixed (h : CmdHdr) (id grantee rights : Nat) (s : State) (u5 : Ctx) :
    (objectGrant h id grantee rights s u5).st.fixed = s.fixed := by
  unfold objectGrant; dsimp only; (repeat' split) <;> simp

@[simp] theorem revokeObj_fixed (s : State) (k c cause : Nat) :
    (revokeObj s k c cause).fixed = s.fixed := by
  unfold revokeObj; (repeat' split) <;> simp

@[simp] theorem objectRevoke_fixed (h : CmdHdr) (id grantee : Nat) (s : State) (u4 : Ctx) :
    (objectRevoke h id grantee s u4).st.fixed = s.fixed := by
  unfold objectRevoke; (repeat' split) <;> simp

@[simp] theorem leaveBehind_fixed (s : State) (k : Nat) (o : Obj) :
    (leaveBehind s k o).fixed = s.fixed := by
  simp [leaveBehind]

@[simp] theorem removeObj_fixed (s : State) (k cause : Nat) (keep : Bool) :
    (removeObj s k cause keep).fixed = s.fixed := by
  unfold removeObj; split <;> simp [apply_ite State.fixed, foldl_fixed]

@[simp] theorem objectDestroy_fixed (h : CmdHdr) (id : Nat) (s : State) (u3 : Ctx) :
    (objectDestroy h id s u3).st.fixed = s.fixed := by
  unfold objectDestroy; (repeat' split) <;> simp

@[simp] theorem objectQuery_fixed (h : CmdHdr) (id : Nat) (s : State) (u3 : Ctx) :
    (objectQuery h id s u3).st.fixed = s.fixed := by
  unfold objectQuery; (repeat' split) <;> simp

end Sys2Proof.Machine
end

