-- ==== Sys2Proof/Laws/FixedStakeCmds.lean ====
section
/-!
SUPPORT. The operations of Machine/StakeCmds.lean leave the part, the queue and the fuses as they are: one lemma each.
-/
namespace Sys2Proof.Machine
open Sys2Proof

@[simp] theorem stakeSet_fixed (h : CmdHdr) (ref value : Nat) (s : State) (x : Ctx) :
    (stakeSet h ref value s x).st.fixed = s.fixed := by
  unfold stakeSet; split <;> simp

@[simp] theorem stakeAddCmd_fixed (h : CmdHdr) (ref amount : Nat) (s : State) (x : Ctx) :
    (stakeAddCmd h ref amount s x).st.fixed = s.fixed := by
  unfold stakeAddCmd; split <;> simp

@[simp] theorem stakeRead_fixed (h : CmdHdr) (ref : Nat) (s : State) (x : Ctx) :
    (stakeRead h ref s x).st.fixed = s.fixed := by
  unfold stakeRead; split <;> simp

@[simp] theorem stakeGrant_fixed (h : CmdHdr) (stake grantee rights : Nat) (s : State) (x : Ctx) :
    (stakeGrant h stake grantee rights s x).st.fixed = s.fixed := by
  unfold stakeGrant; (repeat' split) <;> simp

@[simp] theorem revokeGrant_fixed (s : State) (grantee slot : Nat) :
    (revokeGrant s grantee slot).fixed = s.fixed := by
  simp [revokeGrant]

@[simp] theorem stakeRevoke_fixed (h : CmdHdr) (stake grantee : Nat) (s : State) (x : Ctx) :
    (stakeRevoke h stake grantee s x).st.fixed = s.fixed := by
  unfold stakeRevoke; (repeat' split) <;> simp

@[simp] theorem mark_fixed (h : CmdHdr) (s : State) (u2 : Ctx) :
    (mark h s u2).st.fixed = s.fixed := by
  simp [mark]

@[simp] theorem markCompletion_fixed (s : State) (c : Nat) :
    (markCompletion s c).fixed = s.fixed := by
  unfold markCompletion; (repeat' split) <;> simp

@[simp] theorem flushReadReturn_fixed (s : State) (p : Nat) (ok : Bool) :
    (flushReadReturn s p ok).fixed = s.fixed := by
  unfold flushReadReturn; (repeat' split) <;> simp

end Sys2Proof.Machine
end

