-- ==== Sys2Proof/Laws/FixedParallax.lean ====
section
/-!
SUPPORT. The operations of Machine/Parallax.lean leave the part, the queue and the fuses as they are: one lemma each.
-/
namespace Sys2Proof.Machine
open Sys2Proof

@[simp] theorem pxBad_fixed (s : State) (l : LegRef) (g : Leg) (p : PxDesc) :
    (pxBad s l g p).fixed = s.fixed := by
  simp [pxBad]

@[simp] theorem pxVolume_fixed (s : State) (l : LegRef) (p : PxDesc) (o : OpEnt) (lr : Bytes) (lp : Plane) (rows : List Bytes)
    (tier : Nat) : (pxVolume s l p o lr lp rows tier).fixed = s.fixed := by
  simp [pxVolume]

@[simp] theorem pxCensus_fixed (s : State) (l : LegRef) (p : PxDesc) (o : OpEnt) (lr rr : Bytes) (lp rp : Plane) (tier : Nat) :
    (pxCensus s l p o lr rr lp rp tier).fixed = s.fixed := by
  simp [pxCensus]

@[simp] theorem parallaxLeg_fixed (s : State) (l : LegRef) (r : EngineRun) :
    (parallaxLeg s l r).fixed = s.fixed := by
  unfold parallaxLeg; dsimp only; (repeat' split) <;> first | rfl | simp

end Sys2Proof.Machine
end

