-- ==== Sys2Proof/Laws/FixedResection.lean ====
section
/-!
SUPPORT. The operations of Machine/Resection.lean leave the part, the queue and the fuses as they are: one lemma each.
-/
namespace Sys2Proof.Machine
open Sys2Proof

@[simp] theorem pageLostEvent_fixed (s : State) (l : LegRef) (r : TractRead) :
    (pageLostEvent s l r).fixed = s.fixed := by
  unfold pageLostEvent; split <;> simp

@[simp] theorem wrInbox_fixed (s : State) (v : Service) (off : Nat) (b : Bytes) :
    (wrInbox s v off b).fixed = s.fixed := by
  simp [wrInbox]

@[simp] theorem expireInbox_fixed (s : State) (l : LegRef) (w : Who) (num : Nat) (v : Service) (t n : Nat) :
    (expireInbox s l w num v t n).fixed = s.fixed := by
  induction n generalizing s with
  | zero => rfl
  | succ n ih => unfold expireInbox; dsimp only; split <;> simp [ih]

theorem inboxOwner_fixed (s t : State) (num h : Nat) (e : inboxOwner s num h = some t) : t.fixed = s.fixed := by
  simp only [inboxOwner] at e
  (repeat' split at e) <;> simp_all <;> (subst e; simp)

@[simp] theorem resBad_fixed (s : State) (l : LegRef) (w : Who) (g : Leg) :
    (resBad s l w g).fixed = s.fixed := by
  simp [resBad]

@[simp] theorem searchEnd_fixed (s : State) (l : LegRef) (w : Who) (g : Leg) (d : SDesc) (ix : IDesc) (run : SearchRun) (joined : Option
    (List Nat)) (o : OpEnt) (off : Nat) :
    (searchEnd s l w g d ix run joined o off).fixed = s.fixed := by
  unfold searchEnd; (repeat' split) <;> simp [apply_ite State.fixed, foldl_fixed]

@[simp] theorem searchOwned_fixed (s : State) (l : LegRef) (w : Who) (g : Leg) (d : SDesc) (ix : IDesc) (run : SearchRun) (x : LegRun)
    (out : OpEnt) (num : Nat) (v : Service) : (searchOwned s l w g d ix run x out num v).fixed = s.fixed := by
  unfold searchOwned
  have h := expireInbox_fixed s l w num v x.at_ 64
  generalize expireInbox s l w num v x.at_ 64 = u at h ⊢
  generalize searchTake s w v x.at_ = y
  generalize querySetOk s w d ix = z
  cases y <;> simp only [Option.elim_none, Option.elim_some]
  · rw [finishLeg_fixed, h]
  · split
    · rw [refuseLeg_fixed]
    · rw [searchEnd_fixed, h]

@[simp] theorem searchInbox_fixed (s : State) (l : LegRef) (w : Who) (g : Leg) (d : SDesc) (ix : IDesc) (run : SearchRun) (x : LegRun)
    (o out : OpEnt) : (searchInbox s l w g d ix run x o out).fixed = s.fixed := by
  unfold searchInbox
  split
  · exact refuseLeg_fixed ..
  · split
    · exact refuseLeg_fixed ..
    · exact (searchOwned_fixed ..).trans (inboxOwner_fixed _ _ _ _ ‹_›)

@[simp] theorem searchLeg_fixed (s : State) (l : LegRef) (run : SearchRun) :
    (searchLeg s l run).fixed = s.fixed := by
  unfold searchLeg; dsimp only; (repeat' split) <;> first | rfl | simp

@[simp] theorem searchCutoff_fixed (s : State) (l : LegRef) (joined : List Nat) :
    (searchCutoff s l joined).fixed = s.fixed := by
  unfold searchCutoff; (repeat' split) <;> simp

@[simp] theorem mergeLeg_fixed (s : State) (l : LegRef) (r : EngineRun) :
    (mergeLeg s l r).fixed = s.fixed := by
  unfold mergeLeg; dsimp only; (repeat' split) <;> simp

@[simp] theorem fanStart_fixed (s : State) (l : LegRef) (x : LegRun) (d : SDesc) (out : OpEnt) (rs : List (Nat × Nat × Nat)) (qs : Bytes) :
    (fanStart s l x d out rs qs).fixed = s.fixed := by
  unfold fanStart; simp [apply_ite State.fixed, foldl_fixed]

@[simp] theorem fanOutLeg_fixed (s : State) (l : LegRef) (r : EngineRun) :
    (fanOutLeg s l r).fixed = s.fixed := by
  unfold fanOutLeg; dsimp only; (repeat' split) <;> simp

@[simp] theorem fanOutComplete_fixed (s : State) (l : LegRef) :
    (fanOutComplete s l).fixed = s.fixed := by
  unfold fanOutComplete; split <;> simp [apply_ite State.fixed, foldl_fixed]

@[simp] theorem replyLeg_fixed (s : State) (l : LegRef) (r : EngineRun) :
    (replyLeg s l r).fixed = s.fixed := by
  unfold replyLeg; dsimp only; (repeat' split) <;> simp
  all_goals simp [inboxOwner_fixed _ _ _ _ ‹inboxOwner _ _ _ = some _›]

@[simp] theorem serviceBind_fixed (h : CmdHdr) (b : ServiceBindBody) (s : State) (x : Ctx) :
    (serviceBind h b s x).st.fixed = s.fixed := by
  unfold serviceBind; dsimp only; (repeat' split) <;> simp

@[simp] theorem endService_fixed (s : State) (n : Nat) :
    (endService s n).fixed = s.fixed := by
  unfold endService; split <;> simp

@[simp] theorem serviceUnbind_fixed (h : CmdHdr) (n : Nat) (s : State) (u3 : Ctx) :
    (serviceUnbind h n s u3).st.fixed = s.fixed := by
  unfold serviceUnbind; (repeat' split) <;> simp

end Sys2Proof.Machine
end

