-- ==== Sys2Proof/Laws/FixedTrack.lean ====
section
/-!
SUPPORT. The operations of Machine/Track.lean leave the part, the queue and the fuses as they are: one lemma each.
-/
namespace Sys2Proof.Machine
open Sys2Proof

@[simp] theorem trackWork_fixed (s : State) (l : LegRef) (o out : OpEnt) (k : Nat) (d h ents : Bytes) (f : Filt) (sel gen tier : Nat) :
    (trackWork s l o out k d h ents f sel gen tier).fixed = s.fixed := by
  unfold trackWork; dsimp only; (repeat' split) <;> simp

@[simp] theorem trackLeg_fixed (s : State) (l : LegRef) (r : EngineRun) :
    (trackLeg s l r).fixed = s.fixed := by
  unfold trackLeg; dsimp only; (repeat' split) <;> simp

end Sys2Proof.Machine
end

