-- ==== Sys2Proof/Laws/FixedStops.lean ====
section
/-!
SUPPORT. The operations of Machine/Stops.lean leave the part, the queue and the fuses as they are: one lemma each.
-/
namespace Sys2Proof.Machine
open Sys2Proof

@[simp] theorem spoil_fixed (s : State) (w : Who) (g : Leg) :
    (spoil s w g).fixed = s.fixed := by
  simp [spoil]

@[simp] theorem spoilAll_fixed (s : State) (w : Who) (g : Leg) : (spoilAll s w g).fixed = s.fixed := by
  simp [spoilAll]

@[simp] theorem settleCommit_fixed (s : State) (w : Who) (l : LegRef) (g : Leg) (x : LegRun) (end_ : Option Nat) :
    (settleCommit s w l g x end_).fixed = s.fixed := by
  unfold settleCommit; split <;> simp [foldl_fixed]

@[simp] theorem legAbortDone_fixed (s : State) (l : LegRef) :
    (legAbortDone s l).fixed = s.fixed := by
  unfold legAbortDone; (repeat' split) <;> simp

@[simp] theorem legWatchdogStop_fixed (s : State) (l : LegRef) :
    (legWatchdogStop s l).fixed = s.fixed := by
  unfold legWatchdogStop; (repeat' split) <;> simp

end Sys2Proof.Machine
end

