-- ==== Sys2Proof/Laws/FixedTie.lean ====
section
/-!
SUPPORT. The operations of Machine/Tie.lean leave the part, the queue and the fuses as they are: one lemma each.
-/
namespace Sys2Proof.Machine
open Sys2Proof

@[simp] theorem reroute_fixed (s : State) :
    (reroute s).fixed = s.fixed := by
  unfold reroute; dsimp only; (repeat' split) <;> simp

@[simp] theorem sendRecord_fixed (s : State) (origin : Nat) (x : Topo) (not_ : Option Nat) :
    (sendRecord s origin x not_).fixed = s.fixed := by
  unfold sendRecord; simp [apply_ite State.fixed, foldl_fixed]

@[simp] theorem ownRecord_fixed (s : State) :
    (ownRecord s).fixed = s.fixed := by
  simp [ownRecord]

@[simp] theorem topologyRecordTimer_fixed (s : State) :
    (topologyRecordTimer s).fixed = s.fixed := by
  unfold topologyRecordTimer; split <;> simp

@[simp] theorem releaseWaiting_fixed (n : Nat) (s : State) (k : Nat) : (releaseWaiting n s k).fixed = s.fixed := by
  induction n generalizing s with
  | zero => rfl
  | succ n ih => unfold releaseWaiting; (repeat' split) <;> simp [ih]

@[simp] theorem releaseOutlet_fixed (s : State) (k : Nat) :
    (releaseOutlet s k).fixed = s.fixed := by
  simp [releaseOutlet]

@[simp] theorem dropSent_fixed (s : State) (k tag : Nat) :
    (dropSent s k tag).fixed = s.fixed := by
  simp [dropSent]

@[simp] theorem transferDone_fixed (s : State) (node landing tag reason : Nat) :
    (transferDone s node landing tag reason).fixed = s.fixed := by
  unfold transferDone; (repeat' split) <;> simp

@[simp] theorem ackTimeout_fixed (s : State) (c h tag : Nat) :
    (ackTimeout s c h tag).fixed = s.fixed := by
  unfold ackTimeout; dsimp only; (repeat' split) <;> simp

@[simp] theorem enterHello_fixed (s : State) (t : Nat) :
    (enterHello s t).fixed = s.fixed := by
  simp [enterHello]

@[simp] theorem failRouted_fixed (s : State) (t : Nat) :
    (failRouted s t).fixed = s.fixed := by
  unfold failRouted; simp [apply_ite State.fixed, foldl_fixed]

@[simp] theorem tieLinkDown_fixed (s : State) (t : Nat) (retry : Option Nat) :
    (tieLinkDown s t retry).fixed = s.fixed := by
  unfold tieLinkDown; dsimp only; (repeat' split) <;> simp

@[simp] theorem tieRefuse_fixed (s : State) (t reason node epoch : Nat) :
    (tieRefuse s t reason node epoch).fixed = s.fixed := by
  simp [tieRefuse]

@[simp] theorem tieLightDetect_fixed (s : State) (t lanes : Nat) :
    (tieLightDetect s t lanes).fixed = s.fixed := by
  unfold tieLightDetect; dsimp only; (repeat' split) <;> simp

@[simp] theorem tieLightLoss_fixed (s : State) (t : Nat) :
    (tieLightLoss s t).fixed = s.fixed := by
  unfold tieLightLoss; split <;> simp

@[simp] theorem tieRefusedRetry_fixed (s : State) (t : Nat) :
    (tieRefusedRetry s t).fixed = s.fixed := by
  unfold tieRefusedRetry; split <;> simp

@[simp] theorem tieDownRetry_fixed (s : State) (t : Nat) :
    (tieDownRetry s t).fixed = s.fixed := by
  unfold tieDownRetry; split <;> simp

@[simp] theorem resend_fixed (s : State) (t : Nat) :
    (resend s t).fixed = s.fixed := by
  unfold resend; simp [apply_ite State.fixed, foldl_fixed]

@[simp] theorem tieLevelDone_fixed (s : State) (t : Nat) (good : List Nat) :
    (tieLevelDone s t good).fixed = s.fixed := by
  unfold tieLevelDone; dsimp only; (repeat' split) <;> simp

@[simp] theorem gotHeader_fixed (s : State) (t : Nat) (h : TieHdr) :
    (gotHeader s t h).fixed = s.fixed := by
  simp [gotHeader]

@[simp] theorem gotControl_fixed (s : State) (t : Nat) (h : TieHdr) (len : Nat) :
    (gotControl s t h len).fixed = s.fixed := by
  simp [gotControl]

@[simp] theorem countNak_fixed (s : State) (t : Nat) :
    (countNak s t).fixed = s.fixed := by
  simp [countNak]

@[simp] theorem badFrame_fixed (s : State) :
    (badFrame s).fixed = s.fixed := by
  simp [badFrame]

@[simp] theorem takeFrame_fixed (s : State) (t : Nat) (h : TieHdr) (cls len : Nat) :
    (takeFrame s t h cls len).1.fixed = s.fixed := by
  unfold takeFrame; dsimp only; (repeat' split) <;> simp

@[simp] theorem idleCredit_fixed (s : State) (t : Nat) (h : TieHdr) :
    (idleCredit s t h).fixed = s.fixed := by
  unfold idleCredit; split <;> simp

@[simp] theorem nak_fixed (s : State) (t : Nat) (h : TieHdr) (expected : Nat) :
    (nak s t h expected).fixed = s.fixed := by
  unfold nak; split <;> simp

@[simp] theorem tieReplayTimeout_fixed (s : State) (t : Nat) :
    (tieReplayTimeout s t).fixed = s.fixed := by
  unfold tieReplayTimeout; dsimp only; (repeat' split) <;> simp

@[simp] theorem beginAuth_fixed (s : State) (t : Nat) : (beginAuth s t).fixed = s.fixed := by
  unfold beginAuth; dsimp only; split <;> simp

@[simp] theorem endAuth_fixed (s : State) (t : Nat) (ok : Bool) : (endAuth s t ok).fixed = s.fixed := by
  unfold endAuth; dsimp only; split <;> simp

@[simp] theorem hello_fixed (s : State) (t : Nat) (h : TieHdr) (node epoch : Nat) (grants : List Nat) :
    (hello s t h node epoch grants).fixed = s.fixed := by
  unfold hello; dsimp only; (repeat' split) <;> first | rfl | simp

@[simp] theorem auth_fixed (s : State) (t : Nat) (h : TieHdr) (done : Option PeerAuth) :
    (auth s t h done).fixed = s.fixed := by
  unfold auth; cases done <;> simp [apply_ite State.fixed]

@[simp] theorem topology_fixed (s : State) (t : Nat) (h : TieHdr) (origin n0 n1 rseq : Nat) :
    (topology s t h origin n0 n1 rseq).fixed = s.fixed := by
  unfold topology; dsimp only; (repeat' split) <;> simp

@[simp] theorem unknownFrame_fixed (s : State) (t : Nat) (h : TieHdr) (len : Nat) :
    (unknownFrame s t h len).fixed = s.fixed := by
  unfold unknownFrame; dsimp only; (repeat' split) <;> simp

@[simp] theorem tieFrameForward_fixed (s : State) (t : Nat) (h : TieHdr) (type : Nat) (msg payload : Bytes) :
    (tieFrameForward s t h type msg payload).fixed = s.fixed := by
  unfold tieFrameForward; dsimp only; (repeat' split) <;> first | rfl | simp

@[simp] theorem landingBind_fixed (h : CmdHdr) (n obj arrive : Nat) (s : State) (x : Ctx) :
    (landingBind h n obj arrive s x).st.fixed = s.fixed := by
  unfold landingBind; split <;> simp

@[simp] theorem landingUnbind_fixed (h : CmdHdr) (n : Nat) (s : State) (u3 : Ctx) :
    (landingUnbind h n s u3).st.fixed = s.fixed := by
  unfold landingUnbind; (repeat' split) <;> simp

@[simp] theorem outletBind_fixed (h : CmdHdr) (obj node landing off : Nat) (s : State) (u6 : Ctx) :
    (outletBind h obj node landing off s u6).st.fixed = s.fixed := by
  unfold outletBind; (repeat' split) <;> simp

@[simp] theorem endOutlet_fixed (s : State) (k : Nat) :
    (endOutlet s k).fixed = s.fixed := by
  unfold endOutlet; split <;> simp [foldl_fixed]

@[simp] theorem outletUnbind_fixed (h : CmdHdr) (n : Nat) (s : State) (u3 : Ctx) :
    (outletUnbind h n s u3).st.fixed = s.fixed := by
  unfold outletUnbind; split <;> simp

@[simp] theorem endTransfer_fixed (s : State) (x : Xfer) :
    (endTransfer s x).fixed = s.fixed := by
  unfold endTransfer; (repeat' split) <;> simp

@[simp] theorem bulkWrite_fixed (s : State) (t : Nat) (h : TieHdr) (landing : Nat) (first last : Bool) (tag off : Nat) (d : Bytes) (bad :
    Bool) :
    (bulkWrite s t h landing first last tag off d bad).fixed = s.fixed := by
  unfold bulkWrite; dsimp only; (repeat' split) <;> simp

@[simp] theorem bulkAck_fixed (s : State) (t : Nat) (h : TieHdr) (landing tag : Nat) :
    (bulkAck s t h landing tag).fixed = s.fixed := by
  unfold bulkAck; dsimp only; (repeat' split) <;> simp

@[simp] theorem lateFault_fixed (s : State) (t : Nat) (h : TieHdr) (landing reason tag : Nat) :
    (lateFault s t h landing reason tag).fixed = s.fixed := by
  unfold lateFault; dsimp only; (repeat' split) <;> simp

@[simp] theorem refuseQuery_fixed (s : State) (node service tag qtag reason : Nat) :
    (refuseQuery s node service tag qtag reason).fixed = s.fixed := by
  unfold refuseQuery; dsimp only; (repeat' split) <;> simp

@[simp] theorem queryArrives_fixed (s : State) (node service tag budget : Nat) (q : Bytes) :
    (queryArrives s node service tag budget q).fixed = s.fixed := by
  unfold queryArrives; dsimp only; (repeat' split) <;> simp

@[simp] theorem query_fixed (s : State) (t : Nat) (h : TieHdr) (service : Nat) (first last : Bool) (tag budget : Nat) (d : Bytes) :
    (query s t h service first last tag budget d).fixed = s.fixed := by
  unfold query; dsimp only; (repeat' split) <;> simp

@[simp] theorem replyReceived_fixed (s : State) (t : Nat) (h : TieHdr) (first last : Bool) (tag off : Nat) (d : Bytes) :
    (replyReceived s t h first last tag off d).fixed = s.fixed := by
  unfold replyReceived; dsimp only; (repeat' split) <;> simp

end Sys2Proof.Machine
end

