-- ==== Sys2Proof/Laws/FixedTraverses.lean ====
section
/-!
SUPPORT. The operations of Machine/Traverses.lean leave the part, the queue and the fuses as they are: one lemma each.
-/
namespace Sys2Proof.Machine
open Sys2Proof

@[simp] theorem loadTraverse_fixed (h : CmdHdr) (length : Nat) (image : Option Bytes) (s : State) (x : Ctx) :
    (loadTraverse h length image s x).st.fixed = s.fixed := by
  unfold loadTraverse; (repeat' split) <;> simp

@[simp] theorem refuseTrav_fixed (s : State) (handle : Nat) :
    (refuseTrav s handle).st.fixed = s.fixed := by
  simp [refuseTrav]

@[simp] theorem freeInbox_fixed (s : State) (c handle : Nat) : (freeInbox s c handle).fixed = s.fixed := by
  simp [freeInbox]

@[simp] theorem unloadTraverse_fixed (h : CmdHdr) (handle : Nat) (s : State) (u3 : Ctx) :
    (unloadTraverse h handle s u3).st.fixed = s.fixed := by
  unfold unloadTraverse; (repeat' split) <;> simp

@[simp] theorem runTraverse_fixed (h : CmdHdr) (handle start deadline : Nat) (s : State) (u5 : Ctx) :
    (runTraverse h handle start deadline s u5).st.fixed = s.fixed := by
  unfold runTraverse; (repeat' split) <;> simp

@[simp] theorem armPeriodic_fixed (h : CmdHdr) (handle period b0 count : Nat) (s : State) (u6 : Ctx) :
    (armPeriodic h handle period b0 count s u6).st.fixed = s.fixed := by
  unfold armPeriodic; (repeat' split) <;> simp

@[simp] theorem disarm_fixed (h : CmdHdr) (handle : Nat) (s : State) (u3 : Ctx) :
    (disarm h handle s u3).st.fixed = s.fixed := by
  unfold disarm; (repeat' split) <;> simp

@[simp] theorem cancel_fixed (h : CmdHdr) (handle : Nat) (s : State) (u3 : Ctx) :
    (cancel h handle s u3).st.fixed = s.fixed := by
  unfold cancel; (repeat' split) <;> simp

end Sys2Proof.Machine
end

