-- ==== Sys2Proof/Laws/FixedContexts.lean ====
section
/-!
SUPPORT. The operations of Machine/Contexts.lean leave the part, the queue and the fuses as they are: one lemma each.
-/
namespace Sys2Proof.Machine
open Sys2Proof

@[simp] theorem abortAll_fixed (s : State) (c : Nat) :
    (abortAll s c).fixed = s.fixed := by
  unfold abortAll; simp [apply_ite State.fixed, foldl_fixed]

@[simp] theorem revokeGiven_fixed (s : State) (c : Nat) :
    (revokeGiven s c).fixed = s.fixed := by
  unfold revokeGiven; simp [apply_ite State.fixed, foldl_fixed]

@[simp] theorem releaseCrew_fixed (s : State) (x : Ctx) :
    (releaseCrew s x).fixed = s.fixed := by
  unfold releaseCrew; apply foldl_fixed; intro s a; (repeat' split) <;> simp

@[simp] theorem unbindAll_fixed (s : State) (c : Nat) :
    (unbindAll s c).fixed = s.fixed := by
  unfold unbindAll; simp [apply_ite State.fixed, foldl_fixed]

@[simp] theorem leaveObjects_fixed (s : State) (c : Nat) :
    (leaveObjects s c).fixed = s.fixed := by
  unfold leaveObjects; simp [apply_ite State.fixed, foldl_fixed]

@[simp] theorem releaseObjects_fixed (s : State) (c : Nat) :
    (releaseObjects s c).fixed = s.fixed := by
  unfold releaseObjects; simp [apply_ite State.fixed, foldl_fixed]

@[simp] theorem detachHolding_fixed (s : State) (k : Nat) :
    (detachHolding s k).fixed = s.fixed := by
  simp [detachHolding]

@[simp] theorem leaveMonument_fixed (s : State) (c : Nat) :
    (leaveMonument s c).fixed = s.fixed := by
  unfold leaveMonument; simp [apply_ite State.fixed, foldl_fixed]

@[simp] theorem tdiError_fixed (s : State) (p vf cause : Nat) :
    (tdiError s p vf cause).fixed = s.fixed := by
  simp [tdiError]

@[simp] theorem closeCtx_fixed (s : State) (c cause : Nat) :
    (closeCtx s c cause).fixed = s.fixed := by
  unfold closeCtx; (repeat' split) <;> simp

@[simp] theorem openIn_fixed (s : State) (p c : Nat) (b : OpenBody) (crew : List CrewSlot) :
    (openIn s p c b crew).st.fixed = s.fixed := by
  unfold openIn; simp [apply_ite State.fixed, foldl_fixed]

@[simp] theorem openContext_fixed (h : AdmHdr) (b : OpenBody) (s : State) :
    (openContext h b s).st.fixed = s.fixed := by
  unfold openContext; dsimp only; (repeat' split) <;> simp

@[simp] theorem notTerminal_fixed (body : State → CmdRes) (s : State) (hb : ∀ s, (body s).st.fixed = s.fixed) :
    (notTerminal body s).st.fixed = s.fixed := by
  unfold notTerminal; split <;> simp [hb, CmdRes.refuse]

@[simp] theorem closeContext_fixed (h : AdmHdr) (c : Nat) (s : State) :
    (closeContext h c s).st.fixed = s.fixed := by
  unfold closeContext; (repeat' split) <;> simp

@[simp] theorem queryContexts_fixed (s : State) :
    (queryContexts s).st.fixed = s.fixed := by
  simp [queryContexts]

@[simp] theorem unknownOpcode_fixed (s : State) (r : RingId) (tag flags : Nat) :
    (unknownOpcode s r tag flags).fixed = s.fixed := by
  unfold unknownOpcode; split <;> simp

@[simp] theorem stationZeroingDone_fixed (s : State) (p n : Nat) :
    (stationZeroingDone s p n).fixed = s.fixed := by
  unfold stationZeroingDone; split <;> simp

end Sys2Proof.Machine
end

