-- ==== Sys2Proof/Laws/FixedSettings.lean ====
section
/-!
SUPPORT. The operations of Machine/Settings.lean leave the part, the queue and the fuses as they are: one lemma each.
-/
namespace Sys2Proof.Machine
open Sys2Proof

@[simp] theorem loadSettings_fixed (s : State) :
    (loadSettings s).fixed = s.fixed := by
  unfold loadSettings; simp [apply_ite State.fixed, foldl_fixed]

@[simp] theorem storeSetting_fixed (s : State) (key v : Nat) :
    (storeSetting s key v).fixed = s.fixed := by
  simp [storeSetting]

@[simp] theorem settingDurable_fixed (s : State) (key : Nat) :
    (settingDurable s key).fixed = s.fixed := by
  unfold settingDurable; (repeat' split) <;> simp

@[simp] theorem defaultSettings_fixed (s : State) :
    (defaultSettings s).fixed = s.fixed := by
  simp [defaultSettings]

end Sys2Proof.Machine
end

