-- ==== Sys2Proof/Laws/FixedMonument.lean ====
section
/-!
SUPPORT. The operations of Machine/Monument.lean leave the part, the queue and the fuses as they are: one lemma each.
-/
namespace Sys2Proof.Machine
open Sys2Proof

@[simp] theorem haltLegs_fixed (s : State) :
    (haltLegs s).fixed = s.fixed := by
  unfold haltLegs; simp [apply_ite State.fixed, foldl_fixed]

@[simp] theorem endTerminal_fixed (s : State) (e : Nat × Ctx) :
    (endTerminal s e).fixed = s.fixed := by
  unfold endTerminal; split <;> simp

@[simp] theorem tiesDown_fixed (s : State) :
    (tiesDown s).fixed = s.fixed := by
  unfold tiesDown; simp [apply_ite State.fixed, foldl_fixed]

@[simp] theorem attach_fixed (s : State) (c k : Nat) (x : Holding) :
    (attach s c k x).st.fixed = s.fixed := by
  simp [attach]

@[simp] theorem attachExisting_fixed (s : State) (c name : Nat) (v : Option Bytes) :
    (attachExisting s c name v).st.fixed = s.fixed := by
  unfold attachExisting; (repeat' split) <;> simp

@[simp] theorem attachNew_fixed (s : State) (c name : Nat) (v : Bytes) :
    (attachNew s c name v).st.fixed = s.fixed := by
  unfold attachNew; dsimp only; (repeat' split) <;> simp

@[simp] theorem holdingAttach_fixed (h : CmdHdr) (name auth : Nat) (create : Bool) (s : State) (u5 : Ctx) :
    (holdingAttach h name auth create s u5).st.fixed = s.fixed := by
  unfold holdingAttach; cases authValue s h.ctx auth name <;> dsimp only <;> (repeat' split) <;> simp

@[simp] theorem holdingDetach_fixed (h : CmdHdr) (k : Nat) (s : State) (u3 : Ctx) :
    (holdingDetach h k s u3).st.fixed = s.fixed := by
  unfold holdingDetach; split <;> simp [apply_ite State.fixed, foldl_fixed]

@[simp] theorem setEngine_fixed (s : State) (e : SharedEngine) (x : SharedEng) :
    (setEngine s e x).fixed = s.fixed := by
  unfold setEngine; split <;> simp

@[simp] theorem engineAsk_fixed (s : State) (e : SharedEngine) (c : Nat) (msg : Bytes) (w : EngWork) :
    (engineAsk s e c msg w).fixed = s.fixed := by
  simp [engineAsk]

@[simp] theorem askHash_fixed (s : State) (c : Nat) (msg : Bytes) : (askHash s c msg).fixed = s.fixed := by
  simp [askHash]

@[simp] theorem askGcm_fixed (s : State) (c : Nat) (key nonce aad msg : Bytes) : (askGcm s c key nonce aad msg).fixed = s.fixed := by
  simp [askGcm]

@[simp] theorem updateCmd_fixed (body : State → Ctx → CmdRes) (s : State) (x : Ctx)
    (hb : ∀ s x, (body s x).st.fixed = s.fixed) : (updateCmd body s x).st.fixed = s.fixed := by
  unfold updateCmd; split <;> simp [hb, CmdRes.refuse]

@[simp] theorem stage_fixed (s : State) (h : CmdHdr) (a : StageAct) :
    (stage s h a).st.fixed = s.fixed := by
  simp [stage]

@[simp] theorem updateBegin_fixed (h : CmdHdr) (replace : Bool) (manifest : Option Bytes) (proof : ManifestProof) (s : State)
    (u5 : Ctx) : (updateBegin h replace manifest proof s u5).st.fixed = s.fixed := by
  unfold updateBegin; dsimp only; (repeat' split) <;> simp

@[simp] theorem updateParcel_fixed (h : CmdHdr) (len : Nat) (parcel : Option Bytes) (s : State) (u5 : Ctx) :
    (updateParcel h len parcel s u5).st.fixed = s.fixed := by
  unfold updateParcel; dsimp only; (repeat' split) <;> simp

@[simp] theorem parcelDone_fixed (s : State) (c : Nat) (found : Bytes) :
    (parcelDone s c found).fixed = s.fixed := by
  unfold parcelDone; dsimp only; (repeat' split) <;> simp

@[simp] theorem sharedEngineChunkDone_fixed (s : State) (e : SharedEngine) :
    (sharedEngineChunkDone s e).fixed = s.fixed := by
  unfold sharedEngineChunkDone; dsimp only; (repeat' split) <;> simp

@[simp] theorem updateStatus_fixed (s : State) (u1 : Ctx) :
    (updateStatus s u1).st.fixed = s.fixed := by
  simp [updateStatus]

@[simp] theorem imageVerifyDone_fixed (s : State) (readOk : Bool) :
    (imageVerifyDone s readOk).fixed = s.fixed := by
  unfold imageVerifyDone; (repeat' split) <;> simp

@[simp] theorem updateArm_fixed (h : CmdHdr) (image : Nat) (readBack : Bool) (s : State) (u4 : Ctx) :
    (updateArm h image readBack s u4).st.fixed = s.fixed := by
  unfold updateArm; (repeat' split) <;> simp

@[simp] theorem updateAbandon_fixed (h : CmdHdr) (image : Nat) (s : State) (u3 : Ctx) :
    (updateAbandon h image s u3).st.fixed = s.fixed := by
  unfold updateAbandon; split <;> simp

@[simp] theorem holdPlat_fixed (s : State) (p : Nat) :
    (holdPlat s p).fixed = s.fixed := by
  simp [holdPlat]

@[simp] theorem updateActivate_fixed (h : CmdHdr) (image : Nat) (s : State) (u3 : Ctx) :
    (updateActivate h image s u3).st.fixed = s.fixed := by
  unfold updateActivate; (repeat' split) <;> simp

@[simp] theorem endSessions_fixed (s : State) :
    (endSessions s).fixed = s.fixed := by
  unfold endSessions; simp [apply_ite State.fixed, foldl_fixed]

@[simp] theorem platSwitchBegin_fixed (s : State) (p : Nat) :
    (platSwitchBegin s p).fixed = s.fixed := by
  unfold platSwitchBegin; (repeat' split) <;> simp

@[simp] theorem checkSettings_fixed (s : State) (i : Image) :
    (checkSettings s i).fixed = s.fixed := by
  unfold checkSettings; split <;> simp

@[simp] theorem startBurn_fixed (s : State) (svn : Nat) :
    (startBurn s svn).fixed = s.fixed := by
  unfold startBurn; split <;> simp

@[simp] theorem endActivation_fixed (s : State) (i : Image) :
    (endActivation s i).fixed = s.fixed := by
  unfold endActivation; dsimp only; rw [foldl_fixed]; · simp
  intro s a; (repeat' split) <;> simp

@[simp] theorem nextHold_fixed (s : State) (p : Nat) (i : Image) :
    (nextHold s p i).fixed = s.fixed := by
  unfold nextHold; split <;> simp

@[simp] theorem newMonument_fixed (s : State) (i : Image) : (newMonument s i).fixed = s.fixed := by
  simp [newMonument, foldl_fixed]

@[simp] theorem platActivated_fixed (s : State) (p : Nat) :
    (platActivated s p).fixed = s.fixed := by
  unfold platActivated; (repeat' split) <;> simp

@[simp] theorem fieldLock_fixed (h : CmdHdr) (word : Nat) (s : State) (x : Ctx) :
    (fieldLock h word s x).st.fixed = s.fixed := by
  unfold fieldLock; split <;> simp

end Sys2Proof.Machine
end

