-- ==== Sys2Proof/Laws/FixedSpdm.lean ====
section
/-!
SUPPORT. The operations of Machine/Spdm.lean leave the part, the queue and the fuses as they are: one lemma each.
-/
namespace Sys2Proof.Machine
open Sys2Proof

@[simp] theorem spdmReply_fixed (s : State) (r : Responder) (row : Nat) (body : State → State × SpdmResp)
    (hb : ∀ s, (body s).1.fixed = s.fixed) : (spdmReply s r row body).fixed = s.fixed := by
  unfold spdmReply; (repeat' split) <;> simp [hb]

@[simp] theorem spdmAsk_fixed (s : State) (a : Asker) (row : Nat) (body : State → State × SpdmResp)
    (hb : ∀ s, (body s).1.fixed = s.fixed) : (spdmAsk s a row body).fixed = s.fixed := by
  unfold spdmAsk; apply spdmReply_fixed; intro s; split <;> simp [hb]

@[simp] theorem aliasSign_fixed (s : State) : (aliasSign s).2.fixed = s.fixed := by
  simp [aliasSign]

@[simp] theorem challengeAnswer_fixed (slot : Nat) (s : State) : (challengeAnswer slot s).1.fixed = s.fixed := by
  unfold challengeAnswer; split <;> simp

@[simp] theorem measOf_fixed (l : List (Nat × Bytes)) (signed : Bool) (s : State) : (measOf l signed s).1.fixed = s.fixed := by
  unfold measOf; split <;> simp

@[simp] theorem measAnswer_fixed (index : Nat) (signed : Bool) (s : State) : (measAnswer index signed s).1.fixed = s.fixed := by
  unfold measAnswer; dsimp only; (repeat' split) <;> simp

@[simp] theorem modSession_fixed (s : State) (n : Nat) (f : Session → Session) : (modSession s n f).fixed = s.fixed := by
  simp [modSession]

@[simp] theorem only_fixed (a : State → SpdmResp) (s : State) :
    (only a s).1.fixed = s.fixed := by
  simp [only]

@[simp] theorem keyExchange_fixed (a : Asker) (mutualAuth : Bool) (s : State) :
    (keyExchange a mutualAuth s).1.fixed = s.fixed := by
  unfold keyExchange; dsimp only; (repeat' split) <;> simp

@[simp] theorem dropSession_fixed (s : State) (n : Nat) :
    (dropSession s n).fixed = s.fixed := by
  simp [dropSession]

@[simp] theorem finishSession_fixed (r : Responder) (n : Nat) (ok : Bool) (s : State) :
    (finishSession r n ok s).1.fixed = s.fixed := by
  unfold finishSession; dsimp only; (repeat' split) <;> simp

@[simp] theorem keyUpdate_fixed (r : Responder) (n : Nat) (s : State) :
    (keyUpdate r n s).1.fixed = s.fixed := by
  unfold keyUpdate; dsimp only; (repeat' split) <;> simp

@[simp] theorem sessionGone_fixed (s : State) (r : Responder) (n : Nat) :
    (sessionGone s r n).fixed = s.fixed := by
  unfold sessionGone; split <;> simp [apply_ite State.fixed, foldl_fixed]

@[simp] theorem endSession_fixed (r : Responder) (n : Nat) (s : State) :
    (endSession r n s).1.fixed = s.fixed := by
  unfold endSession; split <;> simp

@[simp] theorem ringAnswer_fixed (b : Bytes) (s : State) : (ringAnswer b s).1.fixed = s.fixed := by
  unfold ringAnswer; (repeat' split) <;> simp

@[simp] theorem spdmExchange_fixed (h : CmdHdr) (cap address : Nat) (request : Option Bytes) (s : State) (x : Ctx) :
    (spdmExchange h cap address request s x).st.fixed = s.fixed := by
  unfold spdmExchange; dsimp only; (repeat' split) <;> simp

@[simp] theorem vendorAsk_fixed (s : State) (p n : Nat) (outside : SpdmResp) (body : State → State × SpdmResp)
    (hb : ∀ s, (body s).1.fixed = s.fixed) : (vendorAsk s p n outside body).fixed = s.fixed := by
  unfold vendorAsk; apply spdmReply_fixed; intro s; split <;> simp [hb]

@[simp] theorem keyProg_fixed (p n stream : Nat) (sel : Option Fn) (key : Bytes) (s : State) :
    (keyProg p n stream sel key s).1.fixed = s.fixed := by
  unfold keyProg; dsimp only; (repeat' split) <;> simp

@[simp] theorem keySet_fixed (p stream code : Nat) (on : Bool) (s : State) :
    (keySet p stream code on s).1.fixed = s.fixed := by
  unfold keySet; split <;> simp

@[simp] theorem ideFailure_fixed (s : State) (p stream : Nat) :
    (ideFailure s p stream).fixed = s.fixed := by
  unfold ideFailure; split <;> simp [apply_ite State.fixed, foldl_fixed]

@[simp] theorem setTdi_fixed (s : State) (c : Nat) (t : Tdi) (stream : Option Nat) (session : Nat) :
    (setTdi s c t stream session).fixed = s.fixed := by
  simp [setTdi]

@[simp] theorem tdispAsk_fixed (s : State) (p n vf : Nat) (body : State → State × SpdmResp)
    (hb : ∀ s, (body s).1.fixed = s.fixed) : (tdispAsk s p n vf body).fixed = s.fixed := by
  unfold tdispAsk; apply vendorAsk_fixed; intro s; split <;> simp [hb]

@[simp] theorem lockInterface_fixed (p n vf : Nat) (s : State) :
    (lockInterface p n vf s).1.fixed = s.fixed := by
  unfold lockInterface; (repeat' split) <;> simp

@[simp] theorem startInterface_fixed (p vf : Nat) (s : State) :
    (startInterface p vf s).1.fixed = s.fixed := by
  unfold startInterface; (repeat' split) <;> simp

@[simp] theorem stopInterface_fixed (p vf : Nat) (s : State) :
    (stopInterface p vf s).1.fixed = s.fixed := by
  unfold stopInterface; dsimp only; (repeat' split) <;> simp

@[simp] theorem doeDiscovery_fixed (s : State) (p : Nat) (f : Fn) (index : Nat) :
    (doeDiscovery s p f index).fixed = s.fixed := by
  unfold doeDiscovery; dsimp only; (repeat' split) <;> simp

end Sys2Proof.Machine
end

