-- ==== Sys2Proof/Laws/FixedHostPort.lean ====
section
/-!
SUPPORT. The operations of Machine/HostPort.lean leave the part, the queue and the fuses as they are: one lemma each.
-/
namespace Sys2Proof.Machine
open Sys2Proof

@[simp] theorem startLevel_fixed (s : State) (p : Nat) :
    (startLevel s p).fixed = s.fixed := by
  simp [startLevel]

@[simp] theorem levelRun_fixed (s : State) (p : PortRef) (short : Bool) :
    (levelRun s p short).fixed = s.fixed := by
  unfold levelRun; (repeat' split) <;> simp

@[simp] theorem tellLane_fixed (s : State) (p : PortRef) :
    (tellLane s p).fixed = s.fixed := by
  simp [tellLane]

@[simp] theorem hostLanes_fixed (s : State) (p : Nat) (good : List Nat) :
    (hostLanes s p good).fixed = s.fixed := by
  unfold hostLanes; dsimp only; (repeat' split) <;> simp

@[simp] theorem hostDown_fixed (s : State) (p : Nat) :
    (hostDown s p).fixed = s.fixed := by
  simp [hostDown]

@[simp] theorem mapLanes_fixed (s : State) (p : PortRef) (l : List Nat) :
    (mapLanes s p l).fixed = s.fixed := by
  unfold mapLanes; dsimp only; (repeat' split) <;> simp

@[simp] theorem levelRunDone_fixed (s : State) (p : PortRef) (rx : List LaneRx) :
    (levelRunDone s p rx).fixed = s.fixed := by
  unfold levelRunDone; dsimp only; split <;> simp

@[simp] theorem levelRunRetry_fixed (s : State) (p : Nat) :
    (levelRunRetry s p).fixed = s.fixed := by
  unfold levelRunRetry; dsimp only; (repeat' split) <;> simp

@[simp] theorem sendAllPending_fixed (s : State) (p : Nat) :
    (sendAllPending s p).fixed = s.fixed := by
  unfold sendAllPending; simp [apply_ite State.fixed, foldl_fixed]

@[simp] theorem linkL0_fixed (s : State) (p width : Nat) (fast : Bool) :
    (linkL0 s p width fast).fixed = s.fixed := by
  unfold linkL0; split <;> simp

@[simp] theorem laneFault_fixed (s : State) (p : PortRef) (lane : Nat) :
    (laneFault s p lane).fixed = s.fixed := by
  unfold laneFault; (repeat' split) <;> simp

@[simp] theorem dlDown_fixed (s : State) (p : Nat) :
    (dlDown s p).fixed = s.fixed := by
  unfold dlDown; split <;> simp

@[simp] theorem portResumed_fixed (s : State) (p : Nat) :
    (portResumed s p).fixed = s.fixed := by
  unfold portResumed; dsimp only; (repeat' split) <;> simp

@[simp] theorem resetPf_fixed (s : State) (p cause : Nat) :
    (resetPf s p cause).fixed = s.fixed := by
  unfold resetPf; simp [apply_ite State.fixed, foldl_fixed]

@[simp] theorem linkGraceExpire_fixed (s : State) (p : Nat) :
    (linkGraceExpire s p).fixed = s.fixed := by
  unfold linkGraceExpire; (repeat' split) <;> simp

@[simp] theorem flrVf_fixed (s : State) (p v : Nat) :
    (flrVf s p v).fixed = s.fixed := by
  unfold flrVf; (repeat' split) <;> simp

@[simp] theorem flrPf_fixed (s : State) (p : Nat) (hot : Bool) :
    (flrPf s p hot).fixed = s.fixed := by
  unfold flrPf; (repeat' split) <;> simp

@[simp] theorem powerStateChange_fixed (s : State) (p : Nat) (f : Fn) (d3 : Bool) :
    (powerStateChange s p f d3).fixed = s.fixed := by
  unfold powerStateChange; (repeat' split) <;> simp

@[simp] theorem maskVector_fixed (s : State) (p : Nat) (f : Fn) (v : Nat) (masked : Bool) :
    (maskVector s p f v masked).fixed = s.fixed := by
  unfold maskVector; (repeat' split) <;> simp

@[simp] theorem msixUnmask_fixed (s : State) (p : Nat) (f : Fn) (v : Nat) :
    (msixUnmask s p f v).fixed = s.fixed := by
  unfold msixUnmask; split <;> simp

@[simp] theorem configurationWrite_fixed (s : State) (p : Nat) (f : Fn) (w : CfgWrite) :
    (configurationWrite s p f w).fixed = s.fixed := by
  unfold configurationWrite; (repeat' split) <;> simp

@[simp] theorem unsupported_fixed (s : State) (p : Nat) (path : Path) (offset : Nat) :
    (unsupported s p path offset).fixed = s.fixed := by
  simp [unsupported]

@[simp] theorem hostReadFailure_fixed (s : State) (p : Nat) (k : ReadKind) :
    (hostReadFailure s p k).fixed = s.fixed := by
  unfold hostReadFailure; (repeat' split) <;> simp

end Sys2Proof.Machine
end

