-- ==== Sys2Proof/Laws/FixedFaults.lean ====
section
/-!
SUPPORT. The operations of Machine/Faults.lean leave the part, the queue and the fuses as they are: one lemma each.
-/
namespace Sys2Proof.Machine
open Sys2Proof

@[simp] theorem logRes_fixed (s : State) (cls p : Nat) (r : Resource) (detail : Nat) :
    (logRes s cls p r detail).fixed = s.fixed := by
  simp [logRes]

@[simp] theorem checkSpares_fixed (s : State) (p : Nat) :
    (checkSpares s p).fixed = s.fixed := by
  unfold checkSpares; dsimp only; (repeat' split) <;> simp

@[simp] theorem modCrew_fixed (s : State) (c i : Nat) (f : CrewSlot → CrewSlot) :
    (modCrew s c i f).fixed = s.fixed := by
  simp [modCrew]

@[simp] theorem failLegs_fixed (s : State) (c i status : Nat) :
    (failLegs s c i status).fixed = s.fixed := by
  unfold failLegs; simp [apply_ite State.fixed, foldl_fixed]

@[simp] theorem moveGroups_fixed (s : State) (c i : Nat) :
    (moveGroups s c i).fixed = s.fixed := by
  unfold moveGroups; simp [apply_ite State.fixed, foldl_fixed]

@[simp] theorem unmapIndex_fixed (s : State) (p n : Nat) :
    (unmapIndex s p n).fixed = s.fixed := by
  unfold unmapIndex; split <;> simp [apply_ite State.fixed, foldl_fixed]

@[simp] theorem loseStation_fixed (s : State) (p n phys : Nat) :
    (loseStation s p n phys).fixed = s.fixed := by
  simp [loseStation]

@[simp] theorem remap_fixed (s : State) (p n spare : Nat) :
    (remap s p n spare).fixed = s.fixed := by
  unfold remap; dsimp only; (repeat' split) <;> simp

@[simp] theorem zeroNear_fixed (s : State) (c i : Nat) :
    (zeroNear s c i).fixed = s.fixed := by
  unfold zeroNear; apply foldl_fixed; intro s a; (try dsimp only); (repeat' split) <;> simp [foldl_fixed]

@[simp] theorem loseQueues_fixed (s : State) (c i : Nat) :
    (loseQueues s c i).fixed = s.fixed := by
  unfold loseQueues; apply foldl_fixed; intro s a; (try dsimp only); (repeat' split) <;> simp

@[simp] theorem interrupt_fixed (s : State) (p n : Nat) :
    (interrupt s p n).fixed = s.fixed := by
  unfold interrupt; split <;> simp [apply_ite State.fixed, foldl_fixed]

@[simp] theorem beginHead_fixed (s : State) (p : Nat) :
    (beginHead s p).fixed = s.fixed := by
  unfold beginHead; split <;> simp

@[simp] theorem queueRepair_fixed (s : State) (p : Nat) (r : Resource) (stn : Option Nat) :
    (queueRepair s p r stn).fixed = s.fixed := by
  unfold queueRepair; dsimp only; (repeat' split) <;> simp

@[simp] theorem planStation_fixed (s : State) (p phys : Nat) :
    (planStation s p phys).fixed = s.fixed := by
  unfold planStation; dsimp only; (repeat' split) <;> simp

@[simp] theorem startRepair_fixed (s : State) (p : Nat) (r : Resource) :
    (startRepair s p r).fixed = s.fixed := by
  unfold startRepair; dsimp only; (repeat' split) <;> simp

@[simp] theorem repairDone_fixed (s : State) (p : Nat) :
    (repairDone s p).fixed = s.fixed := by
  unfold repairDone; (repeat' split) <;> simp

@[simp] theorem rerun_fixed (s : State) (p n : Nat) :
    (rerun s p n).fixed = s.fixed := by
  unfold rerun; split <;> simp [apply_ite State.fixed, foldl_fixed]

@[simp] theorem stationSubstitutionDone_fixed (s : State) (p : Nat) :
    (stationSubstitutionDone s p).fixed = s.fixed := by
  unfold stationSubstitutionDone; dsimp only; (repeat' split) <;> simp

@[simp] theorem stationLost_fixed (s : State) (p phys : Nat) :
    (stationLost s p phys).fixed = s.fixed := by
  unfold stationLost; dsimp only; (repeat' split) <;> simp

@[simp] theorem unmapPlat_fixed (s : State) (p : Nat) :
    (unmapPlat s p).fixed = s.fixed := by
  unfold unmapPlat; simp [apply_ite State.fixed, foldl_fixed]

@[simp] theorem portsDown_fixed (s : State) (p : Nat) :
    (portsDown s p).fixed = s.fixed := by
  unfold portsDown; simp [apply_ite State.fixed, foldl_fixed]

@[simp] theorem tryEnd_fixed (s : State) :
    (tryEnd s).fixed = s.fixed := by
  unfold tryEnd; split <;> simp

@[simp] theorem platOut_fixed (s : State) (p cause : Nat) :
    (platOut s p cause).fixed = s.fixed := by
  unfold platOut; dsimp only; (repeat' split) <;> simp [apply_ite State.fixed, foldl_fixed]

@[simp] theorem ringLinkDown_fixed (s : State) (p : Nat) :
    (ringLinkDown s p).fixed = s.fixed := by
  unfold ringLinkDown; simp [apply_ite State.fixed, foldl_fixed]

@[simp] theorem track_fixed (s : State) (p : Nat) (r : Resource) :
    (track s p r).fixed = s.fixed := by
  unfold track; dsimp only; (repeat' split) <;> simp

@[simp] theorem faultEvent_fixed (s : State) (e : FaultEv) :
    (faultEvent s e).fixed = s.fixed := by
  unfold faultEvent; dsimp only; (repeat' split) <;> simp

@[simp] theorem faultTrackerExpire_fixed (s : State) (p : Nat) (r : Resource) :
    (faultTrackerExpire s p r).fixed = s.fixed := by
  simp [faultTrackerExpire]

@[simp] theorem watchdogStop_fixed (s : State) (l : LegRef) : (watchdogStop s l).fixed = s.fixed := by
  unfold watchdogStop; (repeat' split) <;> first | rfl | (dsimp only; cases legStation s l _ <;> simp)

@[simp] theorem patrolScrub_fixed (s : State) (p : Nat) (o : Scrub) :
    (patrolScrub s p o).fixed = s.fixed := by
  unfold patrolScrub; split <;> simp

@[simp] theorem faultLogTake_fixed (_h : CmdHdr) (address max : Nat) (s : State) (x : Ctx) :
    (faultLogTake _h address max s x).st.fixed = s.fixed := by
  unfold faultLogTake; dsimp only; (repeat' split) <;> simp

end Sys2Proof.Machine
end

