-- ==== Sys2Proof/Laws/FixedThermal.lean ====
section
/-!
SUPPORT. The operations of Machine/Thermal.lean leave the part, the queue and the fuses as they are: one lemma each.
-/
namespace Sys2Proof.Machine
open Sys2Proof

@[simp] theorem changeTherm_fixed (s : State) (p : Nat) (n : Therm) :
    (changeTherm s p n).fixed = s.fixed := by
  simp [changeTherm]

@[simp] theorem trip_fixed (s : State) (p sensor : Nat) :
    (trip s p sensor).fixed = s.fixed := by
  unfold trip; simp [apply_ite State.fixed, foldl_fixed]

@[simp] theorem settleTherm_fixed (s : State) (p : Nat) :
    (settleTherm s p).fixed = s.fixed := by
  unfold settleTherm; dsimp only; (repeat' split) <;> simp

@[simp] theorem logSensors_fixed (s : State) (p : Nat) (r : List Int) (new : List Nat) :
    (logSensors s p r new).fixed = s.fixed := by
  unfold logSensors; simp [apply_ite State.fixed, foldl_fixed]

@[simp] theorem thermalSample_fixed (s : State) (p : Nat) (r : List Int) :
    (thermalSample s p r).fixed = s.fixed := by
  unfold thermalSample; split
  · dsimp only; split
    · split <;> simp
    · simp
  · rfl

@[simp] theorem thermalRatioApply_fixed (s : State) (p : Nat) :
    (thermalRatioApply s p).fixed = s.fixed := by
  unfold thermalRatioApply; (repeat' split) <;> simp

@[simp] theorem powerSample_fixed (s : State) (mw : Nat) :
    (powerSample s mw).fixed = s.fixed := by
  unfold powerSample; split
  · exact fixed_glb s _
  · rfl

@[simp] theorem governorControl_fixed (s : State) :
    (governorControl s).fixed = s.fixed := by
  unfold governorControl; dsimp only; (repeat' split) <;> simp [foldl_fixed]

end Sys2Proof.Machine
end

