-- ==== Sys2Proof/Laws/FixedBringup.lean ====
section
/-!
SUPPORT. The operations of Machine/Bringup.lean leave the part, the queue and the fuses as they are: one lemma each.
-/
namespace Sys2Proof.Machine
open Sys2Proof

@[simp] theorem packageReset_fixed (s : State) :
    (packageReset s).fixed = s.fixed := by
  simp [packageReset]

@[simp] theorem vstbyRise_fixed (s : State) :
    (vstbyRise s).fixed = s.fixed := by
  simp [vstbyRise]

@[simp] theorem vstbyLoss_fixed (s : State) :
    (vstbyLoss s).fixed = s.fixed := by
  simp [vstbyLoss]

@[simp] theorem vmainRise_fixed (s : State) :
    (vmainRise s).fixed = s.fixed := by
  unfold vmainRise; split <;> simp

@[simp] theorem powerLoss_fixed (s : State) (level ns : Nat) :
    (powerLoss s level ns).fixed = s.fixed := by
  unfold powerLoss; split <;> simp

@[simp] theorem resetAssert_fixed (s : State) :
    (resetAssert s).fixed = s.fixed := by
  unfold resetAssert; split <;> simp

@[simp] theorem resetRelease_fixed (s : State) :
    (resetRelease s).fixed = s.fixed := by
  simp [resetRelease]

@[simp] theorem datumTimeStart_fixed (s : State) (afterNs : Nat) :
    (datumTimeStart s afterNs).fixed = s.fixed := by
  unfold datumTimeStart; split <;> simp

@[simp] theorem becomeReady_fixed (s : State) (p : Nat) :
    (becomeReady s p).fixed = s.fixed := by
  simp [becomeReady]

@[simp] theorem readyOrCheck_fixed (s : State) (p : Nat) :
    (readyOrCheck s p).fixed = s.fixed := by
  unfold readyOrCheck; split <;> simp

@[simp] theorem startMonument_fixed (s : State) (i : Image) : (startMonument s i).fixed = s.fixed := by
  have h (t : State) (k : Bytes) : (sendKeys { t with mon := { t.mon with
      keys := { t.mon.keys with reserve := k }, keyCount := t.mon.keyCount + 1 } }).fixed = t.fixed := by simp
  exact (h _ _).trans (by rw [drawKey_fixed, seedDrbg_fixed, romDerive_fixed])

@[simp] theorem bootImage_fixed (s : State) (i : Image) (armedOne : Bool) :
    (bootImage s i armedOne).fixed = s.fixed := by
  have h (t : State) : (if (platOf t 0).measured then readyOrCheck t 0 else t).fixed = t.fixed := by split <;> simp
  refine (h _).trans ?_
  cases armedOne
  · exact (startBurn_fixed ..).trans (startMonument_fixed ..)
  · exact startMonument_fixed ..

@[simp] theorem logBoot_fixed (s : State) :
    (logBoot s).fixed = s.fixed := by
  unfold logBoot; dsimp only; (repeat' split) <;> simp

@[simp] theorem platRelease_fixed (s : State) (p : Nat) (proof : Option Bytes) :
    (platRelease s p proof).fixed = s.fixed := by
  unfold platRelease; dsimp only; (repeat' split) <;> simp

@[simp] theorem logMeasured_fixed (s : State) (p : Nat) (m : Measurement) :
    (logMeasured s p m).fixed = s.fixed := by
  unfold logMeasured; dsimp only; iterate 3 (refine (foldl_fixed _ (fun s a => ?_) _ _).trans ?_; · (repeat' split) <;> simp)
  exact foldl_fixed _ (fun s a => by (repeat' split) <;> simp) _ _

@[simp] theorem platMeasurementDone_fixed (s : State) (p : Nat) (m : Measurement) :
    (platMeasurementDone s p m).fixed = s.fixed := by
  unfold platMeasurementDone; dsimp only; (repeat' split) <;> simp

end Sys2Proof.Machine
end

