-- ==== Sys2Proof/Laws/FixedRegisters.lean ====
section
/-!
SUPPORT. The operations of Machine/Registers.lean leave the part, the queue and the fuses as they are: one lemma each.
-/
namespace Sys2Proof.Machine
open Sys2Proof

@[simp] theorem setShadow_fixed (s : State) (p : Path) (a v : Nat) :
    (setShadow s p a v).fixed = s.fixed := by
  simp [setShadow]

@[simp] theorem pathRead_fixed (s : State) (p : Path) (a : Nat) :
    (pathRead s p a).1.fixed = s.fixed := by
  unfold pathRead; (repeat' split) <;> simp

@[simp] theorem wordRead_fixed (s : State) (p : Path) (a : Nat) :
    (wordRead s p a).1.fixed = s.fixed := by
  unfold wordRead; (repeat' split) <;> simp

@[simp] theorem wordsRead_fixed (s : State) (p : Path) (a n : Nat) :
    (wordsRead s p a n).1.fixed = s.fixed := by
  unfold wordsRead; dsimp only; rw [foldl_fst_fixed]; intro t k; dsimp only; exact wordRead_fixed ..

@[simp] theorem lolRead_fixed (s : State) (p : Path) (a n : Nat) :
    (lolRead s p a n).fixed = s.fixed := by
  unfold lolRead; (repeat' split) <;> simp

@[simp] theorem countGlb_fixed (s : State) :
    (countGlb s).fixed = s.fixed := by
  simp [countGlb]

@[simp] theorem countDenied_fixed (s : State) :
    (countDenied s).fixed = s.fixed := by
  simp [countDenied]

@[simp] theorem countIgnored_fixed (s : State) (b : RegBlock) :
    (countIgnored s b).fixed = s.fixed := by
  unfold countIgnored; split <;> simp

@[simp] theorem noteRwe_fixed (s : State) (b : RegBlock) :
    (noteRwe s b).fixed = s.fixed := by
  unfold noteRwe; split <;> simp

@[simp] theorem wrRw_fixed (s : State) (b : RegBlock) (ok : Bool) (f : State → State) (hf : ∀ s, (f s).fixed = s.fixed) :
    (wrRw s b ok f).fixed = s.fixed := by
  unfold wrRw; split <;> simp [hf]

@[simp] theorem wrRwe_fixed (s : State) (b : RegBlock) (ok : Bool) (f : State → State) (hf : ∀ s, (f s).fixed = s.fixed) :
    (wrRwe s b ok f).fixed = s.fixed := by
  unfold wrRwe; split <;> simp [hf]

@[simp] theorem dropMap_fixed (s : State) (p : Nat) :
    (dropMap s p).fixed = s.fixed := by
  simp [dropMap]

@[simp] theorem enableDtm_fixed (s : State) (on : Bool) :
    (enableDtm s on).fixed = s.fixed := by
  unfold enableDtm; simp [apply_ite State.fixed, foldl_fixed]

@[simp] theorem enableHpt_fixed (s : State) (n : Nat) (on : Bool) :
    (enableHpt s n on).fixed = s.fixed := by
  unfold enableHpt; simp [apply_ite State.fixed, foldl_fixed]

@[simp] theorem enableTpt_fixed (s : State) (t : Nat) (on : Bool) :
    (enableTpt s t on).fixed = s.fixed := by
  unfold enableTpt; dsimp only; (repeat' split) <;> simp

@[simp] theorem enableFlt_fixed (s : State) (on : Bool) :
    (enableFlt s on).fixed = s.fixed := by
  simp [enableFlt]

@[simp] theorem wrGlb_fixed (s : State) (o v : Nat) :
    (wrGlb s o v).fixed = s.fixed := by
  unfold wrGlb; dsimp only; (repeat' split) <;> simp

@[simp] theorem wrDtm_fixed (s : State) (o v : Nat) :
    (wrDtm s o v).fixed = s.fixed := by
  unfold wrDtm; (repeat' split) <;> simp

@[simp] theorem wrHpt_fixed (s : State) (n o v : Nat) :
    (wrHpt s n o v).fixed = s.fixed := by
  unfold wrHpt; simp [apply_ite State.fixed, foldl_fixed]

@[simp] theorem wrTptCommon_fixed (s : State) (o v : Nat) :
    (wrTptCommon s o v).fixed = s.fixed := by
  unfold wrTptCommon; (repeat' split) <;> simp

@[simp] theorem wrTpt_fixed (s : State) (t o v : Nat) :
    (wrTpt s t o v).fixed = s.fixed := by
  unfold wrTpt; split <;> simp

@[simp] theorem wrCtx_fixed (s : State) (p : Path) (c o v : Nat) :
    (wrCtx s p c o v).fixed = s.fixed := by
  unfold wrCtx; dsimp only; (repeat' split) <;> simp

@[simp] theorem wrFlt_fixed (s : State) (o v : Nat) :
    (wrFlt s o v).fixed = s.fixed := by
  unfold wrFlt; (repeat' split) <;> simp

@[simp] theorem wrReg_fixed (s : State) (p : Path) (a v : Nat) :
    (wrReg s p a v).fixed = s.fixed := by
  unfold wrReg; dsimp only; (repeat' split) <;> simp

@[simp] theorem wrPartial_fixed (s : State) (p : Path) (a : Nat) :
    (wrPartial s p a).fixed = s.fixed := by
  unfold wrPartial; dsimp only; (repeat' split) <;> simp

@[simp] theorem wrVectors_fixed (s : State) (p : Path) (a v : Nat) :
    (wrVectors s p a v).fixed = s.fixed := by
  unfold wrVectors; (repeat' split) <;> simp

@[simp] theorem wrWord_fixed (s : State) (p : Path) (a v : Nat) :
    (wrWord s p a v).fixed = s.fixed := by
  unfold wrWord; split <;> simp

@[simp] theorem unitWrite_fixed (s : State) (p : Path) (a : Nat) (d : Bytes) :
    (unitWrite s p a d).fixed = s.fixed := by
  unfold unitWrite; cases pathOffset s p a <;> (repeat' split) <;> simp

@[simp] theorem pathWrite_fixed (s : State) (p : Path) (a : Nat) (d : Bytes) :
    (pathWrite s p a d).fixed = s.fixed := by
  unfold pathWrite; (repeat' split) <;> simp

@[simp] theorem barWrite_fixed (s : State) (p : Path) (a v : Nat) :
    (barWrite s p a v).fixed = s.fixed := by
  unfold barWrite; (repeat' split) <;> simp

@[simp] theorem bitAliasWrite_fixed (s : State) (p : Path) (a v : Nat) :
    (bitAliasWrite s p a v).fixed = s.fixed := by
  unfold bitAliasWrite; dsimp only; (repeat' split) <;> simp

@[simp] theorem busWrite_fixed (s : State) (p : Path) (a : Nat) (d : Bytes) :
    (busWrite s p a d).fixed = s.fixed := by
  unfold busWrite; (repeat' split) <;> simp

@[simp] theorem stallSvc_fixed (s : State) (o : Option Nat) : (stallSvc s o).fixed = s.fixed := by
  simp [stallSvc]

@[simp] theorem settleSvc_fixed (s : State) : (settleSvc s).fixed = s.fixed := by
  unfold settleSvc; dsimp only; (repeat' split) <;> simp

@[simp] theorem i3cRegisterWrite_fixed (s : State) (a v : Nat) :
    (i3cRegisterWrite s a v).fixed = s.fixed := by
  unfold i3cRegisterWrite; dsimp only; (repeat' split) <;> simp

@[simp] theorem i3cReadPhase_fixed (s : State) : (i3cReadPhase s).fixed = s.fixed := by
  unfold i3cReadPhase; split <;> simp

@[simp] theorem i3cReadNew_fixed (s : State) (a : Nat) : (i3cReadNew s a).fixed = s.fixed := by
  unfold i3cReadNew; dsimp only; split <;> simp

@[simp] theorem i3cRegisterRead_fixed (s : State) (a : Option Nat) :
    (i3cRegisterRead s a).fixed = s.fixed := by
  unfold i3cRegisterRead; dsimp only; (repeat' split) <;> simp

@[simp] theorem i3cCcc_fixed (s : State) (code : Nat) :
    (i3cCcc s code).fixed = s.fixed := by
  unfold i3cCcc; split <;> simp

end Sys2Proof.Machine
end

