-- ==== Sys2Proof/Laws/Legs.lean ====
section
/-!
SUPPORT. What the names that a Leg reads under come to.
-/
namespace Sys2Proof.Machine
open Sys2Proof

@[simp] theorem whoOf_ctx (s : State) (l : LegRef) : (whoOf s l).ctx = l.ctx := by
  unfold whoOf; split <;> rfl

@[simp] theorem whoOf_handle (s : State) (l : LegRef) : (whoOf s l).handle = l.handle := by
  unfold whoOf; split <;> rfl

end Sys2Proof.Machine
end

