-- ==== Sys2Proof/Laws/Tbl.lean ====
section
/-!
SUPPORT. Laws of sparse tables: what a look-up finds after a put, a removal or a change.
-/
namespace Sys2Proof.Machine
open Sys2Proof

variable {α : Type}

@[simp] theorem tget_nil (k : Nat) : tget ([] : Tbl α) k = none := rfl

@[simp] theorem tget_tput_same (t : Tbl α) (k : Nat) (a : α) : tget (tput t k a) k = some a := by
  induction t with
  | nil => simp [tput, tget]
  | cons e r ih =>
    simp only [tput]
    split
    · simp [tget]
    · split
      · simp [tget]
      · rename_i h; simp [tget, h, ih]

theorem tget_tput_ne (t : Tbl α) {k j : Nat} (a : α) (h : j ≠ k) : tget (tput t k a) j = tget t j := by
  induction t with
  | nil => simp [tput, tget, Ne.symm h]
  | cons e r ih =>
    simp only [tput]
    split
    · simp [tget, Ne.symm h]
    · split
      · rename_i e; subst e; simp [tget, Ne.symm h]
      · simp [tget, ih]

@[simp] theorem tget_tdel_same (t : Tbl α) (k : Nat) : tget (tdel t k) k = none := by
  induction t with
  | nil => rfl
  | cons e r ih =>
    simp only [tdel]
    split
    · exact ih
    · rename_i h; simp [tget, h, ih]

theorem tget_tdel_ne (t : Tbl α) {k j : Nat} (h : j ≠ k) : tget (tdel t k) j = tget t j := by
  induction t with
  | nil => rfl
  | cons e r ih =>
    simp only [tdel]
    split
    · rename_i e; subst e; simp [tget, Ne.symm h, ih]
    · simp [tget, ih]

/-- Changing every entry changes what each look-up finds. -/
theorem tget_map (l : Tbl α) (f : α → α) (k : Nat) : tget (l.map fun e => (e.1, f e.2)) k = (tget l k).map f := by
  induction l with
  | nil => rfl
  | cons a r ih => simp only [tget, List.map_cons]; split <;> simp_all

@[simp] theorem tget_tmod_same (t : Tbl α) (k : Nat) (f : α → α) : tget (tmod t k f) k = (tget t k).map f := by
  induction t with
  | nil => rfl
  | cons e r ih =>
    simp only [tmod]
    split
    · rename_i e; simp [tget, e]
    · rename_i h; simp [tget, h, ih]

theorem tget_tmod_ne (t : Tbl α) {k j : Nat} (f : α → α) (h : j ≠ k) : tget (tmod t k f) j = tget t j := by
  induction t with
  | nil => rfl
  | cons e r ih =>
    obtain ⟨i, a⟩ := e
    simp only [tmod]
    split
    · rename_i e; subst e; simp [tget, Ne.symm h, ih]
    · simp [tget, ih]

/-- A change keeps the keys of a table. -/
theorem keys_tmod (t : Tbl α) (k : Nat) (f : α → α) : (tmod t k f).map (·.1) = t.map (·.1) := by
  induction t with
  | nil => rfl
  | cons e r ih => simp only [tmod, List.map_cons, ih]; split <;> rfl

@[simp] theorem tgetD_tput_same (t : Tbl α) (k : Nat) (a d : α) : tgetD (tput t k a) k d = a := by simp [tgetD]

theorem tgetD_tput_ne (t : Tbl α) {k j : Nat} (a d : α) (h : j ≠ k) : tgetD (tput t k a) j d = tgetD t j d := by
  simp [tgetD, tget_tput_ne t a h]

/-- A listed key is among the keys. -/
theorem key_mem_of_tget {t : Tbl α} {k : Nat} {a : α} (h : tget t k = some a) : k ∈ t.map (·.1) := by
  induction t with
  | nil => simp at h
  | cons e r ih =>
    by_cases he : e.1 = k
    · simp [he]
    · simp only [tget, he, if_false] at h; simp [ih h]

/-- Keys below which a table with rising keys lists nothing. -/
theorem tget_none_of_lt {t : Tbl α} {k : Nat} (h : ∀ e ∈ t, k < e.1) : tget t k = none := by
  induction t with
  | nil => rfl
  | cons e r ih =>
    have := h e (by simp)
    simp only [tget]
    rw [if_neg (by omega)]
    exact ih fun x hx => h x (by simp [hx])

theorem mem_tput {t : Tbl α} {k : Nat} {a : α} {e : Nat × α} (h : e ∈ tput t k a) : e = (k, a) ∨ e ∈ t := by
  induction t with
  | nil => simp [tput] at h; exact .inl h
  | cons x r ih =>
    simp only [tput] at h
    split at h
    · simpa using h
    · split at h
      · simp only [List.mem_cons] at h ⊢; tauto
      · simp only [List.mem_cons] at h ⊢
        rcases h with h | h
        · tauto
        · rcases ih h with h | h <;> tauto

theorem mem_tdel {t : Tbl α} {k : Nat} {e : Nat × α} (h : e ∈ tdel t k) : e ∈ t ∧ e.1 ≠ k := by
  induction t with
  | nil => simp [tdel] at h
  | cons x r ih =>
    simp only [tdel] at h
    split at h
    · have := ih h; simp [this]
    · rename_i hx
      rcases List.mem_cons.1 h with h | h
      · subst h; exact ⟨by simp, hx⟩
      · have := ih h; simp [this]

/-- A put keeps the keys rising. -/
theorem rising_tput {t : Tbl α} (k : Nat) (a : α) (h : t.Pairwise fun x y => x.1 < y.1) :
    (tput t k a).Pairwise fun x y => x.1 < y.1 := by
  induction t with
  | nil => simp [tput]
  | cons x r ih =>
    rw [List.pairwise_cons] at h
    simp only [tput]
    split
    · rename_i hk
      refine List.pairwise_cons.2 ⟨?_, List.pairwise_cons.2 h⟩
      intro e he
      rcases List.mem_cons.1 he with he | he
      · subst he; exact hk
      · have := h.1 e he; show k < e.1; omega
    · split
      · rename_i hk; subst hk; exact List.pairwise_cons.2 h
      · refine List.pairwise_cons.2 ⟨?_, ih h.2⟩
        intro e he
        rcases mem_tput he with he | he
        · subst he; show x.1 < k; omega
        · exact h.1 e he

theorem rising_tdel {t : Tbl α} (k : Nat) (h : t.Pairwise fun x y => x.1 < y.1) :
    (tdel t k).Pairwise fun x y => x.1 < y.1 := by
  induction t with
  | nil => simp [tdel]
  | cons x r ih =>
    rw [List.pairwise_cons] at h
    simp only [tdel]
    split
    · exact ih h.2
    · exact List.pairwise_cons.2 ⟨fun e he => h.1 e (mem_tdel he).1, ih h.2⟩

end Sys2Proof.Machine
end

