-- ==== Sys2Proof/Laws/Memory.lean ====
section
/-!
SUPPORT. Laws of addressed bytes: what a read gives after a write, and that every operation keeps the canonical form.
-/
namespace Sys2Proof.Machine
open Sys2Proof

@[simp] theorem rdByte_wrByte_same (m : Mem) (a : Nat) (b : Byte) : rdByte (wrByte m a b) a = b := by
  unfold rdByte wrByte
  split
  · rename_i h; simp [tgetD, h]
  · simp

theorem rdByte_wrByte_ne (m : Mem) {a c : Nat} (b : Byte) (h : c ≠ a) : rdByte (wrByte m a b) c = rdByte m c := by
  unfold rdByte wrByte
  split
  · simp [tgetD, tget_tdel_ne m h]
  · exact tgetD_tput_ne m b 0 h

/-- A byte outside the bytes written reads as before. -/
theorem rdByte_wrBytes_out (d : Bytes) (m : Mem) (a c : Nat) (h : c < a ∨ a + d.length ≤ c) :
    rdByte (wrBytes m a d) c = rdByte m c := by
  induction d generalizing m a with
  | nil => rfl
  | cons b r ih =>
    simp only [List.length_cons] at h
    simp only [wrBytes]
    rw [ih _ _ (by omega), rdByte_wrByte_ne _ _ (by omega)]

/-- A byte among the bytes written reads as written. -/
theorem rdByte_wrBytes_in (d : Bytes) (m : Mem) (a i : Nat) (h : i < d.length) :
    rdByte (wrBytes m a d) (a + i) = d[i] := by
  induction d generalizing m a i with
  | nil => simp at h
  | cons b r ih =>
    simp only [wrBytes]
    cases i with
    | zero => rw [Nat.add_zero, rdByte_wrBytes_out _ _ _ _ (by omega)]; simp
    | succ i =>
      have := ih (wrByte m a b) (a + 1) i (by simpa using h)
      rw [show a + (i + 1) = a + 1 + i by omega, this]; simp

/-- The canonical form: addresses rising, no entry equal to zero. -/
theorem wf_iff (m : Mem) :
    Memory.wf m = true ↔ (m.Pairwise fun x y => x.1 < y.1) ∧ ∀ e ∈ m, e.2 ≠ 0 := by
  induction m with
  | nil => simp [Memory.wf]
  | cons x r ih =>
    cases r with
    | nil => simp [Memory.wf]
    | cons y r =>
      simp only [Memory.wf, Bool.and_eq_true, bne_iff_ne, ne_eq, decide_eq_true_eq]
      rw [ih]
      constructor
      · rintro ⟨⟨h1, h2⟩, h3, h4⟩
        refine ⟨List.pairwise_cons.2 ⟨?_, h3⟩, ?_⟩
        · intro e he
          rcases List.mem_cons.1 he with he | he
          · subst he; exact h2
          · exact Nat.lt_trans h2 ((List.pairwise_cons.1 h3).1 e he)
        · intro e he
          rcases List.mem_cons.1 he with he | he
          · subst he; exact h1
          · exact h4 e he
      · rintro ⟨h1, h2⟩
        rw [List.pairwise_cons] at h1
        exact ⟨⟨h2 x (by simp), h1.1 y (by simp)⟩, h1.2, fun e he => h2 e (by simp [he])⟩

theorem wrByte_wf {m : Mem} (a : Nat) (b : Byte) (h : Memory.wf m = true) : Memory.wf (wrByte m a b) = true := by
  rw [wf_iff] at h ⊢
  unfold wrByte
  split
  · exact ⟨rising_tdel a h.1, fun e he => h.2 e (mem_tdel he).1⟩
  · rename_i hb
    refine ⟨rising_tput a b h.1, fun e he => ?_⟩
    rcases mem_tput he with he | he
    · subst he; exact hb
    · exact h.2 e he

theorem wrBytes_wf (d : Bytes) {m : Mem} (a : Nat) (h : Memory.wf m = true) : Memory.wf (wrBytes m a d) = true := by
  induction d generalizing m a with
  | nil => exact h
  | cons b r ih => exact ih (a + 1) (wrByte_wf a b h)

theorem filter_wf {m : Mem} (p : Host.Cell → Bool) (h : Memory.wf m = true) : Memory.wf (m.filter p) = true := by
  rw [wf_iff] at h ⊢
  exact ⟨h.1.filter p, fun e he => h.2 e (List.mem_filter.1 he).1⟩

theorem zeroBytes_wf {m : Mem} (a n : Nat) (h : Memory.wf m = true) : Memory.wf (zeroBytes m a n) = true := filter_wf _ h

theorem memOf_wf (b : Bytes) : Memory.wf (memOf b) = true := wrBytes_wf b 0 rfl

/-- Bytes made zero read zero; the others read as before. -/
theorem rdByte_zeroBytes (m : Mem) (a n c : Nat) :
    rdByte (zeroBytes m a n) c = if a ≤ c ∧ c < a + n then 0 else rdByte m c := by
  induction m with
  | nil => simp [zeroBytes, rdByte, tgetD, tget]
  | cons e r ih =>
    unfold zeroBytes rdByte tgetD at *
    by_cases hin : a ≤ e.1 ∧ e.1 < a + n
    · rw [List.filter_cons_of_neg (by simp [hin]), ih]
      split
      · rfl
      · rename_i h
        rw [tget, if_neg (by intro e; subst e; exact h hin)]
    · rw [List.filter_cons_of_pos (by simp; omega)]
      by_cases hc : e.1 = c
      · subst hc; rw [if_neg hin]; simp [tget]
      · simp only [tget, if_neg hc]; exact ih

end Sys2Proof.Machine
end

