-- ==== Sys2Proof/Laws/State.lean ====
section
/-!
SUPPORT. Each shared update of the state changes one field: one lemma for every other field, and what the changed field's
entries are after it.
-/
namespace Sys2Proof.Machine
open Sys2Proof

variable (s : State)

/-! ### setPort -/

@[simp] theorem setPort_pending (p : Nat) (x : Port) : (setPort s p x).pending = s.pending := rfl
@[simp] theorem setPort_part (p : Nat) (x : Port) : (setPort s p x).part = s.part := rfl
@[simp] theorem setPort_fuses (p : Nat) (x : Port) : (setPort s p x).fuses = s.fuses := rfl
@[simp] theorem setPort_sup (p : Nat) (x : Port) : (setPort s p x).sup = s.sup := rfl
@[simp] theorem setPort_glb (p : Nat) (x : Port) : (setPort s p x).glb = s.glb := rfl
@[simp] theorem setPort_settings (p : Nat) (x : Port) : (setPort s p x).settings = s.settings := rfl
@[simp] theorem setPort_shadows (p : Nat) (x : Port) : (setPort s p x).shadows = s.shadows := rfl
@[simp] theorem setPort_svcHeld (p : Nat) (x : Port) : (setPort s p x).svcHeld = s.svcHeld := rfl
@[simp] theorem setPort_svcStall (p : Nat) (x : Port) : (setPort s p x).svcStall = s.svcStall := rfl
@[simp] theorem setPort_dtm (p : Nat) (x : Port) : (setPort s p x).dtm = s.dtm := rfl
@[simp] theorem setPort_flt (p : Nat) (x : Port) : (setPort s p x).flt = s.flt := rfl
@[simp] theorem setPort_tpt (p : Nat) (x : Port) : (setPort s p x).tpt = s.tpt := rfl
@[simp] theorem setPort_ties (p : Nat) (x : Port) : (setPort s p x).ties = s.ties := rfl
@[simp] theorem setPort_plats (p : Nat) (x : Port) : (setPort s p x).plats = s.plats := rfl
@[simp] theorem setPort_cads (p : Nat) (x : Port) : (setPort s p x).cads = s.cads := rfl
@[simp] theorem setPort_mon (p : Nat) (x : Port) : (setPort s p x).mon = s.mon := rfl
@[simp] theorem setPort_ctxs (p : Nat) (x : Port) : (setPort s p x).ctxs = s.ctxs := rfl
@[simp] theorem setPort_travs (p : Nat) (x : Port) : (setPort s p x).travs = s.travs := rfl
@[simp] theorem setPort_objs (p : Nat) (x : Port) : (setPort s p x).objs = s.objs := rfl
@[simp] theorem setPort_snaps (p : Nat) (x : Port) : (setPort s p x).snaps = s.snaps := rfl
@[simp] theorem setPort_groups (p : Nat) (x : Port) : (setPort s p x).groups = s.groups := rfl
@[simp] theorem setPort_cams (p : Nat) (x : Port) : (setPort s p x).cams = s.cams := rfl
@[simp] theorem setPort_pairs (p : Nat) (x : Port) : (setPort s p x).pairs = s.pairs := rfl
@[simp] theorem setPort_services (p : Nat) (x : Port) : (setPort s p x).services = s.services := rfl
@[simp] theorem setPort_fans (p : Nat) (x : Port) : (setPort s p x).fans = s.fans := rfl
@[simp] theorem setPort_fanLegs (p : Nat) (x : Port) : (setPort s p x).fanLegs = s.fanLegs := rfl
@[simp] theorem setPort_fanSeq (p : Nat) (x : Port) : (setPort s p x).fanSeq = s.fanSeq := rfl
@[simp] theorem setPort_landings (p : Nat) (x : Port) : (setPort s p x).landings = s.landings := rfl
@[simp] theorem setPort_xfers (p : Nat) (x : Port) : (setPort s p x).xfers = s.xfers := rfl
@[simp] theorem setPort_outlets (p : Nat) (x : Port) : (setPort s p x).outlets = s.outlets := rfl
@[simp] theorem setPort_loose (p : Nat) (x : Port) : (setPort s p x).loose = s.loose := rfl
@[simp] theorem setPort_tracks (p : Nat) (x : Port) : (setPort s p x).tracks = s.tracks := rfl
@[simp] theorem setPort_out (p : Nat) (x : Port) : (setPort s p x).out = s.out := rfl
@[simp] theorem setPort_free (p : Nat) (x : Port) : (setPort s p x).free = s.free := rfl

/-! ### modPort -/

@[simp] theorem modPort_pending (p : Nat) (f : Port → Port) : (modPort s p f).pending = s.pending := rfl
@[simp] theorem modPort_part (p : Nat) (f : Port → Port) : (modPort s p f).part = s.part := rfl
@[simp] theorem modPort_fuses (p : Nat) (f : Port → Port) : (modPort s p f).fuses = s.fuses := rfl
@[simp] theorem modPort_sup (p : Nat) (f : Port → Port) : (modPort s p f).sup = s.sup := rfl
@[simp] theorem modPort_glb (p : Nat) (f : Port → Port) : (modPort s p f).glb = s.glb := rfl
@[simp] theorem modPort_settings (p : Nat) (f : Port → Port) : (modPort s p f).settings = s.settings := rfl
@[simp] theorem modPort_shadows (p : Nat) (f : Port → Port) : (modPort s p f).shadows = s.shadows := rfl
@[simp] theorem modPort_svcHeld (p : Nat) (f : Port → Port) : (modPort s p f).svcHeld = s.svcHeld := rfl
@[simp] theorem modPort_svcStall (p : Nat) (f : Port → Port) : (modPort s p f).svcStall = s.svcStall := rfl
@[simp] theorem modPort_dtm (p : Nat) (f : Port → Port) : (modPort s p f).dtm = s.dtm := rfl
@[simp] theorem modPort_flt (p : Nat) (f : Port → Port) : (modPort s p f).flt = s.flt := rfl
@[simp] theorem modPort_tpt (p : Nat) (f : Port → Port) : (modPort s p f).tpt = s.tpt := rfl
@[simp] theorem modPort_ties (p : Nat) (f : Port → Port) : (modPort s p f).ties = s.ties := rfl
@[simp] theorem modPort_plats (p : Nat) (f : Port → Port) : (modPort s p f).plats = s.plats := rfl
@[simp] theorem modPort_cads (p : Nat) (f : Port → Port) : (modPort s p f).cads = s.cads := rfl
@[simp] theorem modPort_mon (p : Nat) (f : Port → Port) : (modPort s p f).mon = s.mon := rfl
@[simp] theorem modPort_ctxs (p : Nat) (f : Port → Port) : (modPort s p f).ctxs = s.ctxs := rfl
@[simp] theorem modPort_travs (p : Nat) (f : Port → Port) : (modPort s p f).travs = s.travs := rfl
@[simp] theorem modPort_objs (p : Nat) (f : Port → Port) : (modPort s p f).objs = s.objs := rfl
@[simp] theorem modPort_snaps (p : Nat) (f : Port → Port) : (modPort s p f).snaps = s.snaps := rfl
@[simp] theorem modPort_groups (p : Nat) (f : Port → Port) : (modPort s p f).groups = s.groups := rfl
@[simp] theorem modPort_cams (p : Nat) (f : Port → Port) : (modPort s p f).cams = s.cams := rfl
@[simp] theorem modPort_pairs (p : Nat) (f : Port → Port) : (modPort s p f).pairs = s.pairs := rfl
@[simp] theorem modPort_services (p : Nat) (f : Port → Port) : (modPort s p f).services = s.services := rfl
@[simp] theorem modPort_fans (p : Nat) (f : Port → Port) : (modPort s p f).fans = s.fans := rfl
@[simp] theorem modPort_fanLegs (p : Nat) (f : Port → Port) : (modPort s p f).fanLegs = s.fanLegs := rfl
@[simp] theorem modPort_fanSeq (p : Nat) (f : Port → Port) : (modPort s p f).fanSeq = s.fanSeq := rfl
@[simp] theorem modPort_landings (p : Nat) (f : Port → Port) : (modPort s p f).landings = s.landings := rfl
@[simp] theorem modPort_xfers (p : Nat) (f : Port → Port) : (modPort s p f).xfers = s.xfers := rfl
@[simp] theorem modPort_outlets (p : Nat) (f : Port → Port) : (modPort s p f).outlets = s.outlets := rfl
@[simp] theorem modPort_loose (p : Nat) (f : Port → Port) : (modPort s p f).loose = s.loose := rfl
@[simp] theorem modPort_tracks (p : Nat) (f : Port → Port) : (modPort s p f).tracks = s.tracks := rfl
@[simp] theorem modPort_out (p : Nat) (f : Port → Port) : (modPort s p f).out = s.out := rfl
@[simp] theorem modPort_free (p : Nat) (f : Port → Port) : (modPort s p f).free = s.free := rfl

/-! ### modFn -/

@[simp] theorem modFn_pending (p : Nat) (i : Fn) (f : FnState → FnState) : (modFn s p i f).pending = s.pending := rfl
@[simp] theorem modFn_part (p : Nat) (i : Fn) (f : FnState → FnState) : (modFn s p i f).part = s.part := rfl
@[simp] theorem modFn_fuses (p : Nat) (i : Fn) (f : FnState → FnState) : (modFn s p i f).fuses = s.fuses := rfl
@[simp] theorem modFn_sup (p : Nat) (i : Fn) (f : FnState → FnState) : (modFn s p i f).sup = s.sup := rfl
@[simp] theorem modFn_glb (p : Nat) (i : Fn) (f : FnState → FnState) : (modFn s p i f).glb = s.glb := rfl
@[simp] theorem modFn_settings (p : Nat) (i : Fn) (f : FnState → FnState) : (modFn s p i f).settings = s.settings := rfl
@[simp] theorem modFn_shadows (p : Nat) (i : Fn) (f : FnState → FnState) : (modFn s p i f).shadows = s.shadows := rfl
@[simp] theorem modFn_svcHeld (p : Nat) (i : Fn) (f : FnState → FnState) : (modFn s p i f).svcHeld = s.svcHeld := rfl
@[simp] theorem modFn_svcStall (p : Nat) (i : Fn) (f : FnState → FnState) : (modFn s p i f).svcStall = s.svcStall := rfl
@[simp] theorem modFn_dtm (p : Nat) (i : Fn) (f : FnState → FnState) : (modFn s p i f).dtm = s.dtm := rfl
@[simp] theorem modFn_flt (p : Nat) (i : Fn) (f : FnState → FnState) : (modFn s p i f).flt = s.flt := rfl
@[simp] theorem modFn_tpt (p : Nat) (i : Fn) (f : FnState → FnState) : (modFn s p i f).tpt = s.tpt := rfl
@[simp] theorem modFn_ties (p : Nat) (i : Fn) (f : FnState → FnState) : (modFn s p i f).ties = s.ties := rfl
@[simp] theorem modFn_plats (p : Nat) (i : Fn) (f : FnState → FnState) : (modFn s p i f).plats = s.plats := rfl
@[simp] theorem modFn_cads (p : Nat) (i : Fn) (f : FnState → FnState) : (modFn s p i f).cads = s.cads := rfl
@[simp] theorem modFn_mon (p : Nat) (i : Fn) (f : FnState → FnState) : (modFn s p i f).mon = s.mon := rfl
@[simp] theorem modFn_ctxs (p : Nat) (i : Fn) (f : FnState → FnState) : (modFn s p i f).ctxs = s.ctxs := rfl
@[simp] theorem modFn_travs (p : Nat) (i : Fn) (f : FnState → FnState) : (modFn s p i f).travs = s.travs := rfl
@[simp] theorem modFn_objs (p : Nat) (i : Fn) (f : FnState → FnState) : (modFn s p i f).objs = s.objs := rfl
@[simp] theorem modFn_snaps (p : Nat) (i : Fn) (f : FnState → FnState) : (modFn s p i f).snaps = s.snaps := rfl
@[simp] theorem modFn_groups (p : Nat) (i : Fn) (f : FnState → FnState) : (modFn s p i f).groups = s.groups := rfl
@[simp] theorem modFn_cams (p : Nat) (i : Fn) (f : FnState → FnState) : (modFn s p i f).cams = s.cams := rfl
@[simp] theorem modFn_pairs (p : Nat) (i : Fn) (f : FnState → FnState) : (modFn s p i f).pairs = s.pairs := rfl
@[simp] theorem modFn_services (p : Nat) (i : Fn) (f : FnState → FnState) : (modFn s p i f).services = s.services := rfl
@[simp] theorem modFn_fans (p : Nat) (i : Fn) (f : FnState → FnState) : (modFn s p i f).fans = s.fans := rfl
@[simp] theorem modFn_fanLegs (p : Nat) (i : Fn) (f : FnState → FnState) : (modFn s p i f).fanLegs = s.fanLegs := rfl
@[simp] theorem modFn_fanSeq (p : Nat) (i : Fn) (f : FnState → FnState) : (modFn s p i f).fanSeq = s.fanSeq := rfl
@[simp] theorem modFn_landings (p : Nat) (i : Fn) (f : FnState → FnState) : (modFn s p i f).landings = s.landings := rfl
@[simp] theorem modFn_xfers (p : Nat) (i : Fn) (f : FnState → FnState) : (modFn s p i f).xfers = s.xfers := rfl
@[simp] theorem modFn_outlets (p : Nat) (i : Fn) (f : FnState → FnState) : (modFn s p i f).outlets = s.outlets := rfl
@[simp] theorem modFn_loose (p : Nat) (i : Fn) (f : FnState → FnState) : (modFn s p i f).loose = s.loose := rfl
@[simp] theorem modFn_tracks (p : Nat) (i : Fn) (f : FnState → FnState) : (modFn s p i f).tracks = s.tracks := rfl
@[simp] theorem modFn_out (p : Nat) (i : Fn) (f : FnState → FnState) : (modFn s p i f).out = s.out := rfl
@[simp] theorem modFn_free (p : Nat) (i : Fn) (f : FnState → FnState) : (modFn s p i f).free = s.free := rfl

/-! ### modTie -/

@[simp] theorem modTie_pending (t : Nat) (f : TiePort → TiePort) : (modTie s t f).pending = s.pending := rfl
@[simp] theorem modTie_part (t : Nat) (f : TiePort → TiePort) : (modTie s t f).part = s.part := rfl
@[simp] theorem modTie_fuses (t : Nat) (f : TiePort → TiePort) : (modTie s t f).fuses = s.fuses := rfl
@[simp] theorem modTie_sup (t : Nat) (f : TiePort → TiePort) : (modTie s t f).sup = s.sup := rfl
@[simp] theorem modTie_glb (t : Nat) (f : TiePort → TiePort) : (modTie s t f).glb = s.glb := rfl
@[simp] theorem modTie_settings (t : Nat) (f : TiePort → TiePort) : (modTie s t f).settings = s.settings := rfl
@[simp] theorem modTie_shadows (t : Nat) (f : TiePort → TiePort) : (modTie s t f).shadows = s.shadows := rfl
@[simp] theorem modTie_svcHeld (t : Nat) (f : TiePort → TiePort) : (modTie s t f).svcHeld = s.svcHeld := rfl
@[simp] theorem modTie_svcStall (t : Nat) (f : TiePort → TiePort) : (modTie s t f).svcStall = s.svcStall := rfl
@[simp] theorem modTie_dtm (t : Nat) (f : TiePort → TiePort) : (modTie s t f).dtm = s.dtm := rfl
@[simp] theorem modTie_flt (t : Nat) (f : TiePort → TiePort) : (modTie s t f).flt = s.flt := rfl
@[simp] theorem modTie_ports (t : Nat) (f : TiePort → TiePort) : (modTie s t f).ports = s.ports := rfl
@[simp] theorem modTie_tpt (t : Nat) (f : TiePort → TiePort) : (modTie s t f).tpt = s.tpt := rfl
@[simp] theorem modTie_plats (t : Nat) (f : TiePort → TiePort) : (modTie s t f).plats = s.plats := rfl
@[simp] theorem modTie_cads (t : Nat) (f : TiePort → TiePort) : (modTie s t f).cads = s.cads := rfl
@[simp] theorem modTie_mon (t : Nat) (f : TiePort → TiePort) : (modTie s t f).mon = s.mon := rfl
@[simp] theorem modTie_ctxs (t : Nat) (f : TiePort → TiePort) : (modTie s t f).ctxs = s.ctxs := rfl
@[simp] theorem modTie_travs (t : Nat) (f : TiePort → TiePort) : (modTie s t f).travs = s.travs := rfl
@[simp] theorem modTie_objs (t : Nat) (f : TiePort → TiePort) : (modTie s t f).objs = s.objs := rfl
@[simp] theorem modTie_snaps (t : Nat) (f : TiePort → TiePort) : (modTie s t f).snaps = s.snaps := rfl
@[simp] theorem modTie_groups (t : Nat) (f : TiePort → TiePort) : (modTie s t f).groups = s.groups := rfl
@[simp] theorem modTie_cams (t : Nat) (f : TiePort → TiePort) : (modTie s t f).cams = s.cams := rfl
@[simp] theorem modTie_pairs (t : Nat) (f : TiePort → TiePort) : (modTie s t f).pairs = s.pairs := rfl
@[simp] theorem modTie_services (t : Nat) (f : TiePort → TiePort) : (modTie s t f).services = s.services := rfl
@[simp] theorem modTie_fans (t : Nat) (f : TiePort → TiePort) : (modTie s t f).fans = s.fans := rfl
@[simp] theorem modTie_fanLegs (t : Nat) (f : TiePort → TiePort) : (modTie s t f).fanLegs = s.fanLegs := rfl
@[simp] theorem modTie_fanSeq (t : Nat) (f : TiePort → TiePort) : (modTie s t f).fanSeq = s.fanSeq := rfl
@[simp] theorem modTie_landings (t : Nat) (f : TiePort → TiePort) : (modTie s t f).landings = s.landings := rfl
@[simp] theorem modTie_xfers (t : Nat) (f : TiePort → TiePort) : (modTie s t f).xfers = s.xfers := rfl
@[simp] theorem modTie_outlets (t : Nat) (f : TiePort → TiePort) : (modTie s t f).outlets = s.outlets := rfl
@[simp] theorem modTie_loose (t : Nat) (f : TiePort → TiePort) : (modTie s t f).loose = s.loose := rfl
@[simp] theorem modTie_tracks (t : Nat) (f : TiePort → TiePort) : (modTie s t f).tracks = s.tracks := rfl
@[simp] theorem modTie_out (t : Nat) (f : TiePort → TiePort) : (modTie s t f).out = s.out := rfl
@[simp] theorem modTie_free (t : Nat) (f : TiePort → TiePort) : (modTie s t f).free = s.free := rfl

/-! ### modPlat -/

@[simp] theorem modPlat_pending (p : Nat) (f : Plat → Plat) : (modPlat s p f).pending = s.pending := rfl
@[simp] theorem modPlat_part (p : Nat) (f : Plat → Plat) : (modPlat s p f).part = s.part := rfl
@[simp] theorem modPlat_fuses (p : Nat) (f : Plat → Plat) : (modPlat s p f).fuses = s.fuses := rfl
@[simp] theorem modPlat_sup (p : Nat) (f : Plat → Plat) : (modPlat s p f).sup = s.sup := rfl
@[simp] theorem modPlat_glb (p : Nat) (f : Plat → Plat) : (modPlat s p f).glb = s.glb := rfl
@[simp] theorem modPlat_settings (p : Nat) (f : Plat → Plat) : (modPlat s p f).settings = s.settings := rfl
@[simp] theorem modPlat_shadows (p : Nat) (f : Plat → Plat) : (modPlat s p f).shadows = s.shadows := rfl
@[simp] theorem modPlat_svcHeld (p : Nat) (f : Plat → Plat) : (modPlat s p f).svcHeld = s.svcHeld := rfl
@[simp] theorem modPlat_svcStall (p : Nat) (f : Plat → Plat) : (modPlat s p f).svcStall = s.svcStall := rfl
@[simp] theorem modPlat_dtm (p : Nat) (f : Plat → Plat) : (modPlat s p f).dtm = s.dtm := rfl
@[simp] theorem modPlat_flt (p : Nat) (f : Plat → Plat) : (modPlat s p f).flt = s.flt := rfl
@[simp] theorem modPlat_ports (p : Nat) (f : Plat → Plat) : (modPlat s p f).ports = s.ports := rfl
@[simp] theorem modPlat_tpt (p : Nat) (f : Plat → Plat) : (modPlat s p f).tpt = s.tpt := rfl
@[simp] theorem modPlat_ties (p : Nat) (f : Plat → Plat) : (modPlat s p f).ties = s.ties := rfl
@[simp] theorem modPlat_cads (p : Nat) (f : Plat → Plat) : (modPlat s p f).cads = s.cads := rfl
@[simp] theorem modPlat_mon (p : Nat) (f : Plat → Plat) : (modPlat s p f).mon = s.mon := rfl
@[simp] theorem modPlat_ctxs (p : Nat) (f : Plat → Plat) : (modPlat s p f).ctxs = s.ctxs := rfl
@[simp] theorem modPlat_travs (p : Nat) (f : Plat → Plat) : (modPlat s p f).travs = s.travs := rfl
@[simp] theorem modPlat_objs (p : Nat) (f : Plat → Plat) : (modPlat s p f).objs = s.objs := rfl
@[simp] theorem modPlat_snaps (p : Nat) (f : Plat → Plat) : (modPlat s p f).snaps = s.snaps := rfl
@[simp] theorem modPlat_groups (p : Nat) (f : Plat → Plat) : (modPlat s p f).groups = s.groups := rfl
@[simp] theorem modPlat_cams (p : Nat) (f : Plat → Plat) : (modPlat s p f).cams = s.cams := rfl
@[simp] theorem modPlat_pairs (p : Nat) (f : Plat → Plat) : (modPlat s p f).pairs = s.pairs := rfl
@[simp] theorem modPlat_services (p : Nat) (f : Plat → Plat) : (modPlat s p f).services = s.services := rfl
@[simp] theorem modPlat_fans (p : Nat) (f : Plat → Plat) : (modPlat s p f).fans = s.fans := rfl
@[simp] theorem modPlat_fanLegs (p : Nat) (f : Plat → Plat) : (modPlat s p f).fanLegs = s.fanLegs := rfl
@[simp] theorem modPlat_fanSeq (p : Nat) (f : Plat → Plat) : (modPlat s p f).fanSeq = s.fanSeq := rfl
@[simp] theorem modPlat_landings (p : Nat) (f : Plat → Plat) : (modPlat s p f).landings = s.landings := rfl
@[simp] theorem modPlat_xfers (p : Nat) (f : Plat → Plat) : (modPlat s p f).xfers = s.xfers := rfl
@[simp] theorem modPlat_outlets (p : Nat) (f : Plat → Plat) : (modPlat s p f).outlets = s.outlets := rfl
@[simp] theorem modPlat_loose (p : Nat) (f : Plat → Plat) : (modPlat s p f).loose = s.loose := rfl
@[simp] theorem modPlat_tracks (p : Nat) (f : Plat → Plat) : (modPlat s p f).tracks = s.tracks := rfl
@[simp] theorem modPlat_out (p : Nat) (f : Plat → Plat) : (modPlat s p f).out = s.out := rfl
@[simp] theorem modPlat_free (p : Nat) (f : Plat → Plat) : (modPlat s p f).free = s.free := rfl

/-! ### modCad -/

@[simp] theorem modCad_pending (p : Nat) (f : Cad → Cad) : (modCad s p f).pending = s.pending := rfl
@[simp] theorem modCad_part (p : Nat) (f : Cad → Cad) : (modCad s p f).part = s.part := rfl
@[simp] theorem modCad_fuses (p : Nat) (f : Cad → Cad) : (modCad s p f).fuses = s.fuses := rfl
@[simp] theorem modCad_sup (p : Nat) (f : Cad → Cad) : (modCad s p f).sup = s.sup := rfl
@[simp] theorem modCad_glb (p : Nat) (f : Cad → Cad) : (modCad s p f).glb = s.glb := rfl
@[simp] theorem modCad_settings (p : Nat) (f : Cad → Cad) : (modCad s p f).settings = s.settings := rfl
@[simp] theorem modCad_shadows (p : Nat) (f : Cad → Cad) : (modCad s p f).shadows = s.shadows := rfl
@[simp] theorem modCad_svcHeld (p : Nat) (f : Cad → Cad) : (modCad s p f).svcHeld = s.svcHeld := rfl
@[simp] theorem modCad_svcStall (p : Nat) (f : Cad → Cad) : (modCad s p f).svcStall = s.svcStall := rfl
@[simp] theorem modCad_dtm (p : Nat) (f : Cad → Cad) : (modCad s p f).dtm = s.dtm := rfl
@[simp] theorem modCad_flt (p : Nat) (f : Cad → Cad) : (modCad s p f).flt = s.flt := rfl
@[simp] theorem modCad_ports (p : Nat) (f : Cad → Cad) : (modCad s p f).ports = s.ports := rfl
@[simp] theorem modCad_tpt (p : Nat) (f : Cad → Cad) : (modCad s p f).tpt = s.tpt := rfl
@[simp] theorem modCad_ties (p : Nat) (f : Cad → Cad) : (modCad s p f).ties = s.ties := rfl
@[simp] theorem modCad_plats (p : Nat) (f : Cad → Cad) : (modCad s p f).plats = s.plats := rfl
@[simp] theorem modCad_mon (p : Nat) (f : Cad → Cad) : (modCad s p f).mon = s.mon := rfl
@[simp] theorem modCad_ctxs (p : Nat) (f : Cad → Cad) : (modCad s p f).ctxs = s.ctxs := rfl
@[simp] theorem modCad_travs (p : Nat) (f : Cad → Cad) : (modCad s p f).travs = s.travs := rfl
@[simp] theorem modCad_objs (p : Nat) (f : Cad → Cad) : (modCad s p f).objs = s.objs := rfl
@[simp] theorem modCad_snaps (p : Nat) (f : Cad → Cad) : (modCad s p f).snaps = s.snaps := rfl
@[simp] theorem modCad_groups (p : Nat) (f : Cad → Cad) : (modCad s p f).groups = s.groups := rfl
@[simp] theorem modCad_cams (p : Nat) (f : Cad → Cad) : (modCad s p f).cams = s.cams := rfl
@[simp] theorem modCad_pairs (p : Nat) (f : Cad → Cad) : (modCad s p f).pairs = s.pairs := rfl
@[simp] theorem modCad_services (p : Nat) (f : Cad → Cad) : (modCad s p f).services = s.services := rfl
@[simp] theorem modCad_fans (p : Nat) (f : Cad → Cad) : (modCad s p f).fans = s.fans := rfl
@[simp] theorem modCad_fanLegs (p : Nat) (f : Cad → Cad) : (modCad s p f).fanLegs = s.fanLegs := rfl
@[simp] theorem modCad_fanSeq (p : Nat) (f : Cad → Cad) : (modCad s p f).fanSeq = s.fanSeq := rfl
@[simp] theorem modCad_landings (p : Nat) (f : Cad → Cad) : (modCad s p f).landings = s.landings := rfl
@[simp] theorem modCad_xfers (p : Nat) (f : Cad → Cad) : (modCad s p f).xfers = s.xfers := rfl
@[simp] theorem modCad_outlets (p : Nat) (f : Cad → Cad) : (modCad s p f).outlets = s.outlets := rfl
@[simp] theorem modCad_loose (p : Nat) (f : Cad → Cad) : (modCad s p f).loose = s.loose := rfl
@[simp] theorem modCad_tracks (p : Nat) (f : Cad → Cad) : (modCad s p f).tracks = s.tracks := rfl
@[simp] theorem modCad_out (p : Nat) (f : Cad → Cad) : (modCad s p f).out = s.out := rfl
@[simp] theorem modCad_free (p : Nat) (f : Cad → Cad) : (modCad s p f).free = s.free := rfl

/-! ### modCtx -/

@[simp] theorem modCtx_pending (c : Nat) (f : Ctx → Ctx) : (modCtx s c f).pending = s.pending := rfl
@[simp] theorem modCtx_part (c : Nat) (f : Ctx → Ctx) : (modCtx s c f).part = s.part := rfl
@[simp] theorem modCtx_fuses (c : Nat) (f : Ctx → Ctx) : (modCtx s c f).fuses = s.fuses := rfl
@[simp] theorem modCtx_sup (c : Nat) (f : Ctx → Ctx) : (modCtx s c f).sup = s.sup := rfl
@[simp] theorem modCtx_glb (c : Nat) (f : Ctx → Ctx) : (modCtx s c f).glb = s.glb := rfl
@[simp] theorem modCtx_settings (c : Nat) (f : Ctx → Ctx) : (modCtx s c f).settings = s.settings := rfl
@[simp] theorem modCtx_shadows (c : Nat) (f : Ctx → Ctx) : (modCtx s c f).shadows = s.shadows := rfl
@[simp] theorem modCtx_svcHeld (c : Nat) (f : Ctx → Ctx) : (modCtx s c f).svcHeld = s.svcHeld := rfl
@[simp] theorem modCtx_svcStall (c : Nat) (f : Ctx → Ctx) : (modCtx s c f).svcStall = s.svcStall := rfl
@[simp] theorem modCtx_dtm (c : Nat) (f : Ctx → Ctx) : (modCtx s c f).dtm = s.dtm := rfl
@[simp] theorem modCtx_flt (c : Nat) (f : Ctx → Ctx) : (modCtx s c f).flt = s.flt := rfl
@[simp] theorem modCtx_ports (c : Nat) (f : Ctx → Ctx) : (modCtx s c f).ports = s.ports := rfl
@[simp] theorem modCtx_tpt (c : Nat) (f : Ctx → Ctx) : (modCtx s c f).tpt = s.tpt := rfl
@[simp] theorem modCtx_ties (c : Nat) (f : Ctx → Ctx) : (modCtx s c f).ties = s.ties := rfl
@[simp] theorem modCtx_plats (c : Nat) (f : Ctx → Ctx) : (modCtx s c f).plats = s.plats := rfl
@[simp] theorem modCtx_cads (c : Nat) (f : Ctx → Ctx) : (modCtx s c f).cads = s.cads := rfl
@[simp] theorem modCtx_mon (c : Nat) (f : Ctx → Ctx) : (modCtx s c f).mon = s.mon := rfl
@[simp] theorem modCtx_travs (c : Nat) (f : Ctx → Ctx) : (modCtx s c f).travs = s.travs := rfl
@[simp] theorem modCtx_objs (c : Nat) (f : Ctx → Ctx) : (modCtx s c f).objs = s.objs := rfl
@[simp] theorem modCtx_snaps (c : Nat) (f : Ctx → Ctx) : (modCtx s c f).snaps = s.snaps := rfl
@[simp] theorem modCtx_groups (c : Nat) (f : Ctx → Ctx) : (modCtx s c f).groups = s.groups := rfl
@[simp] theorem modCtx_cams (c : Nat) (f : Ctx → Ctx) : (modCtx s c f).cams = s.cams := rfl
@[simp] theorem modCtx_pairs (c : Nat) (f : Ctx → Ctx) : (modCtx s c f).pairs = s.pairs := rfl
@[simp] theorem modCtx_services (c : Nat) (f : Ctx → Ctx) : (modCtx s c f).services = s.services := rfl
@[simp] theorem modCtx_fans (c : Nat) (f : Ctx → Ctx) : (modCtx s c f).fans = s.fans := rfl
@[simp] theorem modCtx_fanLegs (c : Nat) (f : Ctx → Ctx) : (modCtx s c f).fanLegs = s.fanLegs := rfl
@[simp] theorem modCtx_fanSeq (c : Nat) (f : Ctx → Ctx) : (modCtx s c f).fanSeq = s.fanSeq := rfl
@[simp] theorem modCtx_landings (c : Nat) (f : Ctx → Ctx) : (modCtx s c f).landings = s.landings := rfl
@[simp] theorem modCtx_xfers (c : Nat) (f : Ctx → Ctx) : (modCtx s c f).xfers = s.xfers := rfl
@[simp] theorem modCtx_outlets (c : Nat) (f : Ctx → Ctx) : (modCtx s c f).outlets = s.outlets := rfl
@[simp] theorem modCtx_loose (c : Nat) (f : Ctx → Ctx) : (modCtx s c f).loose = s.loose := rfl
@[simp] theorem modCtx_tracks (c : Nat) (f : Ctx → Ctx) : (modCtx s c f).tracks = s.tracks := rfl
@[simp] theorem modCtx_out (c : Nat) (f : Ctx → Ctx) : (modCtx s c f).out = s.out := rfl
@[simp] theorem modCtx_free (c : Nat) (f : Ctx → Ctx) : (modCtx s c f).free = s.free := rfl

/-! ### modTrav -/

@[simp] theorem modTrav_pending (c h : Nat) (f : Trav → Trav) : (modTrav s c h f).pending = s.pending := rfl
@[simp] theorem modTrav_part (c h : Nat) (f : Trav → Trav) : (modTrav s c h f).part = s.part := rfl
@[simp] theorem modTrav_fuses (c h : Nat) (f : Trav → Trav) : (modTrav s c h f).fuses = s.fuses := rfl
@[simp] theorem modTrav_sup (c h : Nat) (f : Trav → Trav) : (modTrav s c h f).sup = s.sup := rfl
@[simp] theorem modTrav_glb (c h : Nat) (f : Trav → Trav) : (modTrav s c h f).glb = s.glb := rfl
@[simp] theorem modTrav_settings (c h : Nat) (f : Trav → Trav) : (modTrav s c h f).settings = s.settings := rfl
@[simp] theorem modTrav_shadows (c h : Nat) (f : Trav → Trav) : (modTrav s c h f).shadows = s.shadows := rfl
@[simp] theorem modTrav_svcHeld (c h : Nat) (f : Trav → Trav) : (modTrav s c h f).svcHeld = s.svcHeld := rfl
@[simp] theorem modTrav_svcStall (c h : Nat) (f : Trav → Trav) : (modTrav s c h f).svcStall = s.svcStall := rfl
@[simp] theorem modTrav_dtm (c h : Nat) (f : Trav → Trav) : (modTrav s c h f).dtm = s.dtm := rfl
@[simp] theorem modTrav_flt (c h : Nat) (f : Trav → Trav) : (modTrav s c h f).flt = s.flt := rfl
@[simp] theorem modTrav_ports (c h : Nat) (f : Trav → Trav) : (modTrav s c h f).ports = s.ports := rfl
@[simp] theorem modTrav_tpt (c h : Nat) (f : Trav → Trav) : (modTrav s c h f).tpt = s.tpt := rfl
@[simp] theorem modTrav_ties (c h : Nat) (f : Trav → Trav) : (modTrav s c h f).ties = s.ties := rfl
@[simp] theorem modTrav_plats (c h : Nat) (f : Trav → Trav) : (modTrav s c h f).plats = s.plats := rfl
@[simp] theorem modTrav_cads (c h : Nat) (f : Trav → Trav) : (modTrav s c h f).cads = s.cads := rfl
@[simp] theorem modTrav_mon (c h : Nat) (f : Trav → Trav) : (modTrav s c h f).mon = s.mon := rfl
@[simp] theorem modTrav_ctxs (c h : Nat) (f : Trav → Trav) : (modTrav s c h f).ctxs = s.ctxs := rfl
@[simp] theorem modTrav_objs (c h : Nat) (f : Trav → Trav) : (modTrav s c h f).objs = s.objs := rfl
@[simp] theorem modTrav_snaps (c h : Nat) (f : Trav → Trav) : (modTrav s c h f).snaps = s.snaps := rfl
@[simp] theorem modTrav_groups (c h : Nat) (f : Trav → Trav) : (modTrav s c h f).groups = s.groups := rfl
@[simp] theorem modTrav_cams (c h : Nat) (f : Trav → Trav) : (modTrav s c h f).cams = s.cams := rfl
@[simp] theorem modTrav_pairs (c h : Nat) (f : Trav → Trav) : (modTrav s c h f).pairs = s.pairs := rfl
@[simp] theorem modTrav_services (c h : Nat) (f : Trav → Trav) : (modTrav s c h f).services = s.services := rfl
@[simp] theorem modTrav_fans (c h : Nat) (f : Trav → Trav) : (modTrav s c h f).fans = s.fans := rfl
@[simp] theorem modTrav_fanLegs (c h : Nat) (f : Trav → Trav) : (modTrav s c h f).fanLegs = s.fanLegs := rfl
@[simp] theorem modTrav_fanSeq (c h : Nat) (f : Trav → Trav) : (modTrav s c h f).fanSeq = s.fanSeq := rfl
@[simp] theorem modTrav_landings (c h : Nat) (f : Trav → Trav) : (modTrav s c h f).landings = s.landings := rfl
@[simp] theorem modTrav_xfers (c h : Nat) (f : Trav → Trav) : (modTrav s c h f).xfers = s.xfers := rfl
@[simp] theorem modTrav_outlets (c h : Nat) (f : Trav → Trav) : (modTrav s c h f).outlets = s.outlets := rfl
@[simp] theorem modTrav_loose (c h : Nat) (f : Trav → Trav) : (modTrav s c h f).loose = s.loose := rfl
@[simp] theorem modTrav_tracks (c h : Nat) (f : Trav → Trav) : (modTrav s c h f).tracks = s.tracks := rfl
@[simp] theorem modTrav_out (c h : Nat) (f : Trav → Trav) : (modTrav s c h f).out = s.out := rfl
@[simp] theorem modTrav_free (c h : Nat) (f : Trav → Trav) : (modTrav s c h f).free = s.free := rfl

/-! ### modObj -/

@[simp] theorem modObj_pending (k : Nat) (f : Obj → Obj) : (modObj s k f).pending = s.pending := rfl
@[simp] theorem modObj_part (k : Nat) (f : Obj → Obj) : (modObj s k f).part = s.part := rfl
@[simp] theorem modObj_fuses (k : Nat) (f : Obj → Obj) : (modObj s k f).fuses = s.fuses := rfl
@[simp] theorem modObj_sup (k : Nat) (f : Obj → Obj) : (modObj s k f).sup = s.sup := rfl
@[simp] theorem modObj_glb (k : Nat) (f : Obj → Obj) : (modObj s k f).glb = s.glb := rfl
@[simp] theorem modObj_settings (k : Nat) (f : Obj → Obj) : (modObj s k f).settings = s.settings := rfl
@[simp] theorem modObj_shadows (k : Nat) (f : Obj → Obj) : (modObj s k f).shadows = s.shadows := rfl
@[simp] theorem modObj_svcHeld (k : Nat) (f : Obj → Obj) : (modObj s k f).svcHeld = s.svcHeld := rfl
@[simp] theorem modObj_svcStall (k : Nat) (f : Obj → Obj) : (modObj s k f).svcStall = s.svcStall := rfl
@[simp] theorem modObj_snaps (k : Nat) (f : Obj → Obj) : (modObj s k f).snaps = s.snaps := rfl
@[simp] theorem modObj_dtm (k : Nat) (f : Obj → Obj) : (modObj s k f).dtm = s.dtm := rfl
@[simp] theorem modObj_flt (k : Nat) (f : Obj → Obj) : (modObj s k f).flt = s.flt := rfl
@[simp] theorem modObj_ports (k : Nat) (f : Obj → Obj) : (modObj s k f).ports = s.ports := rfl
@[simp] theorem modObj_tpt (k : Nat) (f : Obj → Obj) : (modObj s k f).tpt = s.tpt := rfl
@[simp] theorem modObj_ties (k : Nat) (f : Obj → Obj) : (modObj s k f).ties = s.ties := rfl
@[simp] theorem modObj_plats (k : Nat) (f : Obj → Obj) : (modObj s k f).plats = s.plats := rfl
@[simp] theorem modObj_cads (k : Nat) (f : Obj → Obj) : (modObj s k f).cads = s.cads := rfl
@[simp] theorem modObj_mon (k : Nat) (f : Obj → Obj) : (modObj s k f).mon = s.mon := rfl
@[simp] theorem modObj_ctxs (k : Nat) (f : Obj → Obj) : (modObj s k f).ctxs = s.ctxs := rfl
@[simp] theorem modObj_travs (k : Nat) (f : Obj → Obj) : (modObj s k f).travs = s.travs := rfl
@[simp] theorem modObj_groups (k : Nat) (f : Obj → Obj) : (modObj s k f).groups = s.groups := rfl
@[simp] theorem modObj_cams (k : Nat) (f : Obj → Obj) : (modObj s k f).cams = s.cams := rfl
@[simp] theorem modObj_pairs (k : Nat) (f : Obj → Obj) : (modObj s k f).pairs = s.pairs := rfl
@[simp] theorem modObj_services (k : Nat) (f : Obj → Obj) : (modObj s k f).services = s.services := rfl
@[simp] theorem modObj_fans (k : Nat) (f : Obj → Obj) : (modObj s k f).fans = s.fans := rfl
@[simp] theorem modObj_fanLegs (k : Nat) (f : Obj → Obj) : (modObj s k f).fanLegs = s.fanLegs := rfl
@[simp] theorem modObj_fanSeq (k : Nat) (f : Obj → Obj) : (modObj s k f).fanSeq = s.fanSeq := rfl
@[simp] theorem modObj_landings (k : Nat) (f : Obj → Obj) : (modObj s k f).landings = s.landings := rfl
@[simp] theorem modObj_xfers (k : Nat) (f : Obj → Obj) : (modObj s k f).xfers = s.xfers := rfl
@[simp] theorem modObj_outlets (k : Nat) (f : Obj → Obj) : (modObj s k f).outlets = s.outlets := rfl
@[simp] theorem modObj_loose (k : Nat) (f : Obj → Obj) : (modObj s k f).loose = s.loose := rfl
@[simp] theorem modObj_tracks (k : Nat) (f : Obj → Obj) : (modObj s k f).tracks = s.tracks := rfl
@[simp] theorem modObj_out (k : Nat) (f : Obj → Obj) : (modObj s k f).out = s.out := rfl
@[simp] theorem modObj_free (k : Nat) (f : Obj → Obj) : (modObj s k f).free = s.free := rfl

/-! ### modGroup -/

@[simp] theorem modGroup_pending (k : Nat) (f : Chain → Chain) : (modGroup s k f).pending = s.pending := rfl
@[simp] theorem modGroup_part (k : Nat) (f : Chain → Chain) : (modGroup s k f).part = s.part := rfl
@[simp] theorem modGroup_fuses (k : Nat) (f : Chain → Chain) : (modGroup s k f).fuses = s.fuses := rfl
@[simp] theorem modGroup_sup (k : Nat) (f : Chain → Chain) : (modGroup s k f).sup = s.sup := rfl
@[simp] theorem modGroup_glb (k : Nat) (f : Chain → Chain) : (modGroup s k f).glb = s.glb := rfl
@[simp] theorem modGroup_settings (k : Nat) (f : Chain → Chain) : (modGroup s k f).settings = s.settings := rfl
@[simp] theorem modGroup_shadows (k : Nat) (f : Chain → Chain) : (modGroup s k f).shadows = s.shadows := rfl
@[simp] theorem modGroup_svcHeld (k : Nat) (f : Chain → Chain) : (modGroup s k f).svcHeld = s.svcHeld := rfl
@[simp] theorem modGroup_svcStall (k : Nat) (f : Chain → Chain) : (modGroup s k f).svcStall = s.svcStall := rfl
@[simp] theorem modGroup_dtm (k : Nat) (f : Chain → Chain) : (modGroup s k f).dtm = s.dtm := rfl
@[simp] theorem modGroup_flt (k : Nat) (f : Chain → Chain) : (modGroup s k f).flt = s.flt := rfl
@[simp] theorem modGroup_ports (k : Nat) (f : Chain → Chain) : (modGroup s k f).ports = s.ports := rfl
@[simp] theorem modGroup_tpt (k : Nat) (f : Chain → Chain) : (modGroup s k f).tpt = s.tpt := rfl
@[simp] theorem modGroup_ties (k : Nat) (f : Chain → Chain) : (modGroup s k f).ties = s.ties := rfl
@[simp] theorem modGroup_plats (k : Nat) (f : Chain → Chain) : (modGroup s k f).plats = s.plats := rfl
@[simp] theorem modGroup_cads (k : Nat) (f : Chain → Chain) : (modGroup s k f).cads = s.cads := rfl
@[simp] theorem modGroup_mon (k : Nat) (f : Chain → Chain) : (modGroup s k f).mon = s.mon := rfl
@[simp] theorem modGroup_ctxs (k : Nat) (f : Chain → Chain) : (modGroup s k f).ctxs = s.ctxs := rfl
@[simp] theorem modGroup_travs (k : Nat) (f : Chain → Chain) : (modGroup s k f).travs = s.travs := rfl
@[simp] theorem modGroup_objs (k : Nat) (f : Chain → Chain) : (modGroup s k f).objs = s.objs := rfl
@[simp] theorem modGroup_snaps (k : Nat) (f : Chain → Chain) : (modGroup s k f).snaps = s.snaps := rfl
@[simp] theorem modGroup_cams (k : Nat) (f : Chain → Chain) : (modGroup s k f).cams = s.cams := rfl
@[simp] theorem modGroup_pairs (k : Nat) (f : Chain → Chain) : (modGroup s k f).pairs = s.pairs := rfl
@[simp] theorem modGroup_services (k : Nat) (f : Chain → Chain) : (modGroup s k f).services = s.services := rfl
@[simp] theorem modGroup_fans (k : Nat) (f : Chain → Chain) : (modGroup s k f).fans = s.fans := rfl
@[simp] theorem modGroup_fanLegs (k : Nat) (f : Chain → Chain) : (modGroup s k f).fanLegs = s.fanLegs := rfl
@[simp] theorem modGroup_fanSeq (k : Nat) (f : Chain → Chain) : (modGroup s k f).fanSeq = s.fanSeq := rfl
@[simp] theorem modGroup_landings (k : Nat) (f : Chain → Chain) : (modGroup s k f).landings = s.landings := rfl
@[simp] theorem modGroup_xfers (k : Nat) (f : Chain → Chain) : (modGroup s k f).xfers = s.xfers := rfl
@[simp] theorem modGroup_outlets (k : Nat) (f : Chain → Chain) : (modGroup s k f).outlets = s.outlets := rfl
@[simp] theorem modGroup_loose (k : Nat) (f : Chain → Chain) : (modGroup s k f).loose = s.loose := rfl
@[simp] theorem modGroup_tracks (k : Nat) (f : Chain → Chain) : (modGroup s k f).tracks = s.tracks := rfl
@[simp] theorem modGroup_out (k : Nat) (f : Chain → Chain) : (modGroup s k f).out = s.out := rfl
@[simp] theorem modGroup_free (k : Nat) (f : Chain → Chain) : (modGroup s k f).free = s.free := rfl

/-! ### modCam -/

@[simp] theorem modCam_pending (k : Nat) (f : Cam → Cam) : (modCam s k f).pending = s.pending := rfl
@[simp] theorem modCam_part (k : Nat) (f : Cam → Cam) : (modCam s k f).part = s.part := rfl
@[simp] theorem modCam_fuses (k : Nat) (f : Cam → Cam) : (modCam s k f).fuses = s.fuses := rfl
@[simp] theorem modCam_sup (k : Nat) (f : Cam → Cam) : (modCam s k f).sup = s.sup := rfl
@[simp] theorem modCam_glb (k : Nat) (f : Cam → Cam) : (modCam s k f).glb = s.glb := rfl
@[simp] theorem modCam_settings (k : Nat) (f : Cam → Cam) : (modCam s k f).settings = s.settings := rfl
@[simp] theorem modCam_shadows (k : Nat) (f : Cam → Cam) : (modCam s k f).shadows = s.shadows := rfl
@[simp] theorem modCam_svcHeld (k : Nat) (f : Cam → Cam) : (modCam s k f).svcHeld = s.svcHeld := rfl
@[simp] theorem modCam_svcStall (k : Nat) (f : Cam → Cam) : (modCam s k f).svcStall = s.svcStall := rfl
@[simp] theorem modCam_dtm (k : Nat) (f : Cam → Cam) : (modCam s k f).dtm = s.dtm := rfl
@[simp] theorem modCam_flt (k : Nat) (f : Cam → Cam) : (modCam s k f).flt = s.flt := rfl
@[simp] theorem modCam_ports (k : Nat) (f : Cam → Cam) : (modCam s k f).ports = s.ports := rfl
@[simp] theorem modCam_tpt (k : Nat) (f : Cam → Cam) : (modCam s k f).tpt = s.tpt := rfl
@[simp] theorem modCam_ties (k : Nat) (f : Cam → Cam) : (modCam s k f).ties = s.ties := rfl
@[simp] theorem modCam_plats (k : Nat) (f : Cam → Cam) : (modCam s k f).plats = s.plats := rfl
@[simp] theorem modCam_cads (k : Nat) (f : Cam → Cam) : (modCam s k f).cads = s.cads := rfl
@[simp] theorem modCam_mon (k : Nat) (f : Cam → Cam) : (modCam s k f).mon = s.mon := rfl
@[simp] theorem modCam_ctxs (k : Nat) (f : Cam → Cam) : (modCam s k f).ctxs = s.ctxs := rfl
@[simp] theorem modCam_travs (k : Nat) (f : Cam → Cam) : (modCam s k f).travs = s.travs := rfl
@[simp] theorem modCam_objs (k : Nat) (f : Cam → Cam) : (modCam s k f).objs = s.objs := rfl
@[simp] theorem modCam_snaps (k : Nat) (f : Cam → Cam) : (modCam s k f).snaps = s.snaps := rfl
@[simp] theorem modCam_groups (k : Nat) (f : Cam → Cam) : (modCam s k f).groups = s.groups := rfl
@[simp] theorem modCam_pairs (k : Nat) (f : Cam → Cam) : (modCam s k f).pairs = s.pairs := rfl
@[simp] theorem modCam_services (k : Nat) (f : Cam → Cam) : (modCam s k f).services = s.services := rfl
@[simp] theorem modCam_fans (k : Nat) (f : Cam → Cam) : (modCam s k f).fans = s.fans := rfl
@[simp] theorem modCam_fanLegs (k : Nat) (f : Cam → Cam) : (modCam s k f).fanLegs = s.fanLegs := rfl
@[simp] theorem modCam_fanSeq (k : Nat) (f : Cam → Cam) : (modCam s k f).fanSeq = s.fanSeq := rfl
@[simp] theorem modCam_landings (k : Nat) (f : Cam → Cam) : (modCam s k f).landings = s.landings := rfl
@[simp] theorem modCam_xfers (k : Nat) (f : Cam → Cam) : (modCam s k f).xfers = s.xfers := rfl
@[simp] theorem modCam_outlets (k : Nat) (f : Cam → Cam) : (modCam s k f).outlets = s.outlets := rfl
@[simp] theorem modCam_loose (k : Nat) (f : Cam → Cam) : (modCam s k f).loose = s.loose := rfl
@[simp] theorem modCam_tracks (k : Nat) (f : Cam → Cam) : (modCam s k f).tracks = s.tracks := rfl
@[simp] theorem modCam_out (k : Nat) (f : Cam → Cam) : (modCam s k f).out = s.out := rfl
@[simp] theorem modCam_free (k : Nat) (f : Cam → Cam) : (modCam s k f).free = s.free := rfl

/-! ### modPair -/

@[simp] theorem modPair_pending (k : Nat) (f : Pair → Pair) : (modPair s k f).pending = s.pending := rfl
@[simp] theorem modPair_part (k : Nat) (f : Pair → Pair) : (modPair s k f).part = s.part := rfl
@[simp] theorem modPair_fuses (k : Nat) (f : Pair → Pair) : (modPair s k f).fuses = s.fuses := rfl
@[simp] theorem modPair_sup (k : Nat) (f : Pair → Pair) : (modPair s k f).sup = s.sup := rfl
@[simp] theorem modPair_glb (k : Nat) (f : Pair → Pair) : (modPair s k f).glb = s.glb := rfl
@[simp] theorem modPair_settings (k : Nat) (f : Pair → Pair) : (modPair s k f).settings = s.settings := rfl
@[simp] theorem modPair_shadows (k : Nat) (f : Pair → Pair) : (modPair s k f).shadows = s.shadows := rfl
@[simp] theorem modPair_svcHeld (k : Nat) (f : Pair → Pair) : (modPair s k f).svcHeld = s.svcHeld := rfl
@[simp] theorem modPair_svcStall (k : Nat) (f : Pair → Pair) : (modPair s k f).svcStall = s.svcStall := rfl
@[simp] theorem modPair_dtm (k : Nat) (f : Pair → Pair) : (modPair s k f).dtm = s.dtm := rfl
@[simp] theorem modPair_flt (k : Nat) (f : Pair → Pair) : (modPair s k f).flt = s.flt := rfl
@[simp] theorem modPair_ports (k : Nat) (f : Pair → Pair) : (modPair s k f).ports = s.ports := rfl
@[simp] theorem modPair_tpt (k : Nat) (f : Pair → Pair) : (modPair s k f).tpt = s.tpt := rfl
@[simp] theorem modPair_ties (k : Nat) (f : Pair → Pair) : (modPair s k f).ties = s.ties := rfl
@[simp] theorem modPair_plats (k : Nat) (f : Pair → Pair) : (modPair s k f).plats = s.plats := rfl
@[simp] theorem modPair_cads (k : Nat) (f : Pair → Pair) : (modPair s k f).cads = s.cads := rfl
@[simp] theorem modPair_mon (k : Nat) (f : Pair → Pair) : (modPair s k f).mon = s.mon := rfl
@[simp] theorem modPair_ctxs (k : Nat) (f : Pair → Pair) : (modPair s k f).ctxs = s.ctxs := rfl
@[simp] theorem modPair_travs (k : Nat) (f : Pair → Pair) : (modPair s k f).travs = s.travs := rfl
@[simp] theorem modPair_objs (k : Nat) (f : Pair → Pair) : (modPair s k f).objs = s.objs := rfl
@[simp] theorem modPair_snaps (k : Nat) (f : Pair → Pair) : (modPair s k f).snaps = s.snaps := rfl
@[simp] theorem modPair_groups (k : Nat) (f : Pair → Pair) : (modPair s k f).groups = s.groups := rfl
@[simp] theorem modPair_cams (k : Nat) (f : Pair → Pair) : (modPair s k f).cams = s.cams := rfl
@[simp] theorem modPair_services (k : Nat) (f : Pair → Pair) : (modPair s k f).services = s.services := rfl
@[simp] theorem modPair_fans (k : Nat) (f : Pair → Pair) : (modPair s k f).fans = s.fans := rfl
@[simp] theorem modPair_fanLegs (k : Nat) (f : Pair → Pair) : (modPair s k f).fanLegs = s.fanLegs := rfl
@[simp] theorem modPair_fanSeq (k : Nat) (f : Pair → Pair) : (modPair s k f).fanSeq = s.fanSeq := rfl
@[simp] theorem modPair_landings (k : Nat) (f : Pair → Pair) : (modPair s k f).landings = s.landings := rfl
@[simp] theorem modPair_xfers (k : Nat) (f : Pair → Pair) : (modPair s k f).xfers = s.xfers := rfl
@[simp] theorem modPair_outlets (k : Nat) (f : Pair → Pair) : (modPair s k f).outlets = s.outlets := rfl
@[simp] theorem modPair_loose (k : Nat) (f : Pair → Pair) : (modPair s k f).loose = s.loose := rfl
@[simp] theorem modPair_tracks (k : Nat) (f : Pair → Pair) : (modPair s k f).tracks = s.tracks := rfl
@[simp] theorem modPair_out (k : Nat) (f : Pair → Pair) : (modPair s k f).out = s.out := rfl
@[simp] theorem modPair_free (k : Nat) (f : Pair → Pair) : (modPair s k f).free = s.free := rfl

/-! ### modOutlet -/

@[simp] theorem modOutlet_pending (k : Nat) (f : Outlet → Outlet) : (modOutlet s k f).pending = s.pending := rfl
@[simp] theorem modOutlet_part (k : Nat) (f : Outlet → Outlet) : (modOutlet s k f).part = s.part := rfl
@[simp] theorem modOutlet_fuses (k : Nat) (f : Outlet → Outlet) : (modOutlet s k f).fuses = s.fuses := rfl
@[simp] theorem modOutlet_sup (k : Nat) (f : Outlet → Outlet) : (modOutlet s k f).sup = s.sup := rfl
@[simp] theorem modOutlet_glb (k : Nat) (f : Outlet → Outlet) : (modOutlet s k f).glb = s.glb := rfl
@[simp] theorem modOutlet_settings (k : Nat) (f : Outlet → Outlet) : (modOutlet s k f).settings = s.settings := rfl
@[simp] theorem modOutlet_shadows (k : Nat) (f : Outlet → Outlet) : (modOutlet s k f).shadows = s.shadows := rfl
@[simp] theorem modOutlet_svcHeld (k : Nat) (f : Outlet → Outlet) : (modOutlet s k f).svcHeld = s.svcHeld := rfl
@[simp] theorem modOutlet_svcStall (k : Nat) (f : Outlet → Outlet) : (modOutlet s k f).svcStall = s.svcStall := rfl
@[simp] theorem modOutlet_dtm (k : Nat) (f : Outlet → Outlet) : (modOutlet s k f).dtm = s.dtm := rfl
@[simp] theorem modOutlet_flt (k : Nat) (f : Outlet → Outlet) : (modOutlet s k f).flt = s.flt := rfl
@[simp] theorem modOutlet_ports (k : Nat) (f : Outlet → Outlet) : (modOutlet s k f).ports = s.ports := rfl
@[simp] theorem modOutlet_tpt (k : Nat) (f : Outlet → Outlet) : (modOutlet s k f).tpt = s.tpt := rfl
@[simp] theorem modOutlet_ties (k : Nat) (f : Outlet → Outlet) : (modOutlet s k f).ties = s.ties := rfl
@[simp] theorem modOutlet_plats (k : Nat) (f : Outlet → Outlet) : (modOutlet s k f).plats = s.plats := rfl
@[simp] theorem modOutlet_cads (k : Nat) (f : Outlet → Outlet) : (modOutlet s k f).cads = s.cads := rfl
@[simp] theorem modOutlet_mon (k : Nat) (f : Outlet → Outlet) : (modOutlet s k f).mon = s.mon := rfl
@[simp] theorem modOutlet_ctxs (k : Nat) (f : Outlet → Outlet) : (modOutlet s k f).ctxs = s.ctxs := rfl
@[simp] theorem modOutlet_travs (k : Nat) (f : Outlet → Outlet) : (modOutlet s k f).travs = s.travs := rfl
@[simp] theorem modOutlet_objs (k : Nat) (f : Outlet → Outlet) : (modOutlet s k f).objs = s.objs := rfl
@[simp] theorem modOutlet_snaps (k : Nat) (f : Outlet → Outlet) : (modOutlet s k f).snaps = s.snaps := rfl
@[simp] theorem modOutlet_groups (k : Nat) (f : Outlet → Outlet) : (modOutlet s k f).groups = s.groups := rfl
@[simp] theorem modOutlet_cams (k : Nat) (f : Outlet → Outlet) : (modOutlet s k f).cams = s.cams := rfl
@[simp] theorem modOutlet_pairs (k : Nat) (f : Outlet → Outlet) : (modOutlet s k f).pairs = s.pairs := rfl
@[simp] theorem modOutlet_services (k : Nat) (f : Outlet → Outlet) : (modOutlet s k f).services = s.services := rfl
@[simp] theorem modOutlet_fans (k : Nat) (f : Outlet → Outlet) : (modOutlet s k f).fans = s.fans := rfl
@[simp] theorem modOutlet_fanLegs (k : Nat) (f : Outlet → Outlet) : (modOutlet s k f).fanLegs = s.fanLegs := rfl
@[simp] theorem modOutlet_fanSeq (k : Nat) (f : Outlet → Outlet) : (modOutlet s k f).fanSeq = s.fanSeq := rfl
@[simp] theorem modOutlet_landings (k : Nat) (f : Outlet → Outlet) : (modOutlet s k f).landings = s.landings := rfl
@[simp] theorem modOutlet_xfers (k : Nat) (f : Outlet → Outlet) : (modOutlet s k f).xfers = s.xfers := rfl
@[simp] theorem modOutlet_tracks (k : Nat) (f : Outlet → Outlet) : (modOutlet s k f).tracks = s.tracks := rfl
@[simp] theorem modOutlet_out (k : Nat) (f : Outlet → Outlet) : (modOutlet s k f).out = s.out := rfl
@[simp] theorem modOutlet_free (k : Nat) (f : Outlet → Outlet) : (modOutlet s k f).free = s.free := rfl

/-! ### emit -/

@[simp] theorem emit_pending (o : Out) : (emit s o).pending = s.pending := rfl
@[simp] theorem emit_part (o : Out) : (emit s o).part = s.part := rfl
@[simp] theorem emit_fuses (o : Out) : (emit s o).fuses = s.fuses := rfl
@[simp] theorem emit_sup (o : Out) : (emit s o).sup = s.sup := rfl
@[simp] theorem emit_glb (o : Out) : (emit s o).glb = s.glb := rfl
@[simp] theorem emit_settings (o : Out) : (emit s o).settings = s.settings := rfl
@[simp] theorem emit_shadows (o : Out) : (emit s o).shadows = s.shadows := rfl
@[simp] theorem emit_svcHeld (o : Out) : (emit s o).svcHeld = s.svcHeld := rfl
@[simp] theorem emit_svcStall (o : Out) : (emit s o).svcStall = s.svcStall := rfl
@[simp] theorem emit_dtm (o : Out) : (emit s o).dtm = s.dtm := rfl
@[simp] theorem emit_flt (o : Out) : (emit s o).flt = s.flt := rfl
@[simp] theorem emit_ports (o : Out) : (emit s o).ports = s.ports := rfl
@[simp] theorem emit_tpt (o : Out) : (emit s o).tpt = s.tpt := rfl
@[simp] theorem emit_ties (o : Out) : (emit s o).ties = s.ties := rfl
@[simp] theorem emit_plats (o : Out) : (emit s o).plats = s.plats := rfl
@[simp] theorem emit_cads (o : Out) : (emit s o).cads = s.cads := rfl
@[simp] theorem emit_mon (o : Out) : (emit s o).mon = s.mon := rfl
@[simp] theorem emit_ctxs (o : Out) : (emit s o).ctxs = s.ctxs := rfl
@[simp] theorem emit_travs (o : Out) : (emit s o).travs = s.travs := rfl
@[simp] theorem emit_objs (o : Out) : (emit s o).objs = s.objs := rfl
@[simp] theorem emit_snaps (o : Out) : (emit s o).snaps = s.snaps := rfl
@[simp] theorem emit_groups (o : Out) : (emit s o).groups = s.groups := rfl
@[simp] theorem emit_cams (o : Out) : (emit s o).cams = s.cams := rfl
@[simp] theorem emit_pairs (o : Out) : (emit s o).pairs = s.pairs := rfl
@[simp] theorem emit_services (o : Out) : (emit s o).services = s.services := rfl
@[simp] theorem emit_fans (o : Out) : (emit s o).fans = s.fans := rfl
@[simp] theorem emit_fanLegs (o : Out) : (emit s o).fanLegs = s.fanLegs := rfl
@[simp] theorem emit_fanSeq (o : Out) : (emit s o).fanSeq = s.fanSeq := rfl
@[simp] theorem emit_landings (o : Out) : (emit s o).landings = s.landings := rfl
@[simp] theorem emit_xfers (o : Out) : (emit s o).xfers = s.xfers := rfl
@[simp] theorem emit_outlets (o : Out) : (emit s o).outlets = s.outlets := rfl
@[simp] theorem emit_loose (o : Out) : (emit s o).loose = s.loose := rfl
@[simp] theorem emit_tracks (o : Out) : (emit s o).tracks = s.tracks := rfl
@[simp] theorem emit_free (o : Out) : (emit s o).free = s.free := rfl

/-! ### The changed entries -/

@[simp] theorem portOf_setPort_same (p : Nat) (x : Port) : portOf (setPort s p x) p = x := by simp [portOf, setPort]
theorem portOf_setPort_ne {p q : Nat} (x : Port) (h : q ≠ p) : portOf (setPort s p x) q = portOf s q := by
  unfold portOf setPort; exact tgetD_tput_ne _ _ _ h
@[simp] theorem portOf_modPort_same (p : Nat) (f : Port → Port) : portOf (modPort s p f) p = f (portOf s p) := by
  unfold modPort; exact portOf_setPort_same _ _ _
theorem portOf_modPort_ne {p q : Nat} (f : Port → Port) (h : q ≠ p) : portOf (modPort s p f) q = portOf s q := by
  unfold modPort; exact portOf_setPort_ne _ _ h
@[simp] theorem tieOf_modTie_same (t : Nat) (f : TiePort → TiePort) : tieOf (modTie s t f) t = f (tieOf s t) := by
  simp [tieOf, modTie]
theorem tieOf_modTie_ne {t u : Nat} (f : TiePort → TiePort) (h : u ≠ t) : tieOf (modTie s t f) u = tieOf s u := by
  unfold tieOf modTie; exact tgetD_tput_ne _ _ _ h
@[simp] theorem platOf_modPlat_same (p : Nat) (f : Plat → Plat) : platOf (modPlat s p f) p = f (platOf s p) := by
  simp [platOf, modPlat]
theorem platOf_modPlat_ne {p q : Nat} (f : Plat → Plat) (h : q ≠ p) : platOf (modPlat s p f) q = platOf s q := by
  unfold platOf modPlat; exact tgetD_tput_ne _ _ _ h
@[simp] theorem cadOf_modCad_same (p : Nat) (f : Cad → Cad) : cadOf (modCad s p f) p = f (cadOf s p) := by
  simp [cadOf, modCad]
theorem cadOf_modCad_ne {p q : Nat} (f : Cad → Cad) (h : q ≠ p) : cadOf (modCad s p f) q = cadOf s q := by
  unfold cadOf modCad; exact tgetD_tput_ne _ _ _ h
@[simp] theorem ctxOf_modCtx_same (c : Nat) (f : Ctx → Ctx) : ctxOf (modCtx s c f) c = (ctxOf s c).map f :=
  tget_tmod_same _ _ _
theorem ctxOf_modCtx_ne {c d : Nat} (f : Ctx → Ctx) (h : d ≠ c) : ctxOf (modCtx s c f) d = ctxOf s d :=
  tget_tmod_ne _ _ h
@[simp] theorem travOf_modTrav_same (c h : Nat) (f : Trav → Trav) : travOf (modTrav s c h f) c h = (travOf s c h).map f :=
  tget_tmod_same _ _ _
theorem travOf_modTrav_ne {c h d g : Nat} (f : Trav → Trav) (hk : travKey d g ≠ travKey c h) :
    travOf (modTrav s c h f) d g = travOf s d g := tget_tmod_ne _ _ hk
@[simp] theorem obj_modObj_same (k : Nat) (f : Obj → Obj) : tget (modObj s k f).objs k = (tget s.objs k).map f :=
  tget_tmod_same _ _ _
theorem obj_modObj_ne {k j : Nat} (f : Obj → Obj) (h : j ≠ k) : tget (modObj s k f).objs j = tget s.objs j :=
  tget_tmod_ne _ _ h
@[simp] theorem group_modGroup_same (k : Nat) (f : Chain → Chain) :
    tget (modGroup s k f).groups k = (tget s.groups k).map f := tget_tmod_same _ _ _
@[simp] theorem cam_modCam_same (k : Nat) (f : Cam → Cam) : tget (modCam s k f).cams k = (tget s.cams k).map f :=
  tget_tmod_same _ _ _
@[simp] theorem pair_modPair_same (k : Nat) (f : Pair → Pair) : tget (modPair s k f).pairs k = (tget s.pairs k).map f :=
  tget_tmod_same _ _ _
@[simp] theorem outlet_modOutlet_same (k : Nat) (f : Outlet → Outlet) :
    tget (modOutlet s k f).outlets k = (tget s.outlets k).map f := tget_tmod_same _ _ _
@[simp] theorem emit_out (o : Out) : (emit s o).out = o :: s.out := rfl

end Sys2Proof.Machine
end

