-- ==== Sys2Proof/Laws/Record.lean ====
section
/-!
SUPPORT. Writing records, once: completions, events, Admin records and interrupts change only contexts, ports and what the package
has put out.
-/
namespace Sys2Proof.Machine
open Sys2Proof

/-- `t` is `s` but for contexts, ports and what was put out. -/
def Written (s t : State) : Prop := ∃ c p o, t = { s with ctxs := c, ports := p, out := o }

@[refl] theorem Written.refl (s : State) : Written s s := ⟨s.ctxs, s.ports, s.out, rfl⟩

@[trans] theorem Written.trans {s t u : State} (h : Written s t) (g : Written t u) : Written s u := by
  obtain ⟨_, _, _, rfl⟩ := h; obtain ⟨c, p, o, rfl⟩ := g; exact ⟨c, p, o, rfl⟩

theorem foldl_written {β : Type} (f : State → β → State) (hf : ∀ s b, Written s (f s b)) (l : List β) (s : State) :
    Written s (l.foldl f s) := by
  induction l generalizing s with
  | nil => exact .refl s
  | cons b r ih => exact (hf s b).trans (ih (f s b))

theorem setPort_written (s : State) (p : Nat) (x : Port) : Written s (setPort s p x) := ⟨s.ctxs, _, s.out, rfl⟩
theorem modPort_written (s : State) (p : Nat) (f : Port → Port) : Written s (modPort s p f) := ⟨s.ctxs, _, s.out, rfl⟩
theorem modFn_written (s : State) (p : Nat) (i : Fn) (f : FnState → FnState) : Written s (modFn s p i f) := ⟨s.ctxs, _, s.out, rfl⟩
theorem modCtx_written (s : State) (c : Nat) (f : Ctx → Ctx) : Written s (modCtx s c f) := ⟨_, s.ports, s.out, rfl⟩
theorem emit_written (s : State) (o : Out) : Written s (emit s o) := ⟨s.ctxs, s.ports, _, rfl⟩

theorem dropPosted_written (s : State) (p : Nat) : Written s (dropPosted s p) := by
  unfold dropPosted; exact modPort_written _ _ _

theorem post_written (s : State) (p : Nat) (f : Fn) (o : Out) : Written s (post s p f o) := by
  unfold post; split
  · exact emit_written _ _
  · exact dropPosted_written _ _

theorem raiseMsix_written (s : State) (p : Nat) (f : Fn) (v : Nat) : Written s (raiseMsix s p f v) := by
  unfold raiseMsix; split
  · exact emit_written _ _
  · exact modFn_written _ _ _ _

theorem carry_written (s : State) (p t : Nat) : Written s (carry s p t) := modPort_written _ _ _

theorem carried_written (b : Bool) (s t : State) (h : Written s t) (p n : Nat) : Written s (if b then carry t p n else t) := by
  split
  · exact h.trans (carry_written _ _ _)
  · exact h

theorem putCq_written (s : State) (i : Nat) (r : CqRec) : Written s (putCq s i r) := by
  unfold putCq
  split
  · exact .refl s
  · dsimp only
    split
    · exact ((carried_written _ _ _ (post_written _ _ _ _) _ _).trans (modCtx_written _ _ _)).trans (raiseMsix_written _ _ _ _)
    · exact (carried_written _ _ _ (post_written _ _ _ _) _ _).trans (modCtx_written _ _ _)

theorem putEv_written (s : State) (i : Nat) (r : EvRec) : Written s (putEv s i r) := by
  unfold putEv
  split
  · exact .refl s
  · dsimp only
    split
    · exact ((carried_written _ _ _ (post_written _ _ _ _) _ _).trans (modCtx_written _ _ _)).trans (raiseMsix_written _ _ _ _)
    · exact (carried_written _ _ _ (post_written _ _ _ _) _ _).trans (modCtx_written _ _ _)

theorem pushCq_written (s : State) (i : Nat) (r : CqRec) : Written s (pushCq s i r) := by
  unfold pushCq
  split
  · exact .refl s
  · split
    · exact putCq_written _ _ _
    · exact modCtx_written _ _ _

theorem pushEv_written (s : State) (i : Nat) (r : EvRec) : Written s (pushEv s i r) := by
  unfold pushEv
  split
  · exact .refl s
  · split
    · exact putEv_written _ _ _
    · exact modCtx_written _ _ _

theorem pushRec_written (s : State) (i : Nat) (r : Rec) : Written s (pushRec s i r) := by
  cases r
  · exact pushCq_written _ _ _
  · exact pushEv_written _ _ _

theorem record_written (s : State) (i : Nat) (r : Rec) : Written s (record s i r) := modCtx_written _ _ _

theorem event_written (s : State) (i type status : Nat) (payload : List Fld) : Written s (event s i type status payload) := by
  unfold event
  split
  · exact .refl s
  · exact (modCtx_written _ _ _).trans (record_written _ _ _)

theorem eventTo_written (s : State) (l : List Nat) (type status : Nat) (payload : List Fld) :
    Written s (eventTo s l type status payload) := foldl_written _ (fun s _ => event_written s _ _ _ _) l s

theorem eventAll_written (s : State) (type status : Nat) (payload : List Fld) : Written s (eventAll s type status payload) :=
  eventTo_written _ _ _ _ _

theorem putAdmin_written (s : State) (p : Nat) (r : Rec) : Written s (putAdmin s p r) := by
  unfold putAdmin
  dsimp only
  exact ((carried_written _ _ _ (post_written _ _ _ _) _ _).trans (modPort_written _ _ _)).trans (raiseMsix_written _ _ _ _)

theorem adminRec_written (s : State) (p : Nat) (r : Rec) : Written s (adminRec s p r) := by
  unfold adminRec
  dsimp only
  split
  · split
    · exact putAdmin_written _ _ _
    · exact modPort_written _ _ _
  · exact .refl s

end Sys2Proof.Machine
end

