-- ==== Sys2Proof/WellFormed.lean ====
section
/-!
DEFINITION. Well-formed commands: every operand fits the field that carries it (Tables 2.4, 2.6, 3.3, 4.4, 8.15, 9.4, 10.10,
10.11, 10.13, 11.7) or the parts that a package can have (Table 0.3). The meanings do not assume it: what a rule says of a value
out of its range, the meaning does.
-/
namespace Sys2Proof

/-! ### Numbers of parts -/

def u8 (v : Nat) : Bool := decide (v < 256)
def u16 (v : Nat) : Bool := decide (v < 65536)
def u32 (v : Nat) : Bool := decide (v < 4294967296)
def u48 (v : Nat) : Bool := decide (v < 281474976710656)
def u64 (v : Nat) : Bool := decide (v < 18446744073709551616)

def isCtx (v : Nat) : Bool := decide (v < 64)
def isHost (v : Nat) : Bool := decide (v < 4)
def isTie (v : Nat) : Bool := decide (v < 2)
def isPlat (v : Nat) : Bool := decide (v < 8)
def isVf (v : Nat) : Bool := decide (v < 64)
def isHandle (v : Nat) : Bool := decide (v < 64)
def isGroup (v : Nat) : Bool := decide (v < 4096)
def isCam (v : Nat) : Bool := decide (v < 256)
def isPhys (v : Nat) : Bool := decide (v < 96)
def isVector (v : Nat) : Bool := decide (v < 32)
def isLane (v : Nat) : Bool := decide (v < 5)

/-! ### Operand structures -/

def CmdHdr.wf (h : CmdHdr) : Bool := isCtx h.ctx && u32 h.tag && u8 h.flags
def AdmHdr.wf (h : AdmHdr) : Bool := isHost h.port && u32 h.tag && u8 h.flags

def RingId.wf : RingId → Bool
  | .admin p => isHost p
  | .context c => isCtx c

def Fn.wf : Fn → Bool
  | .pf => true
  | .vf n => isVf n

def OpenBody.wf (b : OpenBody) : Bool :=
  u64 b.sqBase && u64 b.cqBase && u64 b.eqBase && u64 b.dbBase && u8 b.sqLog && u8 b.cqLog && u8 b.eqLog && u16 b.total &&
  u16 b.stakes && decide (b.counts.length = 8) && b.counts.all u8 && u16 b.cqVec && u16 b.eqVec

def ChainBindBody.wf (b : ChainBindBody) : Bool :=
  u16 b.station && u8 b.first && u8 b.count && u32 b.desc && u32 b.stream && u8 b.port && u8 b.sync

def PairBindBody.wf (b : PairBindBody) : Bool :=
  u16 b.left && u16 b.right && u32 b.tol && u32 b.view && u16 b.pairs && u8 b.mode

def CreateBody.wf (b : CreateBody) : Bool :=
  u32 b.id && u8 b.rest && u8 b.home && u64 b.length && u64 b.window && u16 b.site && u16 b.holding && u32 b.name

def ServiceBindBody.wf (b : ServiceBindBody) : Bool :=
  u8 b.service && u32 b.inbox && u16 b.depth && u16 b.stake && u32 b.index && u16 b.qcap

def LegRef.wf (l : LegRef) : Bool := isCtx l.ctx && isHandle l.handle && u16 l.leg

def SweepData.wf (d : SweepData) : Bool := u32 d.sqTail && u32 d.cqHead && u32 d.eqHead

def PortRef.wf : PortRef → Bool
  | .host n => isHost n
  | .tie t => isTie t

def ReadKind.wf : ReadKind → Bool
  | .sweep r => r.wf
  | .fetch r => r.wf
  | .rtt => true
  | .data => true

def Responder.wf : Responder → Bool
  | .doePf p => isHost p
  | .doeVf p v => isHost p && isVf v
  | .ring c => isCtx c
  | .tieAuth t => isTie t

def Asker.wf (a : Asker) : Bool := a.who.wf && u8 a.version

def TieHdr.wf (h : TieHdr) : Bool :=
  decide (h.cls < 256) && u8 h.dst && u8 h.src && u8 h.hops && u8 h.epoch && u32 h.lseq && u32 h.lack &&
    decide (h.credit.length = 4) && h.credit.all u8

def Measurement.wf (m : Measurement) : Bool :=
  m.failed.all isPhys && m.fmRows.all (fun e => isPhys e.1 && decide (e.2 < 16)) && m.psRows.all (fun b => decide (b < 64))

def Path.wf : Path → Bool
  | .pf p => isHost p
  | .bitAlias p => isHost p
  | .aperture p => isHost p
  | .vf p v => isHost p && isVf v
  | .svc => true

def CtrlBlock.wf : CtrlBlock → Bool
  | .dtm => true
  | .flt => true
  | .hpt p => isHost p
  | .tpt t => isTie t

def Resource.wf : Resource → Bool
  | .fmRow s b r => isPhys s && decide (b < 16) && decide (r < 512)
  | .psRow b _ => decide (b < 64)
  | .station p => isPhys p
  | .dramLane _ => true
  | .mainPage p => decide (p < 524288)
  | .opticalLane c l => decide (c < 2) && isLane l
  | .linkLane l _ => isPlat l
  | .cadBlock b => u16 b

def FaultEv.wf (e : FaultEv) : Bool := isPlat e.plat && u8 e.cls && e.resource.wf && u32 e.detail

def CfgWrite.wf : CfgWrite → Bool
  | .read _ => true
  | .maxPayload b => decide (b ≤ 4096)
  | .maxReadRequest b => decide (b ≤ 4096)
  | .completionTimeoutNs n => u64 n
  | .vfs n _ => u16 n
  | .clearErrors u c => u32 u && u32 c
  | .tenBitTags _ => true
  | .maskVector v _ => isVector v
  | .aspm _ => true
  | .other o v => decide (o < 4096) && u32 v

/-- An address and a length in bytes of host data that the command carries: of that length, or the read failed. -/
def carries (n : Nat) : Option Bytes → Bool
  | none => true
  | some b => decide (b.length = n)

/-- Bytes read from host memory into a field of at most `n` bytes. -/
def atMost (n : Nat) : Option Bytes → Bool
  | none => true
  | some b => decide (b.length ≤ n)

/-- A register access: an offset of BAR0 and a value of a register. -/
def isReg (offset value : Nat) : Bool := decide (offset < 1048576) && u32 value

/-- A configuration request of a TDI or an IDE stream: its port, its session, its number. -/
def isSecured (port session n : Nat) : Bool := isHost port && u32 session && u8 n

/-! ### Commands -/

/-- Every operand of the command fits its field. -/
def Instr.wf : Instr → Bool
  | .openContext h b => h.wf && b.wf
  | .closeContext h c => h.wf && u8 c
  | .queryContexts h => h.wf
  | .unknownOpcode r tag flags => r.wf && u32 tag && u8 flags
  | .loadTraverse h n d => h.wf && u32 n && carries n d
  | .unloadTraverse h t => h.wf && u16 t
  | .runTraverse h t a b => h.wf && u16 t && u64 a && u64 b
  | .armPeriodic h t p b n => h.wf && u16 t && u32 p && u64 b && u32 n
  | .disarm h t => h.wf && u16 t
  | .cancel h t => h.wf && u16 t
  | .stakeSet h r v => h.wf && u16 r && u32 v
  | .stakeAdd h r v => h.wf && u16 r && u32 v
  | .stakeRead h r => h.wf && u16 r
  | .stakeGrant h s g r => h.wf && u16 s && u8 g && u8 r
  | .stakeRevoke h s g => h.wf && u16 s && u8 g
  | .mark h => h.wf
  | .markCompletion c => isCtx c
  | .flushReadReturn p _ => isHost p
  | .chainBind h b => h.wf && b.wf
  | .chainStart h g => h.wf && u16 g
  | .chainStop h g => h.wf && u16 g
  | .chainUnbind h g => h.wf && u16 g
  | .timedClear h g t => h.wf && u8 g && u64 t
  | .timeMapRead h p => h.wf && u8 p
  | .frameBind h d c p m => h.wf && u32 d && u32 c && u8 p && u8 m
  | .frameStart h c => h.wf && u16 c
  | .frameStop h c => h.wf && u16 c
  | .frameUnbind h c => h.wf && u16 c
  | .pairBind h b => h.wf && b.wf
  | .pairUnbind h p => h.wf && u16 p
  | .exposureControl h c on lag => h.wf && u16 c && u8 on && u8 lag
  | .objectCreate h b => h.wf && b.wf
  | .objectDestroy h i => h.wf && u32 i
  | .objectWrite h i o a n d => h.wf && u32 i && u64 o && u64 a && u32 n && carries n d
  | .objectRead h i o a n => h.wf && u32 i && u64 o && u64 a && u32 n
  | .place h i t b d => h.wf && u32 i && u8 t && u64 b && u16 d
  | .evict h i => h.wf && u32 i
  | .objectFlush h i => h.wf && u32 i
  | .objectGrant h i g r => h.wf && u32 i && u8 g && u8 r
  | .objectRevoke h i g => h.wf && u32 i && u8 g
  | .objectQuery h i => h.wf && u32 i
  | .holdingAttach h n a _ => h.wf && u64 n && u32 a
  | .holdingDetach h n => h.wf && u16 n
  | .cadastreQuiesce h p => h.wf && u8 p
  | .spdmExchange h c a q => h.wf && u32 c && u64 a && atMost 4096 q
  | .updateBegin h _ m z => h.wf && carries 8192 m && decide (z.secret.length = 80)
  | .updateParcel h n a d => h.wf && u32 n && u64 a && carries n d
  | .updateStatus h => h.wf
  | .updateArm h i _ => h.wf && u64 i
  | .updateAbandon h i => h.wf && u64 i
  | .updateActivate h i => h.wf && u64 i
  | .fieldLock h w => h.wf && u32 w
  | .fieldLockBurnDone => true
  | .serviceBind h b => h.wf && b.wf
  | .serviceUnbind h n => h.wf && u8 n
  | .landingBind h l o a => h.wf && u8 l && u32 o && u16 a
  | .landingUnbind h l => h.wf && u8 l
  | .outletBind h o n l f => h.wf && u32 o && u8 n && u8 l && u64 f
  | .outletUnbind h o => h.wf && u16 o
  | .faultLogTake h a n => h.wf && u64 a && u32 n
  | .legInstantiate p => isPlat p
  | .legDispatch l => l.wf
  | .tensorArrayLeg l _ => l.wf
  | .parallaxEngineLeg l _ => l.wf
  | .search l _ => l.wf
  | .searchCutoff l _ => l.wf
  | .merge l _ => l.wf
  | .fanOut l _ => l.wf
  | .fanOutComplete l => l.wf
  | .reply l _ => l.wf
  | .egoStep l _ => l.wf
  | .trackStep l _ => l.wf
  | .solveOrShift l _ => l.wf
  | .solve l _ => l.wf
  | .shift l _ => l.wf
  | .take l _ => l.wf
  | .nullLeg l => l.wf
  | .legWatchdogStop l => l.wf
  | .runStart c t => isCtx c && isHandle t
  | .runDeadline c t => isCtx c && isHandle t
  | .periodBegin c t => isCtx c && isHandle t
  | .periodBoundary c t => isCtx c && isHandle t
  | .legAbortDone l => l.wf
  | .periodSummary c t => isCtx c && isHandle t
  | .doorbellSweep p => isHost p
  | .sweepReadReturn r _ d => r.wf && (d.elim true SweepData.wf)
  | .entryFetchReturn r e => r.wf && (e.elim true fun l => l.all fun b => decide (b.length = 64))
  | .msixTimeThreshold c _ => isCtx c
  | .rttMeasure p l => isHost p && decide (l.length = 16)
  | .rttRetry p l => isHost p && decide (l.length = 16)
  | .rttUpdate p => isHost p
  | .powerSample _ => true
  | .governorControl => true
  | .sharedEngineChunkDone _ => true
  | .ptmDialogueStart p => isHost p
  | .ptmResponse p t _ => isHost p && u64 t
  | .ptmTimeout p => isHost p
  | .timeMap p => isHost p
  | .syncInEdge _ _ => true
  | .syncGroupClear c g => isCtx c && isGroup g
  | .intakeApertureWrite p o d => isHost p && decide (o < 68719476736) && decide (d.length ≤ 4096)
  | .sampleBlockCommit p s b => isHost p && decide (s < 1024) && decide (b.length = 64)
  | .stagingCopyDone p s => isHost p && decide (s < 1024)
  | .chainBlockProcess c g => isCtx c && isGroup g
  | .starvationTimeout c g => isCtx c && isGroup g
  | .frameRecordCommit p w b => isHost p && decide (w < 256) && decide (b.length = 128)
  | .frameCheckDone c k => isCtx c && isCam k
  | .exposureRec c k => isCtx c && isCam k
  | .moveComplete p => isPlat p
  | .placeLate c i => isCtx c && u32 i
  | .cadastrePageReadDone p n _ => isPlat p && u32 n
  | .nandProgramDone p g _ => isPlat p && u64 g
  | .groupCommit p g => isPlat p && u64 g
  | .eraseDone p b _ => isPlat p && u16 b
  | .eraseResume p b => isPlat p && u16 b
  | .checkpointTimer p => isPlat p
  | .checkpointDone p => isPlat p
  | .wearRelocation p => isPlat p
  | .blockRefresh p b => isPlat p && u16 b
  | .cadastrePatrol p b _ => isPlat p && u16 b
  | .cadastreMount p _ => isPlat p
  | .vmainRise => true
  | .powerLoss _ _ => true
  | .resetAssert => true
  | .resetRelease => true
  | .datumTimeStart _ => true
  | .monumentBoot _ _ => true
  | .platRelease p k => isPlat p && (k.elim true fun k => decide (k.length = 97))
  | .platMeasurementDone p m => isPlat p && m.wf
  | .platSelfCheckDone p _ c => isPlat p && u16 c
  | .platSwitchBegin p => isPlat p
  | .platActivated p => isPlat p
  | .fuseCounterBurn => true
  | .imageVerifyDone _ => true
  | .linkL0 p w _ => isHost p && decide (w ≤ 4)
  | .levelRun p _ => p.wf
  | .levelRunDone p l => p.wf && decide (l.length ≤ 5) && l.all fun x => (x.word.map u64).getD true
  | .levelRunRetry p => isHost p
  | .laneFault p l => p.wf && isLane l
  | .dlDown p => isHost p
  | .portResumed p => isHost p
  | .linkGraceExpire p => isHost p
  | .flrVf p v => isHost p && isVf v
  | .flrPf p _ => isHost p
  | .powerStateChange p f _ => isHost p && f.wf
  | .hostReadFailure p k => isHost p && k.wf
  | .getVersion a => a.wf
  | .getCapabilities a => a.wf
  | .negotiateAlgorithms a _ => a.wf
  | .getDigests a => a.wf
  | .getCertificate a s o n => a.wf && u8 s && u16 o && u16 n
  | .challenge a s => a.wf && u8 s
  | .getMeasurements a i _ => a.wf && u8 i
  | .keyExchange a _ => a.wf
  | .finish a s _ => a.wf && u32 s
  | .keyUpdate a s => a.wf && u32 s
  | .heartbeat a s => a.wf && u32 s
  | .endSession a s => a.wf && u32 s
  | .unsupportedSpdmRequest a c => a.wf && u8 c
  | .keyProg p s k f => isSecured p s k.stream && (f.elim true Fn.wf)
  | .kSetGo p s n => isSecured p s n
  | .kSetStop p s n => isSecured p s n
  | .ideFailure p n => isHost p && u8 n
  | .getTdispVersion p s v => isSecured p s v && isVf v
  | .getTdispCapabilities p s v => isSecured p s v && isVf v
  | .lockInterfaceRequest p s v => isSecured p s v && isVf v
  | .getDeviceInterfaceReport p s v => isSecured p s v && isVf v
  | .getDeviceInterfaceState p s v => isSecured p s v && isVf v
  | .startInterfaceRequest p s v => isSecured p s v && isVf v
  | .stopInterfaceRequest p s v => isSecured p s v && isVf v
  | .idleCredit t h => isTie t && h.wf
  | .nak t h e => isTie t && h.wf && u32 e
  | .hello t h n v e g => isTie t && h.wf && u8 n && u8 v && u16 e && decide (g.length = 4) && g.all u16
  | .auth t h _ => isTie t && h.wf
  | .bulkWrite t h l _ _ g o d _ => isTie t && h.wf && u8 l && u16 g && u48 o && decide (d.length ≤ 4096)
  | .bulkAck t h l g n => isTie t && h.wf && u8 l && u16 g && u32 n
  | .lateFault t h l r g f => isTie t && h.wf && u8 l && u8 r && u16 g && u16 f
  | .ackTimeout c o g => isCtx c && isHandle o && u16 g
  | .query t h s _ _ g b d => isTie t && h.wf && u8 s && u32 g && u32 b && decide (d.length ≤ 4096)
  | .replyReceived t h _ _ g o d => isTie t && h.wf && u32 g && u32 o && decide (d.length ≤ 4096)
  | .topology t h o a b q => isTie t && h.wf && u8 o && u8 a && u8 b && u32 q
  | .topologyRecordTimer => true
  | .tieFrameForward t h y m d => isTie t && h.wf && u8 y && decide (m.length = 12) && decide (d.length ≤ 4096)
  | .tieReplayTimeout t => isTie t
  | .tieLightDetect t n => isTie t && decide (n ≤ 3)
  | .tieLightLoss t => isTie t
  | .tieRefusedRetry t => isTie t
  | .tieDownRetry t => isTie t
  | .i3cRegisterWrite o v => isReg o v
  | .i3cRegisterRead o => (o.map fun o => isReg o 0).getD true
  | .i3cCcc c => u8 c
  | .thermalSample p l => isPlat p && decide (l.length = 16)
  | .thermalRatioApply p => isPlat p
  | .faultEvent e => e.wf
  | .faultTrackerExpire p r => isPlat p && r.wf
  | .patrolScrub p _ => isPlat p
  | .repairDone p => isPlat p
  | .stationSubstitutionDone p => isPlat p
  | .stationLost p n => isPlat p && isPhys n
  | .blockEnableWrite p b _ => p.wf && b.wf
  | .glbPpl p v => p.wf && u32 v
  | .glbSetupPorts p v => p.wf && u32 v
  | .glbAlertEn p v => p.wf && u32 v
  | .hptSweep p n v => p.wf && isHost n && u32 v
  | .hptGrace p n v => p.wf && isHost n && u32 v
  | .tptNode p v => p.wf && u32 v
  | .tptAck p v => p.wf && u32 v
  | .ctxModWrite p c _ v => p.wf && isCtx c && u32 v
  | .lolRead p r => p.wf && (isReg r.offset 0 || (decide (p ≠ .svc) && u64 r.offset)) && decide (1 ≤ r.length ∧ r.length ≤ 8)
  | .bitAliasWrite p o v => p.wf && decide (o < 16777216) && u32 v
  | .registerWrite p o d => p.wf && decide (o < 1048576) && decide (1 ≤ d.length ∧ d.length ≤ 8)
  | .settingDurable k => decide (k < 1048576)
  | .vstbyRise => true
  | .vstbyLoss => true
  | .msixUnmask p f v => isHost p && f.wf && isVector v
  | .configurationWrite p f w => isHost p && f.wf && w.wf
  | .doeDiscovery p f i => isHost p && f.wf && u8 i
  | .stationZeroingDone p n => isPlat p && decide (n < 88)
  | .moveUnitCopied p => isPlat p

end Sys2Proof
end

