-- ==== Sys2Proof/Tests/Slice0.lean ====
section
/-!
SUPPORT. The model tried on small packages: what the well-formedness checks refuse, witnesses that the hypotheses of the stated
obligations can be met together, and single steps whose results the spec gives.
-/
namespace Sys2Proof.Tests
open Sys2Proof Sys2Proof.Machine
set_option Elab.async false

/-! ### A small package -/

/-- A context with two Stations of Plat 0 and four Stakes. -/
def tCtx : Ctx :=
  { port := 0, vf := 0, surveyor := false, sqBase := 0x10000, cqBase := 0x20000, eqBase := 0x30000, dbBase := 0x40000,
    sqLog := 8, cqLog := 8, eqLog := 8, cqVec := 0, eqVec := 1, crew := [⟨0, some 0, false⟩, ⟨0, some 1, false⟩],
    stakes := [7, 0, 0, 0] }

/-- A Surveyor's context. -/
def tSurv : Ctx := { tCtx with vf := 1, surveyor := true, crew := [], stakes := [5, 6] }

/-- A Host Port in L0 whose Admin rings are on. -/
def tPort : Port :=
  { portReset 0 with cfg := ⟨0x17, 0x17⟩, link := 3, width := 4, good := [0, 1, 2, 3, 4], asqLo := ⟨0x1000, 0x1000⟩, acqLo := ⟨0x2000, 0x2000⟩,
                     adbLo := ⟨0x3000, 0x3000⟩, adepth := ⟨0x808, 0x808⟩ }

def tPlat : Plat := { st := .ready, measured := true }

/-- A running package: its Plats are ready, Host Port 0 is in L0, Tie Port 0 is ACTIVE, contexts 0 and 1 are open. -/
def demo : State :=
  { sup := { running := true, now := 1000000000 }, mon := { running := true }, ports := [(0, tPort)],
    ties := [(0, { st := .active, good := [0, 1, 2], credits := [0, 100, 100, 100] })],
    plats := [(0, { tPlat with owner := [(0, 0), (1, 0)] }), (1, tPlat), (2, tPlat), (3, tPlat), (4, tPlat), (5, tPlat), (6, tPlat), (7, tPlat)],
    cads := [(0, { st := 2 }), (1, { st := 2 }), (2, { st := 2 }), (3, { st := 2 }), (4, { st := 2 }), (5, { st := 2 }),
             (6, { st := 2 }), (7, { st := 2 })],
    ctxs := [(0, tCtx), (1, tSurv)] }

/-- The package with context 0 as `x`. -/
def withCtx (x : Ctx) : State := { demo with ctxs := [(0, x), (1, tSurv)] }

/-- Headers of a command of context 0, of context 1, and of port 0's Admin ring. -/
def h0 : CmdHdr := ⟨0, 17, 0⟩
def h1 : CmdHdr := ⟨1, 18, 0⟩
def a0 : AdmHdr := ⟨0, 19, 0⟩

/-- A byte string of `n` bytes with fields, and the bytes of an object with fields. -/
def blob (n : Nat) (l : List Fld) : Bytes := l.foldl (fun b f => overlay b f.1 (le f.2.1 f.2.2)) (List.replicate n 0)
def memAt (l : List Fld) : Mem := l.foldl (fun m f => wrBytes m f.1 (le f.2.1 f.2.2)) []

/-- An object of context 0 in the Near tier on Station 0. -/
def tObj (id length : Nat) (l : List Fld) : Nat × Obj :=
  (id, { ctx := 0, id := id, length := length, home := 0, rest := .near, site := some 0, key := none, serial := id, name := none,
         base := 65536 * id, window := none, present := .near, mem := memAt l })

/-- The submission entry of a command with its header's TAG and FLAGS; a row that no entry spells stands for an opcode that no ring accepts.
-/
def sqe (i : Instr) (tag flags : Nat) : Bytes :=
  match entryOf i with
  | some q => fldBytes 64 ([(0, 1, q.op), (1, 1, flags), (4, 4, tag)] ++ q.fields.map fun f => (f.off, f.size, f.val))
  | none => fldBytes 64 [(0, 1, 0x7F), (1, 1, flags), (4, 4, tag)]

/-- A context whose ring holds the command alone, the package in which that of `h` does, and one in which port `h.port`'s Admin Ring does.
-/
def fedCtx (x : Ctx) (i : Instr) (h : CmdHdr) : Ctx := { x with ring := { x.ring with fetched := [sqe i h.tag h.flags] } }
def fed (s : State) (i : Instr) (h : CmdHdr) : State := modCtx s h.ctx fun x => fedCtx x i h
def fedAdmin (s : State) (i : Instr) (h : AdmHdr) : State :=
  modPort s h.port fun x => { x with ring := { x.ring with fetched := [sqe i h.tag h.flags] } }

/-- A command run by its Leg 1, which runs, of Traverse 0 of context 0. -/
def tLeg : LegRef := ⟨0, 0, 1⟩

/-- A Leg of `kind` with a descriptor and operands; operand `out` an output. -/
def mkLeg (kind subop desc : Nat) (ops : List (Nat × Bool)) : Leg :=
  { kind := kind, lflags := 0, stn := 0, cycles := 1000, subop := subop, desc := desc, waits := [], sigs := [],
    ops := ops.map fun o => ⟨o.1, 0, if o.2 then 0x8000 else 0⟩ }

/-- The Traverse of `g`, whose Leg 1 runs in a run without a deadline. -/
def runningTrav (g : Leg) : Trav :=
  { ctx := 0, handle := 0, legs := [⟨7, 0, 0, 0, 0, 0, [], [], []⟩, g], locals := [], st := .running, next := 1,
    run := some { legs := [{ st := .done 0 }, { st := .running, at_ := 999999000, quota := 2 }] } }

/-- The package in which `g` runs with objects `l`. -/
def running (g : Leg) (l : Tbl Obj) : State := { demo with travs := [(0, runningTrav g)], objs := l }

/-- No object that a Leg under way reads has been taken away in the packages below, so it reads the package as it is. -/
theorem snapsIn_none (s : State) (l : LegRef) (h : s.snaps = []) : snapsIn s l = s := by
  have e : snapsOf s l = [] := by simp [snapsOf, h]
  rw [snapsIn, e]
  rfl

theorem witness_snaps (g : Leg) (l : Tbl Obj) : snapsIn (running g l) tLeg = running g l := snapsIn_none _ _ rfl

/-! ### WellFormed: the commands at the bounds are accepted, and an ill-formed one is refused for each check -/

def okTie : TieHdr := ⟨255, 255, 255, 255, 255, 4294967295, 4294967295, [255, 255, 255, 255], true, true⟩
def okOpen : OpenBody := ⟨4096, 4096, 4096, 4096, 16, 16, 16, false, false, 1, 0, [0, 0, 0, 0, 0, 0, 0, 0], 31, 31⟩
def okMeas : Measurement := ⟨true, [95], [(95, 15)], [63], 0⟩
def okEv (r : Resource) : FaultEv := ⟨7, 255, r, false, false, false, .none, 4294967295⟩
def okLeg : LegRef := ⟨63, 63, 65535⟩
def okCreate : CreateBody := ⟨4294967295, false, false, false, 255, 255, 0, 0, 65535, 65535, 4294967295⟩
def okChain : ChainBindBody := ⟨65535, 255, 255, 4294967295, 4294967295, 255, 255⟩
def okPair : PairBindBody := ⟨65535, 65535, 4294967295, 4294967295, 65535, 255⟩
def okService : ServiceBindBody := ⟨255, 4294967295, 65535, 65535, 4294967295, 65535⟩
def big64 : Nat := 18446744073709551616
def big32 : Nat := 4294967296

def goodCommands : List Instr :=
  [.openContext ⟨3, 4294967295, 255⟩ okOpen, .mark ⟨63, 4294967295, 255⟩, .chainBind h0 okChain, .pairBind h0 okPair,
   .objectCreate h0 okCreate, .serviceBind h0 okService, .nullLeg okLeg, .sweepReadReturn (.admin 3) 9 (some ⟨1, 2, 3⟩),
   .levelRun (.tie 1) true, .hostReadFailure 3 (.sweep (.context 63)), .getVersion ⟨.tieAuth 1, 0x12⟩, .getVersion ⟨.doeVf 3 63, 255⟩,
   .idleCredit 1 okTie, .platMeasurementDone 7 okMeas, .glbPpl (.vf 3 63) 4294967295, .blockEnableWrite .svc (.tpt 1) true,
   .faultEvent (okEv (.fmRow 95 15 511)), .configurationWrite 3 (.vf 63) (.maskVector 31 true), .ideFailure 3 255,
   .registerWrite .svc 1048575 (le 8 0), .thermalSample 7 (List.replicate 16 0), .keyProg 3 4294967295 ⟨255, []⟩ (some (.vf 63)),
   .levelRunDone (.host 3) (List.replicate 5 ⟨16, some 18446744073709551615⟩), .i3cRegisterRead none, .i3cRegisterRead (some 1048575),
   .lolRead (.aperture 3) ⟨68719476735, 8⟩, .bitAliasWrite (.bitAlias 3) 16777215 4294967295, .platRelease 7 (some (List.replicate 97 0)),
   .updateBegin h0 true none ⟨true, List.replicate 80 0⟩, .configurationWrite 0 .pf (.maxReadRequest 4096)]

theorem test_wf_accepts : goodCommands.all Instr.wf = true := by decide +kernel

/-- One ill-formed term for each check of a shared operand structure. -/
def badStructures : List Instr :=
  [.mark ⟨64, 0, 0⟩, .mark ⟨0, big32, 0⟩, .mark ⟨0, 0, 256⟩,
   .queryContexts ⟨4, 0, 0⟩, .queryContexts ⟨0, big32, 0⟩, .queryContexts ⟨0, 0, 256⟩,
   .unknownOpcode (.admin 4) 0 0, .unknownOpcode (.context 64) 0 0,
   .configurationWrite 0 (.vf 64) (.aspm true),
   .openContext a0 { okOpen with sqBase := big64 }, .openContext a0 { okOpen with cqBase := big64 },
   .openContext a0 { okOpen with eqBase := big64 }, .openContext a0 { okOpen with dbBase := big64 },
   .openContext a0 { okOpen with sqLog := 256 }, .openContext a0 { okOpen with cqLog := 256 },
   .openContext a0 { okOpen with eqLog := 256 }, .openContext a0 { okOpen with total := 65536 },
   .openContext a0 { okOpen with stakes := 65536 }, .openContext a0 { okOpen with counts := [0] },
   .openContext a0 { okOpen with counts := [0, 0, 0, 256, 0, 0, 0, 0] }, .openContext a0 { okOpen with cqVec := 65536 },
   .openContext a0 { okOpen with eqVec := 65536 },
   .chainBind h0 { okChain with station := 65536 }, .chainBind h0 { okChain with first := 256 },
   .chainBind h0 { okChain with count := 256 }, .chainBind h0 { okChain with desc := big32 },
   .chainBind h0 { okChain with stream := big32 }, .chainBind h0 { okChain with port := 256 },
   .chainBind h0 { okChain with sync := 256 },
   .pairBind h0 { okPair with left := 65536 }, .pairBind h0 { okPair with right := 65536 }, .pairBind h0 { okPair with tol := big32 },
   .pairBind h0 { okPair with view := big32 }, .pairBind h0 { okPair with pairs := 65536 }, .pairBind h0 { okPair with mode := 256 },
   .objectCreate h0 { okCreate with id := big32 }, .objectCreate h0 { okCreate with rest := 256 },
   .objectCreate h0 { okCreate with home := 256 }, .objectCreate h0 { okCreate with length := big64 },
   .objectCreate h0 { okCreate with window := big64 }, .objectCreate h0 { okCreate with site := 65536 },
   .objectCreate h0 { okCreate with holding := 65536 }, .objectCreate h0 { okCreate with name := big32 },
   .serviceBind h0 { okService with service := 256 }, .serviceBind h0 { okService with inbox := big32 },
   .serviceBind h0 { okService with depth := 65536 }, .serviceBind h0 { okService with stake := 65536 },
   .serviceBind h0 { okService with index := big32 }, .serviceBind h0 { okService with qcap := 65536 },
   .nullLeg ⟨64, 0, 0⟩, .nullLeg ⟨0, 64, 0⟩, .nullLeg ⟨0, 0, 65536⟩,
   .sweepReadReturn (.context 0) 0 (some ⟨big32, 0, 0⟩), .sweepReadReturn (.context 0) 0 (some ⟨0, big32, 0⟩),
   .sweepReadReturn (.context 0) 0 (some ⟨0, 0, big32⟩),
   .levelRun (.host 4) false, .levelRun (.tie 2) false,
   .hostReadFailure 0 (.sweep (.admin 4)), .hostReadFailure 0 (.fetch (.context 64)),
   .getVersion ⟨.doePf 4, 0⟩, .getVersion ⟨.doeVf 4 0, 0⟩, .getVersion ⟨.doeVf 0 64, 0⟩, .getVersion ⟨.ring 64, 0⟩,
   .getVersion ⟨.tieAuth 2, 0⟩, .getVersion ⟨.doePf 0, 256⟩, .idleCredit 0 { okTie with cls := 256 },
   .glbPpl (.bitAlias 4) 0, .glbPpl (.aperture 4) 0, .configurationWrite 0 .pf (.maxReadRequest 4097),
   .configurationWrite 0 .pf (.completionTimeoutNs big64), .configurationWrite 0 .pf (.vfs 65536 true),
   .configurationWrite 0 .pf (.clearErrors big32 0), .configurationWrite 0 .pf (.clearErrors 0 big32),
   .idleCredit 0 { okTie with dst := 256 }, .idleCredit 0 { okTie with src := 256 }, .idleCredit 0 { okTie with hops := 256 },
   .idleCredit 0 { okTie with epoch := 256 }, .idleCredit 0 { okTie with lseq := big32 }, .idleCredit 0 { okTie with lack := big32 },
   .idleCredit 0 { okTie with credit := [0] }, .idleCredit 0 { okTie with credit := [0, 256, 0, 0] },
   .platMeasurementDone 0 { okMeas with failed := [96] }, .platMeasurementDone 0 { okMeas with fmRows := [(96, 0)] },
   .platMeasurementDone 0 { okMeas with fmRows := [(0, 16)] }, .platMeasurementDone 0 { okMeas with psRows := [64] },
   .glbPpl (.pf 4) 0, .glbPpl (.vf 4 0) 0, .glbPpl (.vf 0 64) 0,
   .blockEnableWrite .svc (.hpt 4) true, .blockEnableWrite .svc (.tpt 2) true,
   .faultEvent (okEv (.fmRow 96 0 0)), .faultEvent (okEv (.fmRow 0 16 0)), .faultEvent (okEv (.fmRow 0 0 512)),
   .faultEvent (okEv (.psRow 64 0)), .faultEvent (okEv (.station 96)), .faultEvent (okEv (.mainPage 524288)),
   .faultEvent (okEv (.opticalLane 2 0)), .faultEvent (okEv (.opticalLane 0 5)), .faultEvent (okEv (.linkLane 8 0)),
   .faultEvent (okEv (.cadBlock 65536)), .faultEvent { okEv (.dramLane 0) with plat := 8 },
   .faultEvent { okEv (.dramLane 0) with cls := 256 }, .faultEvent { okEv (.dramLane 0) with detail := big32 },
   .configurationWrite 0 .pf (.maxPayload 4097), .configurationWrite 0 .pf (.maskVector 32 true),
   .configurationWrite 0 .pf (.other 4096 0), .configurationWrite 0 .pf (.other 0 big32)]

theorem test_wf_refuses_structures : badStructures.all (fun i => !i.wf) = true := by decide +kernel

/-- One ill-formed term for each check that a ring command's own operands have. -/
def badRingCommands : List Instr :=
  [.closeContext a0 256, .unknownOpcode (.admin 0) big32 0, .unknownOpcode (.admin 0) 0 256,
   .loadTraverse h0 big32 none, .loadTraverse h0 2 (some (le 1 0)), .unloadTraverse h0 65536,
   .runTraverse h0 65536 0 0, .runTraverse h0 0 big64 0, .runTraverse h0 0 0 big64,
   .armPeriodic h0 65536 0 0 0, .armPeriodic h0 0 big32 0 0, .armPeriodic h0 0 0 big64 0, .armPeriodic h0 0 0 0 big32,
   .disarm h0 65536, .cancel h0 65536, .stakeSet h0 65536 0, .stakeSet h0 0 big32, .stakeAdd h0 65536 0, .stakeAdd h0 0 big32,
   .stakeRead h0 65536, .stakeGrant h0 65536 0 0, .stakeGrant h0 0 256 0, .stakeGrant h0 0 0 256,
   .stakeRevoke h0 65536 0, .stakeRevoke h0 0 256, .chainStart h0 65536, .chainStop h0 65536, .chainUnbind h0 65536,
   .timedClear h0 256 0, .timedClear h0 0 big64, .timeMapRead h0 256,
   .frameBind h0 big32 0 0 0, .frameBind h0 0 big32 0 0, .frameBind h0 0 0 256 0, .frameBind h0 0 0 0 256,
   .frameStart h0 65536, .frameStop h0 65536, .frameUnbind h0 65536, .pairUnbind h0 65536,
   .exposureControl h0 65536 0 0, .exposureControl h0 0 256 0, .exposureControl h0 0 0 256,
   .objectDestroy h0 big32, .objectWrite h0 big32 0 0 0 none, .objectWrite h0 0 big64 0 0 none, .objectWrite h0 0 0 big64 0 none,
   .objectWrite h0 0 0 0 big32 none, .objectWrite h0 0 0 0 2 (some (le 1 0)), .objectRead h0 big32 0 0 0,
   .objectRead h0 0 big64 0 0, .objectRead h0 0 0 big64 0, .objectRead h0 0 0 0 big32,
   .place h0 big32 0 0 0, .place h0 0 256 0 0, .place h0 0 0 big64 0, .place h0 0 0 0 65536, .evict h0 big32, .objectFlush h0 big32,
   .objectGrant h0 big32 0 0, .objectGrant h0 0 256 0, .objectGrant h0 0 0 256, .objectRevoke h0 big32 0, .objectRevoke h0 0 256,
   .objectQuery h0 big32, .holdingAttach h0 big64 0 false, .holdingAttach h0 0 big32 false, .holdingDetach h0 65536,
   .cadastreQuiesce h0 256, .spdmExchange h0 big32 0 none, .spdmExchange h0 0 big64 none, .spdmExchange h0 0 0 (some (le 4097 0)),
   .updateBegin h0 false (some []) ⟨true, List.replicate 80 0⟩, .updateBegin h0 false none ⟨true, []⟩,
   .updateParcel h0 big32 0 none, .updateParcel h0 0 big64 none, .updateParcel h0 1 0 (some []),
   .updateArm h0 big64 true, .updateAbandon h0 big64, .updateActivate h0 big64, .fieldLock h0 big32, .serviceUnbind h0 256,
   .landingBind h0 256 0 0, .landingBind h0 0 big32 0, .landingBind h0 0 0 65536, .landingUnbind h0 256,
   .outletBind h0 big32 0 0 0, .outletBind h0 0 256 0 0, .outletBind h0 0 0 256 0, .outletBind h0 0 0 0 big64,
   .outletUnbind h0 65536, .faultLogTake h0 big64 0, .faultLogTake h0 0 big32]

theorem test_wf_refuses_ring_commands : badRingCommands.all (fun i => !i.wf) = true := by decide +kernel

/-- One ill-formed term for each check of a device's own row, of a bus event or of a protocol message. -/
def badRows : List Instr :=
  [.markCompletion 64, .flushReadReturn 4 true, .legInstantiate 8, .runStart 64 0, .runStart 0 64, .runDeadline 64 0,
   .runDeadline 0 64, .periodBegin 64 0, .periodBegin 0 64, .periodBoundary 64 0, .periodBoundary 0 64, .periodSummary 64 0,
   .periodSummary 0 64, .doorbellSweep 4, .entryFetchReturn (.context 64) none, .entryFetchReturn (.context 0) (some [[]]),
   .msixTimeThreshold 64 .event, .rttMeasure 4 (List.replicate 16 none), .rttMeasure 0 [], .rttRetry 4 (List.replicate 16 none),
   .rttRetry 0 [], .rttUpdate 4, .ptmDialogueStart 4, .ptmResponse 4 0 0, .ptmResponse 0 big64 0, .ptmTimeout 4, .timeMap 4,
   .syncGroupClear 64 0, .syncGroupClear 0 4096, .intakeApertureWrite 4 0 [], .intakeApertureWrite 0 68719476736 [],
   .intakeApertureWrite 0 0 (le 4097 0), .sampleBlockCommit 4 0 (le 64 0), .sampleBlockCommit 0 1024 (le 64 0),
   .sampleBlockCommit 0 0 [], .stagingCopyDone 4 0, .stagingCopyDone 0 1024, .chainBlockProcess 64 0, .chainBlockProcess 0 4096,
   .starvationTimeout 64 0, .starvationTimeout 0 4096, .frameRecordCommit 4 0 (le 128 0), .frameRecordCommit 0 256 (le 128 0),
   .frameRecordCommit 0 0 [], .frameCheckDone 64 0, .frameCheckDone 0 256, .exposureRec 64 0, .exposureRec 0 256, .moveComplete 8,
   .placeLate 64 0, .placeLate 0 big32, .cadastrePageReadDone 8 0 ⟨0, 0, false⟩, .cadastrePageReadDone 0 big32 ⟨0, 0, false⟩,
   .nandProgramDone 8 0 true, .nandProgramDone 0 big64 true, .groupCommit 8 0, .groupCommit 0 big64, .eraseDone 8 0 true,
   .eraseDone 0 65536 true, .eraseResume 8 0, .eraseResume 0 65536, .checkpointTimer 8, .checkpointDone 8, .wearRelocation 8,
   .blockRefresh 8 0, .blockRefresh 0 65536, .cadastrePatrol 8 0 ⟨0, 0, false⟩, .cadastrePatrol 0 65536 ⟨0, 0, false⟩,
   .cadastreMount 8 ⟨0, 0, []⟩, .platRelease 8 none, .platRelease 0 (some []), .platMeasurementDone 8 okMeas, .platSelfCheckDone 8 true 0,
   .platSelfCheckDone 0 true 65536, .platSwitchBegin 8, .platActivated 8, .linkL0 4 4 true, .linkL0 0 5 true,
   .levelRunDone (.host 4) [], .levelRunDone (.host 0) (List.replicate 6 ⟨0, none⟩), .levelRunDone (.host 0) [⟨0, some big64⟩], .levelRunRetry 4, .laneFault (.tie 2) 0, .laneFault (.host 0) 5, .dlDown 4,
   .portResumed 4, .linkGraceExpire 4, .flrVf 4 0, .flrVf 0 64, .flrPf 4 false, .powerStateChange 4 .pf true,
   .powerStateChange 0 (.vf 64) true, .hostReadFailure 4 .rtt, .getCapabilities ⟨.ring 64, 0⟩, .negotiateAlgorithms ⟨.ring 64, 0⟩ default,
   .getDigests ⟨.ring 64, 0⟩, .getCertificate ⟨.ring 64, 0⟩ 0 0 0, .getCertificate ⟨.ring 0, 0⟩ 256 0 0, .getCertificate ⟨.ring 0, 0⟩ 0 65536 0,
   .getCertificate ⟨.ring 0, 0⟩ 0 0 65536, .challenge ⟨.ring 64, 0⟩ 0, .challenge ⟨.ring 0, 0⟩ 256, .getMeasurements ⟨.ring 64, 0⟩ 0 true,
   .getMeasurements ⟨.ring 0, 0⟩ 256 true, .keyExchange ⟨.ring 64, 0⟩ true, .finish ⟨.ring 64, 0⟩ 0 true, .finish ⟨.ring 0, 0⟩ big32 true,
   .keyUpdate ⟨.ring 64, 0⟩ 0, .keyUpdate ⟨.ring 0, 0⟩ big32, .heartbeat ⟨.ring 64, 0⟩ 0, .heartbeat ⟨.ring 0, 0⟩ big32, .endSession ⟨.ring 64, 0⟩ 0,
   .endSession ⟨.ring 0, 0⟩ big32, .unsupportedSpdmRequest ⟨.ring 64, 0⟩ 0, .unsupportedSpdmRequest ⟨.ring 0, 0⟩ 256,
   .keyProg 4 0 ⟨0, []⟩ none, .keyProg 0 big32 ⟨0, []⟩ none, .keyProg 0 0 ⟨256, []⟩ none, .keyProg 0 0 ⟨0, []⟩ (some (.vf 64)), .kSetGo 4 0 0,
   .kSetStop 4 0 0, .ideFailure 4 0, .ideFailure 0 256, .getTdispVersion 0 0 64, .getTdispCapabilities 0 0 64,
   .lockInterfaceRequest 0 0 64, .getDeviceInterfaceReport 0 0 64, .getDeviceInterfaceState 0 0 64, .startInterfaceRequest 0 0 64,
   .stopInterfaceRequest 0 0 64]

theorem test_wf_refuses_rows : badRows.all (fun i => !i.wf) = true := by decide +kernel

/-- One ill-formed term for each check of a Tie frame, a register access, a fault or a supply row. -/
def badFrames : List Instr :=
  [.idleCredit 2 okTie, .nak 2 okTie 0, .nak 0 okTie big32, .hello 2 okTie 0 0 0 [0, 0, 0, 0], .hello 0 okTie 256 0 0 [0, 0, 0, 0],
   .hello 0 okTie 0 256 0 [0, 0, 0, 0], .hello 0 okTie 0 0 65536 [0, 0, 0, 0], .hello 0 okTie 0 0 0 [0],
   .hello 0 okTie 0 0 0 [0, 65536, 0, 0], .auth 2 okTie none, .bulkWrite 2 okTie 0 true true 0 0 [] false,
   .bulkWrite 0 okTie 256 true true 0 0 [] false, .bulkWrite 0 okTie 0 true true 65536 0 [] false,
   .bulkWrite 0 okTie 0 true true 0 281474976710656 [] false, .bulkWrite 0 okTie 0 true true 0 0 (le 4097 0) false,
   .bulkAck 2 okTie 0 0 0, .bulkAck 0 okTie 256 0 0, .bulkAck 0 okTie 0 65536 0, .bulkAck 0 okTie 0 0 big32,
   .lateFault 2 okTie 0 0 0 0, .lateFault 0 okTie 256 0 0 0, .lateFault 0 okTie 0 256 0 0, .lateFault 0 okTie 0 0 65536 0,
   .lateFault 0 okTie 0 0 0 65536, .ackTimeout 64 0 0, .ackTimeout 0 64 0, .ackTimeout 0 0 65536,
   .query 2 okTie 0 true true 0 0 [], .query 0 okTie 256 true true 0 0 [], .query 0 okTie 0 true true big32 0 [],
   .query 0 okTie 0 true true 0 big32 [], .query 0 okTie 0 true true 0 0 (le 4097 0), .replyReceived 2 okTie true true 0 0 [],
   .replyReceived 0 okTie true true big32 0 [], .replyReceived 0 okTie true true 0 big32 [],
   .replyReceived 0 okTie true true 0 0 (le 4097 0), .topology 2 okTie 0 0 0 0, .topology 0 okTie 256 0 0 0,
   .topology 0 okTie 0 256 0 0, .topology 0 okTie 0 0 256 0, .topology 0 okTie 0 0 0 big32, .tieFrameForward 2 okTie 0 (le 12 0) [],
   .tieFrameForward 0 okTie 256 (le 12 0) [], .tieFrameForward 0 okTie 0 [] [], .tieFrameForward 0 okTie 0 (le 12 0) (le 4097 0),
   .tieReplayTimeout 2, .tieLightDetect 2 0, .tieLightDetect 0 4, .tieLightLoss 2, .tieRefusedRetry 2, .tieDownRetry 2,
   .i3cRegisterWrite 1048576 0, .i3cRegisterWrite 0 big32, .i3cRegisterRead (some 1048576), .i3cCcc 256,
   .thermalSample 8 (List.replicate 16 0), .thermalSample 0 [], .thermalRatioApply 8, .faultTrackerExpire 8 (.dramLane 0),
   .faultTrackerExpire 0 (.station 96), .patrolScrub 8 ⟨0, true⟩, .repairDone 8, .stationSubstitutionDone 8, .stationLost 8 0,
   .stationLost 0 96, .glbPpl .svc big32, .glbSetupPorts .svc big32, .glbAlertEn .svc big32, .hptSweep .svc 4 0,
   .hptSweep .svc 0 big32, .hptGrace .svc 4 0, .hptGrace .svc 0 big32, .tptNode .svc big32, .tptAck .svc big32,
   .ctxModWrite .svc 64 .event 0, .ctxModWrite .svc 0 .event big32, .lolRead (.pf 4) ⟨0, 4⟩, .lolRead .svc ⟨1048576, 4⟩, .lolRead .svc ⟨0, 0⟩, .lolRead .svc ⟨0, 9⟩,
   .bitAliasWrite (.pf 4) 0 0, .bitAliasWrite .svc 16777216 0, .bitAliasWrite .svc 0 big32, .registerWrite (.pf 4) 0 [0],
   .registerWrite .svc 1048576 [0], .registerWrite .svc 0 [], .registerWrite .svc 0 (le 9 0), .settingDurable 1048576,
   .msixUnmask 4 .pf 0, .msixUnmask 0 (.vf 64) 0, .msixUnmask 0 .pf 32, .configurationWrite 4 .pf (.aspm true),
   .doeDiscovery 4 .pf 0, .doeDiscovery 0 (.vf 64) 0, .doeDiscovery 0 .pf 256, .stationZeroingDone 8 0, .stationZeroingDone 0 88,
   .moveUnitCopied 8]

theorem test_wf_refuses_frames_and_registers : badFrames.all (fun i => !i.wf) = true := by decide +kernel

/-! ### Witnesses: contexts and their commands (chapter 2) -/

def tOpen : OpenBody := ⟨0x51000, 0x52000, 0x53000, 0x54000, 4, 4, 16, false, false, 88, 4096, [0, 0, 0, 0, 0, 0, 0, 0], 31, 0⟩

theorem witness_open_context :
    let s := fedAdmin demo (.openContext a0 tOpen) a0
    AdminTakes s (.openContext a0 tOpen) a0 ∧ lowestFree s.ctxs 0 64 = some 2 ∧ openMalformed s tOpen = false ∧
    openAllowed (dropAdmin s 0) 0 tOpen = true ∧
    (∀ p < nPlats s, tOpen.perPlat = true → 0 < tOpen.counts.getD p 0 → ready s p = true) ∧
    (platOf s 0).switching = false ∧ formCrew (dropAdmin s 0) tOpen = some ((List.range 88).map fun i => ⟨1, some i, false⟩) ∧
    stakesOn s 1 + tOpen.stakes ≤ 8192 := by decide +kernel

/-- R41: a request that fits no whole Plat is filled Plat by Plat; the counts of a per-Plat request are met exactly. -/
theorem test_crew_across :
    (formCrew demo { tOpen with total := 90 }).map List.length = some 90 ∧
    formCrew demo { tOpen with perPlat := true, counts := [1, 0, 0, 0, 0, 0, 0, 1] } =
      some [⟨0, some 2, false⟩, ⟨7, some 0, false⟩] := by decide +kernel

theorem witness_close_query_unknown :
    AdminTakes (fedAdmin demo (.closeContext a0 0) a0) (.closeContext a0 0) a0 ∧
    ctxOf (fedAdmin demo (.closeContext a0 0) a0) 0 = some tCtx ∧ (0 : Nat) < 64 ∧ tCtx.port = a0.port ∧
    AdminTakes (fedAdmin demo (.queryContexts a0) a0) (.queryContexts a0) a0 ∧
    AdminTakes (fedAdmin demo (.unknownOpcode (.admin 0) 3 4) ⟨0, 3, 4⟩) (.unknownOpcode (.admin 0) 3 4) ⟨0, 3, 4⟩ ∧
    CtxTakes (fed demo (.unknownOpcode (.context 1) 3 4) ⟨1, 3, 4⟩) (.unknownOpcode (.context 1) 3 4) ⟨1, 3, 4⟩
      (fedCtx tSurv (.unknownOpcode (.context 1) 3 4) ⟨1, 3, 4⟩) := by decide +kernel

/-- Entries written out by Tables 2.4 to 2.6: opcode, FLAGS, TAG, then the body; the reserved bytes of a body are not read (R9). -/
theorem test_entries :
    spells ([0x03, 1, 0xEE, 0xEE, 17, 0, 0, 0, 5, 0] ++ le 6 0xEEEEEEEEEEEE ++ le 8 0x1122334455 ++ le 8 77 ++ le 32 0)
      (.runTraverse h0 5 0x1122334455 77) 17 1 = true ∧
    spells ([0x0B, 0, 0, 0, 17, 0, 0, 0, 3, 0, 1, 2] ++ le 52 0) (.stakeGrant h0 3 1 2) 17 0 = true ∧
    spells ([0x0B, 0, 0, 0, 17, 0, 0, 0, 3, 0, 2, 1] ++ le 52 0) (.stakeGrant h0 3 1 2) 17 0 = false ∧
    spells ([0x07, 0, 0, 0, 17, 0, 0, 0] ++ le 56 0) (.unknownOpcode (.context 0) 17 0) 17 0 = true ∧
    spells ([0x08, 0, 0, 0, 17, 0, 0, 0] ++ le 56 0) (.unknownOpcode (.context 0) 17 0) 17 0 = false ∧
    spells ([0x81, 0, 0, 0, 18, 0, 0, 0, 63] ++ le 55 0) (.closeContext ⟨0, 18, 0⟩ 63) 18 0 = true := by decide +kernel

/-- Tables 2.7 and 2.9, R63, R65: entry 257 of a ring of 256 lies one entry above the base, in its second pass. -/
theorem test_entry_bytes :
    entryAt 0x20000 8 32 257 = 0x20020 ∧ phaseOf 8 255 = true ∧ phaseOf 8 257 = false ∧
    cqBytes true 6 { tag := 0x11223344, status := 0x0302, kind := 2, warn := 5, stamp := 0x0807060504030201, trav := 0x0A09, leg := 0x0C0B,
                     period := 0x100F0E0D, tier := 1, plat := 7, aux := 9 } =
      [0x44, 0x33, 0x22, 0x11, 0x02, 0x03, 2, 5, 1, 2, 3, 4, 5, 6, 7, 8, 6, 0, 0, 0, 9, 0x0A, 0x0B, 0x0C, 0x0D, 0x0E, 0x0F, 0x10, 1, 7, 9, 0x80] ∧
    (evBytes false ⟨0x0118, 5, 2, 3, [(0x10, 1, 9)]⟩).take 18 = [0x18, 1, 5, 0, 2, 0, 0, 0, 3, 0, 0, 0, 0, 0, 0, 0, 9, 0] := by decide +kernel

/-- Context 0 holds grant slot 3 on Stake 1 of context 1, with both rights. -/
def grantee : State := withCtx { tCtx with grants := [(3, ⟨1, 1, true, true⟩)] }

theorem witness_stake_commands :
    (let i := Instr.stakeSet h0 3 4294967295
     CtxTakes (fed demo i h0) i h0 (fedCtx tCtx i h0) ∧ cmdStake (dropEntry (fed demo i h0) 0) (fedCtx tCtx i h0) 0 3 true = .ok (.ctx 0 3)) ∧
    (let i := Instr.stakeAdd h0 0x8003 4
     let x := fedCtx { tCtx with grants := [(3, ⟨1, 1, true, true⟩)] } i h0
     CtxTakes (fed grantee i h0) i h0 x ∧ cmdStake (dropEntry (fed grantee i h0) 0) x 0 0x8003 true = .ok (.ctx 1 1)) ∧
    (let i := Instr.stakeRead h0 0
     CtxTakes (fed demo i h0) i h0 (fedCtx tCtx i h0) ∧ cmdStake (dropEntry (fed demo i h0) 0) (fedCtx tCtx i h0) 0 0 false = .ok (.ctx 0 0)) := by
  decide +kernel

theorem witness_stake_grant :
    let i := Instr.stakeGrant h0 3 1 3
    CtxTakes (fed demo i h0) i h0 (fedCtx tCtx i h0) ∧ ctxOf (fed demo i h0) 1 = some tSurv ∧ 3 < (fedCtx tCtx i h0).stakes.length ∧
    (1 : Nat) < 64 ∧ 1 ≠ h0.ctx ∧ 3 % 4 ≠ 0 ∧ grantSlot tSurv 0 3 = none ∧ lowestFree tSurv.grants 0 256 = some 0 := by decide +kernel

theorem witness_stake_revoke :
    let i := Instr.stakeRevoke h1 1 0
    CtxTakes (fed grantee i h1) i h1 (fedCtx tSurv i h1) ∧
    ctxOf (fed grantee i h1) 0 = some { tCtx with grants := [(3, ⟨1, 1, true, true⟩)] } ∧ 1 < tSurv.stakes.length ∧
    (0 : Nat) < 64 ∧ 0 ≠ h1.ctx ∧ grantSlot { tCtx with grants := [(3, ⟨1, 1, true, true⟩)] } 1 1 = some 3 := by decide +kernel

def tMark : MarkWait := ⟨500, 9, false, none⟩

/-- Context 0 waits to write a Mark; port 0 has a flush read out that covers nothing earlier. -/
def marked : State :=
  { withCtx { tCtx with marks := [tMark] } with ports := [(0, { tPort with flushing := some 600 })] }

theorem witness_marks :
    CtxTakes (fed demo (.mark h0) h0) (.mark h0) h0 (fedCtx tCtx (.mark h0) h0) ∧ ctxOf marked 0 = some { tCtx with marks := [tMark] } ∧
    tMark.leg = none ∧ markReady marked 0 { tCtx with marks := [tMark] } tMark = true ∧ (portOf marked 0).flushing.isSome = true := by
  decide +kernel

/-- A Traverse image of one Null Leg for context 0, whose digest is that of another tool. -/
def tImage : Bytes :=
  le 4 0x56544E41 ++ le 2 1 ++ le 2 0 ++ le 2 1 ++ le 1 1 ++ le 1 1 ++ le 4 0 ++ le 2 2 ++ le 46 0 ++ le 4 9 ++ le 124 0 ++
  le 32 74747708470594364673872421292693546478739089287589580066126697216817746272614 ++ le 32 0 ++ le 1 7 ++ le 127 0

theorem witness_load_traverse :
    let i := Instr.loadTraverse h0 384 (some tImage)
    CtxTakes (fed demo i h0) i h0 (fedCtx tCtx i h0) ∧ linkUp (fed demo i h0) tCtx.port = true ∧
    lowestFree (fed demo i h0).travs (travKey 0 0) 64 = some 0 ∧ (fed demo i h0).travs.length < 4096 ∧
    imageStatus (dropEntry (fed demo i h0) 0) (fedCtx tCtx i h0) 384 tImage = 0 := by decide +kernel

/-- Table 2.11: one wrong byte of a Leg fails the digest check, the wrong length the format check before it. -/
theorem test_image_checks :
    imageStatus demo tCtx 384 (overlay tImage 260 [1]) = INTEGRITY ∧ imageStatus demo tCtx 512 tImage = CONFIG_REFUSED ∧
    imageStatus demo tCtx 384 (overlay tImage 4 [9]) = VERSION_REFUSED := by decide +kernel

/-- A Traverse of two Legs on Station 0: a Null Leg and `g`. -/
def tTrav (g : Leg) : Trav :=
  { ctx := 0, handle := 0, legs := [⟨7, 0, 0, 0, 0, 0, [], [], []⟩, g], locals := [⟨9, 9, 0⟩], tag := 4 }

def tNull : Leg := ⟨7, 0, 0, 0, 0, 0, [⟨1, 0, 3⟩], [⟨2, 0, 5⟩], []⟩

/-- The package with Traverse 0 of context 0. -/
def withTrav (t : Trav) : State := { demo with travs := [(0, t)] }

def tRun : Run := { k := 2, began := 999000000, legs := [{ st := .done 0 }, { st := .running, at_ := 999000000, bases := [0] }] }

/-- A command of context 0 on a package with Traverse 0 is taken. -/
abbrev TravTakes (t : Trav) (i : Instr) : Prop :=
  CtxTakes (fed (withTrav t) i h0) i h0 (fedCtx tCtx i h0) ∧ travOf (fed (withTrav t) i h0) 0 0 = some t

theorem witness_traverse_resident :
    TravTakes (tTrav tNull) (.unloadTraverse h0 0) ∧ TravTakes (tTrav tNull) (.runTraverse h0 0 1000000000 0) ∧
    TravTakes (tTrav tNull) (.runTraverse h0 0 1000000001 0) ∧ TravTakes (tTrav tNull) (.armPeriodic h0 0 100000 1000010000 0) ∧
    (0 : Nat) < 64 ∧ (tTrav tNull).st = .resident ∧ 1000000000 ≤ (withTrav (tTrav tNull)).sup.now ∧
    (withTrav (tTrav tNull)).sup.now < 1000000001 ∧ (withTrav (tTrav tNull)).sup.now + 10000 ≤ 1000010000 ∧
    (100000 : Nat) ≤ 100000 ∧ (100000 : Nat) ≤ 1000000000 := by decide +kernel

def tArmed : Trav := { tTrav tNull with st := .armed, b0 := 1000000000, period := 100000, count := 3, bases := [[], [0]] }
def tPeriodic : Trav := { tArmed with st := .periodic, b0 := 999900000, next := 1, run := some tRun }

theorem witness_traverse_armed :
    TravTakes tArmed (.disarm h0 0) ∧ TravTakes tArmed (.cancel h0 0) ∧ tArmed.st = .armed := by decide +kernel

theorem witness_traverse_periodic :
    TravTakes tPeriodic (.disarm h0 0) ∧ TravTakes tPeriodic (.cancel h0 0) ∧ (0 : Nat) < 64 ∧
    tPeriodic.st = .periodic ∧ tPeriodic.run.isSome = true ∧ tPeriodic.ending = [] := by decide +kernel

def tRunning : Trav := { tTrav tNull with st := .running, deadline := 1000000000, next := 1, run := some { tRun with k := 0 } }

theorem witness_traverse_running :
    TravTakes tRunning (.cancel h0 0) ∧ tRunning.st = .running ∧ tRunning.run.isSome = true ∧ tRunning.ending = [] := by decide +kernel

/-! ### Witnesses: Datum Time and the Chain Unit (chapter 3) -/

theorem witness_ptm_start :
    ptmOn { demo with ports := [(0, { tPort with ptm := { startAt := some 999000000 } })] } 0 = true ∧
    (portOf { demo with ports := [(0, { tPort with ptm := { startAt := some 999000000 } })] } 0).ptm.asked = none ∧
    (999000000 : Nat) + demo.dtm.ptmInterval.inForce ≤ demo.sup.now := by decide +kernel

/-- A dialogue of port 0 is under way since `t1`. -/
def asked (t1 : Nat) : State := { demo with ports := [(0, { tPort with ptm := { asked := some t1 } })] }

theorem witness_ptm_response_timeout :
    (portOf (asked 999990000) 0).ptm.asked = some 999990000 ∧ (asked 999990000).sup.now ≤ 999990000 + 10000 ∧
    linkUp (asked 999990000) 0 = true ∧ 999990000 + 10000 ≤ (asked 999990000).sup.now := by decide +kernel

theorem witness_time_map :
    0 < nHost demo ∧ demo.sup.running = true ∧ demo.dtm.mapInterval.inForce ≠ 0 ∧
    (portOf demo 0).ptm.mapAt + demo.dtm.mapInterval.inForce * 1000000 ≤ demo.sup.now ∧
    (let i := Instr.timeMapRead h0 0
     CtxTakes (fed demo i h0) i h0 (fedCtx tCtx i h0) ∧ 0 < nHost (fed demo i h0) ∧ inL0 (fed demo i h0) 0 = true) := by decide +kernel

/-- SYNC_IN accepted an edge 1,000 ns before the next one could be captured. -/
def synced (last : Nat) : State := { demo with dtm := { syncCfg := ⟨0x80000, 0x80000⟩, lastEdge := some last } }

theorem witness_sync_edges :
    (synced 999998998).sup.running = true ∧ (synced 999998998).dtm.ctrl.enable = true ∧
    true = !bit (synced 999998998).dtm.syncCfg.inForce 0 ∧ (10 : Nat) ≤ 10 ∧ (9 : Nat) < 10 ∧
    (synced 999998998).dtm.lastEdge = some 999998998 ∧ 999998998 + 1000 ≤ (synced 999998998).sup.now - 2 ∧
    (synced 999998999).dtm.lastEdge = some 999998999 ∧ (synced 999998999).sup.now - 2 < 999998999 + 1000 := by decide +kernel

def tChainBody : ChainBindBody := ⟨0, 0, 1, 5, 77, 0, 3⟩
def chainFields : List Fld := [(0, 1, 3), (1, 1, 1), (2, 2, 2), (0x14, 4, 6), (0x18, 4, 16), (0x22, 2, 16)]
def tChainDesc : Bytes := blob 512 chainFields

/-- Objects of context 0: a Chain Descriptor, a queue, a place for entries. -/
def chainObjs : Tbl Obj := [tObj 5 512 chainFields, tObj 6 4096 [], tObj 7 4096 []]

def tGroup : Chain := { chainOf 0 tChainBody tChainDesc [] 0 0 with st := .running }

/-- The package with `g` as group 0 of context 0, on stream slot 0 of port 0. -/
def withGroup (g : Chain) (x : Slot) : State :=
  { demo with objs := chainObjs, groups := [(0, g)], ports := [(0, { tPort with slots := [(0, x)] })] }

theorem witness_clears :
    tget (withGroup { tGroup with syncDue := [1000000000] } {}).groups (groupKey 0 0) = some { tGroup with syncDue := [1000000000] } ∧
    (1000000000 : Nat) ≤ (withGroup tGroup {}).sup.now ∧
    past { tGroup with syncDue := [1000000000] } ((1000000000 * 4294967296 : Nat) : Int) = false ∧
    past { tGroup with syncDue := [1000000000], maxTov := some 4294967296000000001 } ((1000000000 * 4294967296 : Nat) : Int) = true := by
  decide +kernel

/-- TIMED_CLEAR of sync group 3 at 1 ns, whose one member has not reached that time, or is past it. -/
theorem witness_timed_clear :
    let i := Instr.timedClear h0 3 1
    let s := fun (m : Int) => fed (withGroup { tGroup with maxTov := some m } {}) i h0
    CtxTakes (s 5) i h0 (fedCtx tCtx i h0) ∧ (3 : Nat) ≤ 15 ∧
    ((s 5).groups.filter fun e => e.2.ctx == h0.ctx && e.2.sync == 3).map (·.1) = [0] ∧
    tget (s 5).groups 0 = some { tGroup with maxTov := some 5 } ∧ past { tGroup with maxTov := some 5 } ((1 * 4294967296 : Nat) : Int) = false ∧
    CtxTakes (s 4294967297) i h0 (fedCtx tCtx i h0) ∧
    ((s 4294967297).groups.filter fun e => e.2.ctx == h0.ctx && e.2.sync == 3).map (·.1) = [0] ∧
    tget (s 4294967297).groups 0 = some { tGroup with maxTov := some 4294967297 } ∧
    past { tGroup with maxTov := some 4294967297 } ((1 * 4294967296 : Nat) : Int) = true := by decide +kernel

theorem witness_partner_time :
    ((4294967296 : Int) - (((4294972296 : Nat) : Int) - 5000)) % 2 ^ 64 = 0 ∧
    toDatum { valid := true, h0 := 5000, d0 := 9000, rate := -3 } 4294972296 = some 4294976296 ∧
    toDatum { valid := true, h0 := 5000, d0 := 9000, rate := -3 } 4294972297 = none ∧
    toDatum { h0 := 5000, d0 := 9000, rate := -3 } 5000 = none := by decide +kernel

/-- R115: halves round away from zero. -/
theorem test_half_away :
    toDatum { valid := true, rate := 549755813888 } 1 = some 0 ∧ toDatum { valid := true, h0 := 2, rate := 549755813888 } 1 = some 0 := by
  decide +kernel

theorem witness_chain_bind :
    let i := Instr.chainBind h0 tChainBody
    let s := fed { demo with objs := chainObjs } i h0
    CtxTakes s i h0 (fedCtx tCtx i h0) ∧ chainBindFields (dropEntry s 0) 0 tChainBody = true ∧ namesOut (dropEntry s 0) 0 5 = false ∧
    cmdRead (dropEntry s 0) 0 5 512 = some tChainDesc ∧
    chainBindStatus (dropEntry s 0) 0 (fedCtx tCtx i h0) tChainBody tChainDesc = 0 ∧
    lowestFree s.groups (groupKey 0 0) 4096 = some 0 ∧ lowestFree (portOf s 0).slots 0 1024 = some 0 := by decide +kernel

/-- A command of context 0 on a package with `tGroup` is taken. -/
abbrev GroupTakes (i : Instr) : Prop :=
  CtxTakes (fed (withGroup tGroup {}) i h0) i h0 (fedCtx tCtx i h0) ∧
    tget (fed (withGroup tGroup {}) i h0).groups (groupKey 0 0) = some tGroup

theorem witness_chain_commands :
    GroupTakes (.chainStart h0 0) ∧ GroupTakes (.chainStop h0 0) ∧ GroupTakes (.chainUnbind h0 0) ∧ tGroup.ctx = 0 ∧
    tGroup.handle = 0 ∧ (0 : Nat) < 4096 := by decide +kernel

/-- A Sample Block header: one frame of one 16-bit item, T_FIRST in Datum Time; its CRC is that of another tool. -/
def tHeader (stream time : Nat) : Bytes :=
  blob 64 [(0, 4, stream), (4, 4, 1), (8, 8, 999000000), (0x10, 8, 343597383680), (0x18, 2, 1), (0x1A, 1, 1), (0x1B, 1, 1),
           (0x1C, 1, time), (0x20, 4, 0x0ec0b315)]

theorem witness_sample_block_commit :
    linkUp (withGroup tGroup {}) 0 = true ∧ (portOf (withGroup tGroup {}) 0).ctrl.enable = true ∧
    bit (portOf (withGroup tGroup {}) 0).cfg.inForce 1 = true ∧ tget (portOf (withGroup tGroup {}) 0).slots 0 = some {} ∧
    ({} : Slot).staged = none ∧ ({} : Slot).split = false ∧ (tHeader 77 0).length = 64 := by decide +kernel

def staged (hd : Bytes) : Slot := { staged := some (memAt [(0, 2, 0x1234)], hd), held := [(0, [1])] }

/-- The package when the copy of slot 0 has ended. -/
def copied (hd : Bytes) : State :=
  modSlot (withGroup tGroup (staged hd)) 0 0 fun x => x.held.foldl (fun y w => slotWrite y w.1 w.2) { x with staged := none, split := false, held := [] }

/-- A copy ends: of an acceptable block, of one of another stream, and of one whose payload fails its CRC. -/
theorem witness_staging_copy :
    tget (portOf (withGroup tGroup (staged (tHeader 77 0))) 0).slots 0 = some (staged (tHeader 77 0)) ∧
    slotGroup (withGroup tGroup (staged (tHeader 77 0))) 0 0 = some (0, tGroup) ∧
    blockReason (copied (tHeader 77 0)) tGroup true (tHeader 77 0) (memAt [(0, 2, 0x1234)]) = 0 ∧
    blockTime (copied (tHeader 77 0)) tGroup.port (tHeader 77 0) = some (999000000 * 4294967296) ∧
    blockReason (copied (tHeader 78 0)) tGroup true (tHeader 78 0) (memAt [(0, 2, 0x1234)]) = 1 ∧
    blockReason (copied (tHeader 77 0)) tGroup false (tHeader 77 0) (memAt [(0, 2, 0x1234)]) = 1 ∧
    blockReason (copied (tHeader 77 0)) tGroup true (tHeader 77 0) (memAt [(0, 2, 0x1235)]) = 3 ∧
    blockReason (copied (tHeader 77 1)) tGroup true (tHeader 77 1) (memAt [(0, 2, 0x1234)]) = 4 := by decide +kernel

theorem witness_starvation :
    tget (withGroup { tGroup with starveAt := some 1000000000 } {}).groups (groupKey 0 0) =
      some { tGroup with starveAt := some 1000000000 } ∧
    (1000000000 : Nat) ≤ demo.sup.now ∧ (tGroup.st = .running ∨ tGroup.st = .suspect) := by decide +kernel

def tBlock : Block := ⟨999000000 * 4294967296, 343597383680, [[5], [6]], true, some (-32768, 32767)⟩

theorem witness_chain_block :
    tget (withGroup { tGroup with blocks := [tBlock] } {}).groups (groupKey 0 0) = some { tGroup with blocks := [tBlock] } := by
  decide +kernel

def tEntry (n : Nat) : Entry := ⟨999000000 * 4294967296, 0, 0, n, [7]⟩
def takeLeg : Leg := mkLeg 5 0x1002 5 [(7, true)]
def queued : Chain := { tGroup with queue := [tEntry 1, tEntry 2, tEntry 3] }
def taking : State := { running takeLeg chainObjs with groups := [(0, queued)] }

theorem witness_take :
    taking.snaps = [] ∧ legRuns taking tLeg = true ∧ legOf taking tLeg = some takeLeg ∧
    runOf taking tLeg = some { st := .running, at_ := 999999000, quota := 2 } ∧ takeLeg.kind = 5 ∧ takeLeg.subop / 4096 = 1 ∧
    takeLeg.subop % 4096 ≠ 0 ∧ opAt takeLeg 0 = some ⟨7, 0, 0x8000⟩ ∧ isOut ⟨7, 0, 0x8000⟩ = true ∧
    takeGroup taking 0 takeLeg.desc = some (0, queued) ∧
    32 + takeLeg.subop % 4096 * entrySize queued.nch ≤ opRoom taking 0 ⟨7, 0, 0x8000⟩ := by decide +kernel

theorem witness_accepted_block : tget (withGroup tGroup {}).groups 0 = some tGroup := by decide +kernel

/-! ### Witnesses: frame intake and the Parallax Engine (chapter 4) -/

def camFields (view : Nat) : List Fld :=
  [(0, 1, 2), (1, 1, 0), (4, 2, 16), (6, 2, 16), (8, 4, 4096), (0xC, 4, view), (0x16, 2, 256), (0x20, 1, 17), (0x22, 2, 65535),
   (0x28, 8, 0x9000), (0x40, 4, 8), (0x44, 4, 9)]

/-- Objects of context 0: two Camera Descriptors, two Frame Buffers of which the first holds one bright pixel. -/
def camObjs : Tbl Obj := [tObj 5 256 (camFields 20), tObj 6 256 (camFields 21), tObj 8 4096 [(0, 1, 255)], tObj 9 4096 []]

def tCam (h view : Nat) : Cam := camOf 0 h h 1 0 0 (blob 256 (camFields view))

/-- The package with cameras 0 and 1 of context 0. -/
def withCams (l r : Cam) : State := { demo with objs := camObjs, cams := [(0, l), (1, r)] }

theorem witness_frame_bind :
    let i := Instr.frameBind h0 5 1 0 0
    let s := fed { demo with objs := camObjs } i h0
    CtxTakes s i h0 (fedCtx tCtx i h0) ∧ frameBindFields (dropEntry s 0) 0 0 = true ∧ namesOut (dropEntry s 0) 0 5 = false ∧
    cmdRead (dropEntry s 0) 0 5 256 = some (blob 256 (camFields 20)) ∧
    frameBindStatus (dropEntry s 0) 0 (fedCtx tCtx i h0) 0 (blob 256 (camFields 20)) = 0 ∧
    lowestFree s.cams (camKey 0 0) 256 = some 0 ∧ freeWindow s 0 = some 0 := by decide +kernel

/-- A command of context 0 on a package with two cameras is taken. -/
abbrev CamTakes (i : Instr) : Prop :=
  CtxTakes (fed (withCams (tCam 0 20) (tCam 1 21)) i h0) i h0 (fedCtx tCtx i h0) ∧
    tget (fed (withCams (tCam 0 20) (tCam 1 21)) i h0).cams (camKey 0 0) = some (tCam 0 20)

theorem witness_frame_commands :
    CamTakes (.frameStart h0 0) ∧ CamTakes (.frameStop h0 0) ∧ CamTakes (.exposureControl h0 0 1 4) ∧ CamTakes (.frameUnbind h0 0) ∧
    (0 : Nat) < 256 ∧ (1 : Nat) ≤ 1 ∧ (4 : Nat) ≤ 4 ∧
    viewBusy (dropEntry (fed (withCams (tCam 0 20) (tCam 1 21)) (.frameUnbind h0 0) h0) 0) (tCam 0 20).ctx (tCam 0 20).view = false ∧
    pairOf (dropEntry (fed (withCams (tCam 0 20) (tCam 1 21)) (.frameUnbind h0 0) h0) 0) (tCam 0 20) = none := by decide +kernel

def tPairBody : PairBindBody := ⟨0, 1, 10000000, 22, 0, 1⟩

theorem witness_pair_bind :
    let i := Instr.pairBind h0 tPairBody
    let s := fed (withCams (tCam 0 20) (tCam 1 21)) i h0
    CtxTakes s i h0 (fedCtx tCtx i h0) ∧ tget s.cams (camKey 0 0) = some (tCam 0 20) ∧ tget s.cams (camKey 0 1) = some (tCam 1 21) ∧
    pairBindStatus (dropEntry s 0) 0 (fedCtx tCtx i h0) tPairBody (tCam 0 20) (tCam 1 21) = 0 ∧
    lowestFree s.pairs (pairKey 0 0) 128 = some 0 := by decide +kernel

/-- Cameras 0 and 1 are a pair. -/
def tPair : Pair := pairOfCams 0 0 tPairBody (tCam 0 20) (tCam 1 21)
def paired : State :=
  { withCams { tCam 0 20 with paired := some 0 } { tCam 1 21 with paired := some 0 } with pairs := [(0, tPair)] }

theorem witness_pair_unbind :
    (let i := Instr.pairUnbind h0 0
     CtxTakes (fed paired i h0) i h0 (fedCtx tCtx i h0) ∧ (0 : Nat) < 128 ∧ tget (fed paired i h0).pairs (pairKey 0 0) = some tPair ∧
     viewBusy (dropEntry (fed paired i h0) 0) 0 tPair.view = false) ∧
    (let i := Instr.frameUnbind h0 0
     CtxTakes (fed paired i h0) i h0 (fedCtx tCtx i h0) ∧
     pairOf (dropEntry (fed paired i h0) 0) { tCam 0 20 with paired := some 0 } = some (0, tPair) ∧
     viewBusy (dropEntry (fed paired i h0) 0) 0 20 = false) := by decide +kernel

/-- A Frame Record of camera 1: 16 by 16 mono pixels of 8 bits at a pitch of 64; its CRC is that of another tool. -/
def tRecord (camera width time crc : Nat) : Bytes :=
  blob 128 [(0, 4, camera), (8, 8, 999000000), (0x10, 4, 1000), (0x18, 2, width), (0x1A, 2, 16), (0x1C, 4, 64), (0x20, 4, 1024),
            (0x25, 1, 8), (0x26, 1, 255), (0x27, 1, time), (0x30, 4, crc)]

theorem witness_intake :
    linkUp (withCams (tCam 0 20) (tCam 1 21)) 0 = true ∧ intakeOn (withCams (tCam 0 20) (tCam 1 21)) 0 = true ∧
    (0x7FFFFFFFF : Nat) < 0x800000000 ∧ windowCam (withCams (tCam 0 20) (tCam 1 21)) 0 1 = some (1, tCam 1 21) ∧
    (tRecord 1 16 0 0).length = 128 := by decide +kernel

/-- Camera 0 with one frame in its check pass. -/
def checking (run : Bool) (e : Bytes × Bool × Fill) : Cam := { tCam 0 20 with running := run, staged := [e] }

/-- Of the frames that R160's checks discard: split, from another camera, out of range, with the camera stopped, without a buffer. -/
theorem witness_frame_checks :
    tget (withCams (checking true (tRecord 1 16 0 0, false, .none)) (tCam 1 21)).cams (camKey 0 0) =
      some (checking true (tRecord 1 16 0 0, false, .none)) ∧
    fld (tRecord 2 16 0 0) 0 4 ≠ (tCam 0 20).camera ∧ fld (tRecord 1 16 0 0) 0 4 = (tCam 0 20).camera ∧
    recordOk (tCam 0 20) (tRecord 1 15 0 0) = false ∧ recordOk (tCam 0 20) (tRecord 1 16 0 0) = true ∧
    (checking false (tRecord 1 16 0 0, true, .none)).running = false ∧ (checking true (tRecord 1 16 0 0, true, .sink)).running = true := by
  decide +kernel

def tFrame : Frame := { index := 0, seq := 0, tov := 0, buffer := 0, record := [], stats := [] }

set_option maxRecDepth 20000 in
/-- A frame in buffer 0 is accepted, has the wrong CRC, or gives a time that cannot be converted. -/
theorem witness_frame_accept :
    crc32c (rdBytes (framePixels (withCams (tCam 0 20) (tCam 1 21)) (tCam 0 20) tFrame) 0 1024) = 0x6614df20 ∧
    fld (tRecord 1 16 0 0x6614df20) 0x20 4 = 1024 ∧ fld (tRecord 1 16 0 0x6614df20) 0x30 4 = 0x6614df20 ∧
    fld (tRecord 1 16 0 0) 0x30 4 ≠ 0x6614df20 ∧ recordOk (tCam 0 20) (tRecord 1 16 1 0x6614df20) = true ∧
    startTime (withCams (tCam 0 20) (tCam 1 21)) 0 (tRecord 1 16 1 0) = none ∧
    startTime (withCams (tCam 0 20) (tCam 1 21)) 0 (tRecord 1 16 0 0) = some (999000000 * 4294967296) := by decide +kernel

def tRec : ExpRec := ⟨1, 2, 3, 4, 5, 6, 0⟩

theorem witness_exposure :
    tget (withCams { tCam 0 20 with due := some tRec } (tCam 1 21)).cams (camKey 0 0) = some { tCam 0 20 with due := some tRec } := by
  decide +kernel

theorem witness_frame_tov : 1 ≤ fld (tRecord 1 16 0 0) 0x1A 2 := by decide +kernel

/-- R162: 1,000 ns of exposure and 16 rows with no line time put the ToV 500 ns after T_START. -/
theorem test_frame_tov : frameTov 0 (tRecord 1 16 0 0) = 500 * 4294967296 := by decide +kernel

/-- A Parallax Descriptor of a window of 2 by 2 at 4 disparities, from two images or from a cost volume. -/
def pxFields (mode : Nat) : List Fld :=
  [(0, 1, mode), (2, 2, 4), (6, 1, 1), (7, 1, 2), (12, 2, 2), (14, 2, 2), (18, 2, 2), (22, 2, 2), (0x20, 4, 0x1000), (0x24, 4, 0x1000),
   (0x28, 4, if mode = 8 then 128 else 64), (0x2C, 4, 64)]

def pxObjs (mode : Nat) : Tbl Obj :=
  [tObj 5 128 (pxFields mode), tObj 6 8192 [(0x25, 1, 8), (0x1000, 1, 9)], tObj 7 8192 [(0x25, 1, 8), (0x1001, 1, 9)], tObj 8 4096 [],
   tObj 9 65536 []]

def pxLeg : Leg := mkLeg 1 0 5 [(6, false), (7, false), (8, true), (9, true)]
def pxW : Who := whoOf (running pxLeg (pxObjs 0)) tLeg
def pxD (mode : Nat) : PxDesc := parsePx (blob 128 (pxFields mode))
def rdPlane (mode : Nat) (o : OpEnt) : Option Bytes :=
  (readPlane (running pxLeg (pxObjs mode)) pxW o 0x1000 (pxD mode)).map fun e => (e.1 ++ e.2.bytes).take 140

theorem witness_parallax :
    legOf (running pxLeg (pxObjs 0)) tLeg = some pxLeg ∧ legRuns (running pxLeg (pxObjs 0)) tLeg = true ∧ pxLeg.kind = 1 ∧
    rdName (running pxLeg (pxObjs 0)) pxW pxLeg.desc 0 128 = some (blob 128 (pxFields 0)) ∧
    pxCheck (running pxLeg (pxObjs 0)) 0 pxLeg (pxD 0) = 0 ∧ opAt pxLeg 0 = some ⟨6, 0, 0⟩ ∧ opAt pxLeg 1 = some ⟨7, 0, 0⟩ ∧
    opAt pxLeg 2 = some ⟨8, 0, 0x8000⟩ ∧ (pxD 0).vol = false ∧ (pxD 0).offL = 0x1000 ∧ (pxD 0).offR = 0x1000 ∧
    rdPlane 0 ⟨6, 0, 0⟩ = some (blob 140 [(0x25, 1, 8), (128, 1, 9)]) ∧
    rdPlane 0 ⟨7, 0, 0⟩ = some (blob 140 [(0x25, 1, 8), (129, 1, 9)]) := by decide +kernel

theorem witness_parallax_volume :
    legOf (running pxLeg (pxObjs 8)) tLeg = some pxLeg ∧ legRuns (running pxLeg (pxObjs 8)) tLeg = true ∧
    rdName (running pxLeg (pxObjs 8)) pxW pxLeg.desc 0 128 = some (blob 128 (pxFields 8)) ∧
    pxCheck (running pxLeg (pxObjs 8)) 0 pxLeg (pxD 8) = 0 ∧ (pxD 8).vol = true ∧ (pxD 8).ring.role = 0 ∧
    (rdPlane 8 ⟨6, 0, 0⟩).isSome = true ∧
    (((List.range (pxD 8).hw).mapM fun y =>
      rdOp (running pxLeg (pxObjs 8)) pxW ⟨7, 0, 0⟩ (y * (pxD 8).src) ((pxD 8).ww * (pxD 8).dd)).map List.length) = some 2 := by
  decide +kernel

/-- A consumer of a ring of two one-row slots, of which `full` are FULL. -/
def pxRingFields : List Fld := pxFields 8 ++ [(0x38, 1, 2), (0x3A, 1, 2), (0x3C, 2, 1)]
def pxRing : PxDesc := parsePx (blob 128 pxRingFields)
def pxTaking (full : Nat) : State :=
  { running pxLeg (tObj 5 128 pxRingFields :: (pxObjs 8).tail) with plats := tput demo.plats 0 { tPlat with flags := [(0, full)] } }
def pxTaken (full : Nat) : State := takeBands pxRing.bands (pxTaking full) tLeg (whoOf (pxTaking full) tLeg) pxLeg pxRing

theorem witness_parallax_ring (n : Nat) (h : n = 1 ∨ n = 3) :
    (pxTaking n).snaps = [] ∧ legOf (pxTaking n) tLeg = some pxLeg ∧ legRuns (pxTaking n) tLeg = true ∧
    rdName (pxTaking n) (whoOf (pxTaking n) tLeg) pxLeg.desc 0 128 = some (blob 128 pxRingFields) ∧
    pxCheck (pxTaking n) 0 pxLeg pxRing = 0 ∧ pxRing.vol = true ∧ pxRing.ring.role ≠ 0 ∧ pxRing.hw = 2 ∧
    (readPlane (pxTaking n) (whoOf (pxTaking n) tLeg) ⟨6, 0, 0⟩ pxRing.offL pxRing).isSome = true ∧
    (takenRows (pxTaken n) tLeg pxRing).length = (n + 1) / 2 := by
  rcases h with rfl | rfl <;> decide +kernel

/-- R182: a winner at index 1 with equal neighbours gives the word 32, one at index 0 is out of range. -/
theorem test_parallax_words :
    pxOut (pxD 8) [[10, 0, 10, 10]] 0 = (32, true) ∧ pxOut (pxD 8) [[0, 10, 10, 10]] 0 = (0xFFFF, false) := by decide +kernel

/-! ### Witnesses: the Tensor Array (chapter 5) -/

/-- A Tensor Program of one MATMUL: [1, 2] times [3, 4] into one FP32 element; its tally goes to object 9. -/
def tensorProgram (op : Nat) : List Fld :=
  [(0, 4, 0x5450524F), (4, 2, 1), (6, 2, 1), (8, 2, 3), (0xC, 4, 9), (0x10, 4, 64), (0x14, 4, 256),
   (64, 1, 0), (66, 1, 2), (68, 2, 2), (70, 2, 1), (72, 2, 1), (74, 2, 1),
   (112, 1, 1), (114, 1, 2), (116, 2, 2), (118, 2, 1), (120, 2, 1), (122, 2, 1),
   (160, 1, 2), (162, 1, 2), (164, 2, 1), (166, 2, 1), (168, 2, 1), (170, 2, 1),
   (256, 1, op), (260, 2, 0), (262, 2, 1), (264, 2, 0xFFFF), (266, 2, 2), (276, 2, 0xFFFF), (278, 2, 0xFFFF)]

def tensorObjs (op : Nat) : Tbl Obj :=
  [tObj 5 320 (tensorProgram op), tObj 6 64 [(0, 4, 0x3F800000), (4, 4, 0x40000000)], tObj 7 64 [(0, 4, 0x40400000), (4, 4, 0x40800000)],
   tObj 8 64 [], tObj 9 64 []]

def tensorLegOf : Leg := mkLeg 0 0 5 [(6, false), (7, false), (8, true), (9, true)]
def tensorState (op : Nat) : State := running tensorLegOf (tensorObjs op)
def tensorProg (op : Nat) : Prog := (readProg (tensorState op) (whoOf (tensorState op) tLeg) tensorLegOf).getD ⟨0, [], false⟩
def tensorRun : ProgRun :=
  progRun tLeg (whoOf (tensorState 1) tLeg) tensorLegOf (tensorProg 1).steps { s := tensorState 1 }

/-- R200: 1 * 3 + 2 * 4 is 11, 0x41300000 in FP32. -/
theorem witness_tensor_leg :
    legOf (tensorState 1) tLeg = some tensorLegOf ∧ tensorLegOf.kind = 0 ∧ legRuns (tensorState 1) tLeg = true ∧
    scratchOwn (tensorState 1) 0 tensorLegOf 3 = true ∧ tensorLegOf.subop = 0 ∧
    readProg (tensorState 1) (whoOf (tensorState 1) tLeg) tensorLegOf = some (tensorProg 1) ∧ (tensorProg 1).ok = true ∧
    tensorRun.bad = false ∧ tensorRun.wait = false ∧ tensorRun.writes = [(⟨8, 0, 0x8000⟩, 0, le 4 0x41300000)] := by decide +kernel

/-- A program with an opcode that Table 5.6 does not list fails its checks; scratch in another Station's Field Memory is refused. -/
theorem witness_tensor_refused :
    readProg (tensorState 99) (whoOf (tensorState 99) tLeg) tensorLegOf = some (tensorProg 99) ∧ (tensorProg 99).ok = false ∧
    scratchOwn { tensorState 1 with objs := [(9, { (tObj 9 64 []).2 with site := some 1 })] } 0 tensorLegOf 3 = false := by decide +kernel

/-- A program of one COSTQ that produces two rows into a ring of one slot, which no consumer empties. -/
def costProgram : List Fld :=
  [(0, 4, 0x5450524F), (4, 2, 1), (6, 2, 1), (8, 2, 2), (0x10, 4, 64), (0x14, 4, 256),
   (64, 1, 0), (66, 1, 3), (68, 2, 1), (70, 2, 1), (72, 2, 2), (74, 2, 1), (0x64, 4, 4),
   (112, 1, 2), (113, 1, 9), (114, 1, 3), (116, 2, 64), (118, 2, 1), (120, 2, 1), (122, 2, 1),
   (256, 1, 9), (260, 2, 0), (262, 2, 0xFFFF), (264, 2, 0xFFFF), (266, 2, 1), (268, 4, 0x3F800000), (272, 2, 64), (276, 1, 1), (278, 1, 1),
   (280, 2, 1)]
def costState : State :=
  running tensorLegOf [tObj 5 320 costProgram, tObj 6 64 [(0, 4, 0x40400000), (4, 4, 0x40800000)], tObj 7 64 [], tObj 8 64 [], tObj 9 64 []]
def costProg : Prog := (readProg costState (whoOf costState tLeg) tensorLegOf).getD ⟨0, [], false⟩
def costRun : ProgRun := progRun tLeg (whoOf costState tLeg) tensorLegOf costProg.steps { s := costState }

/-- R209: its first slot holds the cost 3, and the Leg waits for EMPTY. -/
theorem witness_tensor_waits :
    legOf costState tLeg = some tensorLegOf ∧ legRuns costState tLeg = true ∧ scratchOwn costState 0 tensorLegOf 3 = true ∧
    readProg costState (whoOf costState tLeg) tensorLegOf = some costProg ∧ costProg.ok = true ∧ costRun.bad = false ∧
    costRun.wait = true ∧ costRun.slots = [(⟨8, 0, 0x8000⟩, 0, le 64 3)] := by decide +kernel

def packed4 : TData := ⟨⟨⟨8, 0, 0⟩, 0, 11, 1, [3, 1, 1, 1], 0, 0, [0, 0, 0]⟩, packRow (fmtBits 11) [1, 0, 1], []⟩

theorem witness_packed_elements :
    packed4.elems = packRow (fmtBits packed4.t.fmt) [1, 0, 1] ∧ (∀ p ∈ [1, 0, 1], p < 2 ^ fmtBits 11) ∧ 2 < [1, 0, 1].length := by
  decide +kernel

/-- R195: ties go to the even multiple. -/
theorem test_rounds_to_even : nearest 6 0 2 false = 2 ∧ nearest 10 0 2 false = 2 ∧ nearest 7 0 2 false = 2 := by decide +kernel

/-! ### Witnesses: fusion, Tracks and Fixes (chapter 6) -/

theorem some_of_isSome {α : Type} {o : Option α} (d : α) (h : o.isSome = true) : o = some (o.getD d) := by
  cases o <;> simp_all

/-- A Filter Descriptor of one inertial sensor without Collimation entries, its initial sigmas 1. -/
def filterFields : List Fld :=
  [(1, 1, 1), (0x10, 4, 250000), (0x80, 1, 0xFF), (0x90, 1, 0xFF), (0xA0, 4, 0x3F800000), (0xA4, 4, 0x3F800000), (0xA8, 4, 0x3F800000),
   (0xAC, 4, 0x3F800000), (0xB0, 4, 0x3F800000), (0x101, 1, 0xFF)]

/-- A batch of one INIT observation at the unit attitude. -/
def initBatch : List Fld :=
  [(0, 4, 1), (4, 4, 1), (8, 2, 2048), (64, 8, 999000000), (64 + 0xC, 1, 5), (64 + 0xE, 2, 1), (64 + 0x10, 8, 0x3FF0000000000000)]

def egoObjs : Tbl Obj := [tObj 5 1536 filterFields, tObj 6 323584 [], tObj 7 224 initBatch]

/-- An EGO_STEP with an INIT in its batch, and one without a batch. -/
def egoLegOf (batch : Nat) : Leg := mkLeg 3 0 5 [(6, true), (0, false), (batch, false)]
def egoState (batch : Nat) : State := running (egoLegOf batch) egoObjs
def egoU (batch : Nat) : State := setEgo (egoState batch) 0 { tCtx.ego with obj := some 6 }
def egoB (batch : Nat) : Bytes := (rdOp (egoU batch) (whoOf (egoState batch) tLeg) ⟨6, 0, 0x8000⟩ (egoHalf 0) egoBytes).getD []
def egoObsOf : List EgoObs × Nat :=
  ([⟨blob 160 [(0, 8, 999000000), (0xC, 1, 5), (0xE, 2, 1), (0x10, 8, 0x3FF0000000000000)], 1, false, 0⟩], 2048)

theorem witness_ego_checks (b : Nat) (hb : b = 0 ∨ b = 7) :
    legOf (egoState b) tLeg = some (egoLegOf b) ∧ (egoLegOf b).kind = 3 ∧ (egoLegOf b).subop = 0 ∧ legRuns (egoState b) tLeg = true ∧
    opAt (egoLegOf b) 0 = some ⟨6, 0, 0x8000⟩ ∧ ctxOf (egoState b) 0 = some tCtx ∧ trackNear (egoState b) 0 (egoLegOf b) = true ∧
    tCtx.ego.obj = none ∧ rdName (egoU b) (whoOf (egoState b) tLeg) (egoLegOf b).desc 0 1536 = some (blob 1536 filterFields) ∧
    fdCheck (egoU b) (blob 1536 filterFields) = 0 ∧
    ((rdOp (egoU b) (whoOf (egoState b) tLeg) ⟨6, 0, 0x8000⟩ 0 4).map leNat).getD 0 % 2 = 0 ∧ opAt (egoLegOf b) 1 = none ∧
    323584 ≤ opRoom (egoU b) 0 ⟨6, 0, 0x8000⟩ ∧ 1536 ≤ nameLength (egoU b) 0 (egoLegOf b).desc := by
  rcases hb with rfl | rfl <;> decide +kernel

theorem witness_ego_half (b : Nat) (hb : b = 0 ∨ b = 7) :
    rdOp (egoU b) (whoOf (egoState b) tLeg) ⟨6, 0, 0x8000⟩ (egoHalf 0) egoBytes = some (egoB b) :=
  some_of_isSome [] (by rcases hb with rfl | rfl <;> decide +kernel)

theorem witness_ego_batches :
    ((batchOf (egoU 7) (whoOf (egoState 7) tLeg) (egoLegOf 7) 2).map fun e => (e.1.map (·.b), e.2)) =
      some (egoObsOf.1.map (·.b), 2048) ∧
    ((batchOf (egoU 7) (whoOf (egoState 7) tLeg) (egoLegOf 7) 3).map fun e => (e.1.map (·.b), e.2)) = some ([], 0) ∧
    ((batchOf (egoU 0) (whoOf (egoState 0) tLeg) (egoLegOf 0) 2).map fun e => (e.1.map (·.b), e.2)) = some ([], 0) := by decide +kernel

/-- The INIT makes the filter run, and it moves. -/
theorem witness_ego_fix :
    (egoStart (egoU 7) 0 (blob 1536 filterFields) (egoB 7) egoObsOf.1).f.state = 1 ∧
    (egoAdvance (blob 1536 filterFields) 0 6 none egoObsOf.1 [32, 2048, 0]
      (egoStart (egoU 7) 0 (blob 1536 filterFields) (egoB 7) egoObsOf.1)).2 = 0 ∧
    (egoAdvance (blob 1536 filterFields) 0 6 none egoObsOf.1 [32, 2048, 0]
      (egoStart (egoU 7) 0 (blob 1536 filterFields) (egoB 7) egoObsOf.1)).1.moved = true := by decide +kernel

/-- Without one the filter of a zeroed object is not running. -/
theorem witness_ego_failed : (egoStart (egoU 0) 0 (blob 1536 filterFields) (egoB 0) []).f.state ≠ 1 := by decide +kernel

theorem witness_ego_second :
    opAt (egoLegOf 0) 0 = some ⟨6, 0, 0x8000⟩ ∧ ctxOf (withCtx { tCtx with ego := { obj := some 9 } }) 0 =
      some { tCtx with ego := { obj := some 9 } } ∧ 9 ≠ (⟨6, 0, 0x8000⟩ : OpEnt).obj := by decide +kernel

/-- A Filter State whose history holds one entry at `t`, and what else a TRACK_STEP names. -/
def trackObjs (t : Nat) : Tbl Obj :=
  [tObj 5 64 [(1, 1, 1), (2, 1, 1), (3, 1, 1), (4, 1, 1)], tObj 6 36864 [],
   tObj 7 112 [(0, 8, 999000000), (0xC, 4, 1), (0x10, 4, 1), (64 + 0x26, 2, 1)],
   tObj 8 323584 [(0x1000, 4, 1), (0x101C, 4, 1), (0xC000, 8, t), (0xC010, 8, 0x3FF0000000000000)], tObj 9 8256 []]

def trackLegOf : Leg := mkLeg 3 1 5 [(6, true), (7, false), (8, false), (9, true)]
def trackState (t : Nat) : State := running trackLegOf (trackObjs t)
def trackFilter (t : Nat) : Bytes := (rdOp (trackState t) (whoOf (trackState t) tLeg) ⟨8, 0, 0⟩ (egoHalf 0) egoBytes).getD []
def trackHeader_ : Bytes := blob 64 [(0, 8, 999000000), (0xC, 4, 1), (0x10, 4, 1)]

theorem witness_track_checks :
    legOf (trackState 999000000) tLeg = some trackLegOf ∧ trackLegOf.kind = 3 ∧ trackLegOf.subop = 1 ∧
    legRuns (trackState 999000000) tLeg = true ∧ trackNear (trackState 999000000) 0 trackLegOf = true ∧
    opAt trackLegOf 0 = some ⟨6, 0, 0x8000⟩ ∧ opAt trackLegOf 1 = some ⟨7, 0, 0⟩ ∧ opAt trackLegOf 2 = some ⟨8, 0, 0⟩ ∧
    opAt trackLegOf 3 = some ⟨9, 0, 0x8000⟩ ∧
    rdName (trackState 999000000) (whoOf (trackState 999000000) tLeg) 5 0 64 = some (blob 64 [(1, 1, 1), (2, 1, 1), (3, 1, 1), (4, 1, 1)]) ∧
    rdOp (trackState 999000000) (whoOf (trackState 999000000) tLeg) ⟨6, 0, 0x8000⟩ (trackHalf 0) 8 = some (le 8 0) ∧
    rdOp (trackState 999000000) (whoOf (trackState 999000000) tLeg) ⟨7, 0, 0⟩ 0 64 = some trackHeader_ ∧
    rdOp (trackState 999000000) (whoOf (trackState 999000000) tLeg) ⟨7, 0, 0⟩ 64 48 = some (blob 48 [(0x26, 2, 1)]) ∧
    ((rdOp (trackState 999000000) (whoOf (trackState 999000000) tLeg) ⟨8, 0, 0⟩ 0 4).map leNat).getD 0 % 2 = 0 ∧
    objNamed (trackState 999000000) 0 6 = some (6, (tObj 6 36864 []).2) ∧ fld trackHeader_ 0x10 4 = 1 ∧
    trackDescOk (blob 64 [(1, 1, 1), (2, 1, 1), (3, 1, 1), (4, 1, 1)]) = true ∧ fld trackHeader_ 0xC 4 = 1 ∧
    36864 ≤ opRoom (trackState 999000000) 0 ⟨6, 0, 0x8000⟩ ∧ 323584 ≤ opRoom (trackState 999000000) 0 ⟨8, 0, 0⟩ ∧
    8256 ≤ opRoom (trackState 999000000) 0 ⟨9, 0, 0x8000⟩ := by decide +kernel

theorem witness_track_filter (t : Nat) (ht : t = 999000000 ∨ t = 999000001) :
    rdOp (trackState t) (whoOf (trackState t) tLeg) ⟨8, 0, 0⟩ (egoHalf 0) egoBytes = some (trackFilter t) :=
  some_of_isSome [] (by rcases ht with rfl | rfl <;> decide +kernel)

/-- The history reaches the list's ToV, or begins after it. -/
theorem witness_track_pose :
    (parseFilt (trackFilter 999000000)).state = 1 ∧
    (poseAt (parseFilt (trackFilter 999000000)).hist (tovAt trackHeader_ 0)).isSome = true ∧
    (liveTable (trackState 999000000) 6 0).tov ≤ tovAt trackHeader_ 0 ∧
    (parseFilt (trackFilter 999000001)).state = 1 ∧
    (poseAt (parseFilt (trackFilter 999000001)).hist (tovAt trackHeader_ 0)).isNone = true := by decide +kernel

/-! ### Witnesses: the Adjustment Engine (chapter 7) -/

/-- A Schedule of one pose and one prior, without a body; its digest is that of another tool. -/
def schedFields : List Fld :=
  [(0, 4, 0x53444A41), (4, 2, 1), (0x18, 4, 1), (0x1C, 4, 1), (0x20, 2, 1), (0x22, 1, 1), (0x28, 4, 0xFFFFFFFF),
   (0xE0, 32, 38772261170797515502142737251560910253885555854579348417967781179871348437219)]

/-- Its Problem: the pose at the unit attitude, held to itself. -/
def problemFields : List Fld :=
  [(0, 4, 0x4D425250), (0x18, 4, 1), (0x1C, 4, 1), (0x20, 4, 64), (0x24, 4, 192), (0x28, 4, 256), (0x2C, 4, 256),
   (64 + 0x20, 8, 0x3FF0000000000000), (192, 1, 5), (193, 1, 1), (195, 1, 1), (204, 2, 6)]

def adjObjs (live : Nat) : Tbl Obj :=
  [tObj 5 256 schedFields, tObj 6 512 problemFields, tObj 7 12288 [(0x1000, 4, live)], tObj 8 4096 []]

def adjLegOf (mode : Nat) : Leg := { mkLeg 4 mode 5 [(6, false), (7, true), (0, false), (8, true)] with cycles := 2000 }

/-- The Leg in `mode`, with a live half of `live`, in a run with a deadline. -/
def adjState (mode live deadline : Nat) : State :=
  { running (adjLegOf mode) (adjObjs live) with travs := [(0, { runningTrav (adjLegOf mode) with deadline := deadline })] }

def goes : AdjStart → Bool
  | .go _ => true
  | _ => false

def adjInOf (s : State) (mode : Nat) : AdjIn :=
  match adjStart s (whoOf s tLeg) tLeg (adjLegOf mode) with
  | .go i => i
  | _ => ⟨[], [], default, default, 0, [], []⟩

theorem goes_eq {a : AdjStart} (h : goes a = true) : ∃ i, a = .go i := by
  cases a with
  | go i => exact ⟨i, rfl⟩
  | failed => simp [goes] at h
  | status n => simp [goes] at h

theorem witness_adjustment_start (m live e : Nat) (h : (m, live, e) ∈ [(1, 0, 0), (0, 0, 0), (2, 1, 0), (0, 2, 1000000999), (2, 0, 0)]) :
    legOf (adjState m live e) tLeg = some (adjLegOf m) ∧ (adjLegOf m).kind = 4 ∧ legRuns (adjState m live e) tLeg = true ∧
    (runOf (adjState m live e) tLeg).isSome = true ∧ (travOf (adjState m live e) 0 0).isSome = true ∧ (adjLegOf m).subop % 16 = m ∧
    goes (adjStart (adjState m live e) (whoOf (adjState m live e) tLeg) tLeg (adjLegOf m)) = true ∧
    fld (adjInOf (adjState m live e) m).live 0 4 = live := by
  simp only [List.mem_cons, Prod.mk.injEq, List.not_mem_nil, or_false] at h
  rcases h with ⟨rfl, rfl, rfl⟩ | ⟨rfl, rfl, rfl⟩ | ⟨rfl, rfl, rfl⟩ | ⟨rfl, rfl, rfl⟩ | ⟨rfl, rfl, rfl⟩ <;> decide +kernel

/-- A Leg of 2,000 cycles dispatched 1,000 ns ago at 64/64 fits without an end, and not before an end 1 ns too early. -/
theorem witness_adjustment_end :
    solveFits { at_ := 999999000, pace := 64 } (adjLegOf 0) none = true ∧
    solveFits { at_ := 999999000, pace := 64 } (adjLegOf 0) (some 1000000999) = false ∧
    solveFits { at_ := 999999000, pace := 64 } (adjLegOf 0) (some 1000001000) = true ∧
    solveFits { at_ := 999999000, pace := 63 } (adjLegOf 0) (some 1000001031) = false ∧
    (runningTrav (adjLegOf 0)).run.bind (fun r => runEnd { runningTrav (adjLegOf 0) with deadline := 1000000999 } r) = some 1000000999 := by
  decide +kernel

theorem witness_adjustment_problem :
    ((readProblem (adjState 1 0 0) (whoOf (adjState 1 0 0) tLeg) (adjInOf (adjState 1 0 0) 1).po (adjInOf (adjState 1 0 0) 1).d
      (adjInOf (adjState 1 0 0) 1).body).map fun p => p.facs.all (facOk p) && p.blks.all fun b => decide (b.type ≤ 4)) = some true := by
  decide +kernel


/-- With a Schedule body that agrees with the structure of that Problem, which R255 leaves unspecified, the load pass passes. -/
theorem witness_load_pass (p : AdjProb)
    (hp : readProblem (adjState 1 0 0) (whoOf (adjState 1 0 0) tLeg) (adjInOf (adjState 1 0 0) 1).po (adjInOf (adjState 1 0 0) 1).d
      (adjInOf (adjState 1 0 0) 1).body = some p)
    (h : Config.schedMatches (adjInOf (adjState 1 0 0) 1).body (structureBytes p) = true) :
    loadPass (adjState 1 0 0) (whoOf (adjState 1 0 0) tLeg) (adjInOf (adjState 1 0 0) 1) = some (some p) := by
  have a := witness_adjustment_problem
  have b : schedLimits (adjInOf (adjState 1 0 0) 1).d = true := by decide +kernel
  rw [hp, Option.map_some, Option.some.injEq, Bool.and_eq_true] at a
  simp only [loadPass, hp, Option.map_some, a.1, a.2, b, h, Bool.and_self, if_true]

theorem witness_solve_fits : 0 < ({ pace := 48 } : LegRun).pace := by decide
/-! ### Witnesses: Resection (chapter 8) -/

/-- A Search Descriptor of one query and one result, and its index of one Tract of one page. -/
def searchFields : List Fld := [(0, 4, 6), (4, 2, 1), (6, 2, 1), (8, 1, 1), (10, 2, 1), (24, 4, 13)]
def indexFields : List Fld := [(0, 4, 0x58444E49), (4, 2, 1), (6, 2, 64), (12, 4, 1), (16, 4, 7), (20, 4, 8), (28, 4, 1)]
def directoryFields : List Fld := [(0, 4, 10), (4, 4, 1), (10, 2, 1)]
def queryFields : List Fld := [(0, 4, 1), (4, 2, 64), (16, 4, 5), (64 + 4, 2, 1), (64 + 6, 1, 1), (64 + 7, 1, 1)]

def resObjs : Tbl Obj :=
  [tObj 5 128 searchFields, tObj 6 256 indexFields, tObj 7 256 [], tObj 8 16 directoryFields, tObj 9 131072 [], tObj 10 16384 [],
   tObj 11 384 queryFields, tObj 12 152 [], tObj 13 4 [(0, 1, 2), (1, 1, 3)], tObj 14 152 [(0, 1, 1), (4, 4, 1)],
   tObj 20 576 [(4, 4, 1), (8, 4, 448)]]

def searchLegOf : Leg := mkLeg 2 0 5 [(11, false), (0, false), (12, true), (9, true)]
def resState (g : Leg) : State := { running g resObjs with services := [(3, ⟨0, 20, 1, 0, 6, 1, none⟩)] }
def resW (g : Leg) : Who := whoOf (resState g) tLeg
def sDesc : SDesc := parseSDesc (blob 128 searchFields)
def iDesc : IDesc := parseIDesc demo (blob 256 indexFields)

theorem witness_search :
    legOf (resState searchLegOf) tLeg = some searchLegOf ∧ (runOf (resState searchLegOf) tLeg).isSome = true ∧
    searchLegOf.kind = 2 ∧ searchLegOf.subop = 0 ∧ legRuns (resState searchLegOf) tLeg = true ∧
    searchDesc (resState searchLegOf) (resW searchLegOf) searchLegOf = .inr sDesc ∧
    descObj (resState searchLegOf) 0 sDesc.index false = true ∧
    rdName (resState searchLegOf) (resW searchLegOf) sDesc.index 0 256 = some (blob 256 indexFields) ∧
    parseIDesc (resState searchLegOf) (blob 256 indexFields) = iDesc ∧ searchStatus (resState searchLegOf) 0 searchLegOf sDesc iDesc = 0 ∧
    opAt searchLegOf 0 = some ⟨11, 0, 0⟩ ∧ opAt searchLegOf 2 = some ⟨12, 0, 0x8000⟩ ∧ sDesc.inbox = false ∧
    querySetOk (resState searchLegOf) (resW searchLegOf) sDesc iDesc ⟨11, 0, 0⟩ 0 = true ∧
    (readQuerySet (resState searchLegOf) (resW searchLegOf) ⟨11, 0, 0⟩ 0 sDesc iDesc.dim).map (fun q => (q.count, q.dim, q.tag, q.bytes.length)) =
      some (1, 64, 5, 320) ∧
    rdName (resState searchLegOf) (resW searchLegOf) iDesc.centroids 0 (4 * iDesc.dim * iDesc.tracts) = some (blob 256 []) ∧
    rdName (resState searchLegOf) (resW searchLegOf) iDesc.directory 0 (16 * iDesc.tracts) = some (blob 16 directoryFields) ∧
    iDesc.smax = 0 := by decide +kernel

/-- A SEARCH of an Inbox that holds one query, or none. -/
def inboxFields : List Fld := searchFields ++ [(9, 1, 2)]
def inboxLegOf : Leg := mkLeg 2 0 5 [(20, false), (0, false), (12, true), (9, true)]
def inboxState (n : Nat) : State :=
  { running inboxLegOf ((tObj 5 128 inboxFields :: resObjs.tail.dropLast) ++
      [tObj 20 576 ([(4, 4, n), (8, 4, 448), (80, 8, 2000000000)] ++ (queryFields.map fun f => (128 + f.1, f.2)))]) with
    services := [(3, ⟨0, 20, 1, 0, 6, 1, none⟩)] }
def inboxW (n : Nat) : Who := whoOf (inboxState n) tLeg
def ibDesc : SDesc := parseSDesc (blob 128 inboxFields)
def owned (n : Nat) : State := { inboxState n with services := [(3, ⟨0, 20, 1, 0, 6, 1, some 0⟩)] }

theorem inbox_owned (n : Nat) : inboxOwner (inboxState n) 3 0 = some (owned n) := rfl

theorem witness_search_inbox (n : Nat) (h : n = 0 ∨ n = 1) :
    legOf (inboxState n) tLeg = some inboxLegOf ∧ legRuns (inboxState n) tLeg = true ∧
    runOf (inboxState n) tLeg = some { st := .running, at_ := 999999000, quota := 2 } ∧
    searchDesc (inboxState n) (inboxW n) inboxLegOf = .inr ibDesc ∧ ibDesc.inbox = true ∧
    parseIDesc (inboxState n) (blob 256 indexFields) = iDesc ∧ searchStatus (inboxState n) 0 inboxLegOf ibDesc iDesc = 0 ∧
    serviceOf (inboxState n) 0 20 = some (3, ⟨0, 20, 1, 0, 6, 1, none⟩) ∧
    searchTake (owned n) (inboxW n) ⟨0, 20, 1, 0, 6, 1, none⟩ 999999000 = (if n = 0 then none else some 0) ∧
    (n = 1 → querySetOk (owned n) (inboxW n) ibDesc iDesc ⟨20, 0, 0⟩ (inboxAt (owned n) (inboxW n) 20 1 0 + 64) = true) := by
  rcases h with rfl | rfl <;> decide +kernel

/-- R288: a SUBOP that names nothing. -/
theorem witness_search_subop :
    legOf (running (mkLeg 2 4 5 []) []) tLeg = some (mkLeg 2 4 5 []) ∧ (runOf (running (mkLeg 2 4 5 []) []) tLeg).isSome = true ∧
    legRuns (running (mkLeg 2 4 5 []) []) tLeg = true := by decide +kernel

/-- A SEARCH whose cut-off is now. -/
def cutting : State :=
  { running searchLegOf resObjs with travs := [(0, { runningTrav searchLegOf with
      run := some { legs := [{ st := .done 0 }, { st := .running, tcut := some 1000000000 }] } })] }

theorem witness_search_cutoff :
    legOf cutting tLeg = some searchLegOf ∧ runOf cutting tLeg = some { st := .running, tcut := some 1000000000 } ∧
    legRuns cutting tLeg = true ∧ (1000000000 : Nat) ≤ cutting.sup.now := by decide +kernel

/-- R283: squared distance of (1, 2) and (3, 5), and their negated inner product: 13 and -13. -/
theorem test_distances :
    fp32.encode (dist 0 [.ofNat 1, .ofNat 2] [.ofNat 3, .ofNat 5]) = 0x41500000 ∧
    fp32.encode (dist 1 [.ofNat 1, .ofNat 2] [.ofNat 3, .ofNat 5]) = 0xC1500000 := by decide +kernel

def mergeLegOf : Leg := mkLeg 2 1 5 [(14, false), (0, false), (12, true), (9, true)]

theorem witness_merge :
    legOf (resState mergeLegOf) tLeg = some mergeLegOf ∧ mergeLegOf.kind = 2 ∧ mergeLegOf.subop = 1 ∧
    legRuns (resState mergeLegOf) tLeg = true ∧
    searchDesc (resState mergeLegOf) (resW mergeLegOf) mergeLegOf = .inr sDesc ∧
    mergeStatus (resState mergeLegOf) 0 mergeLegOf sDesc = 0 ∧ opAt mergeLegOf 0 = some ⟨14, 0, 0⟩ ∧
    opAt mergeLegOf 2 = some ⟨12, 0, 0x8000⟩ ∧
    rdOp (resState mergeLegOf) (resW mergeLegOf) ⟨14, 0, 0⟩ 0 (sDesc.slots * slotSize sDesc) = some (blob 152 [(0, 1, 1), (4, 4, 1)]) := by
  decide +kernel

theorem witness_merged_hits :
    ∀ b ∈ [blob 88 [(4, 2, 1), (64, 8, 42), (72, 4, 0x3F800000)]], ∀ h ∈ parseHits b, h.dist.isNan = false := by decide +kernel

def fanLegOf : Leg := mkLeg 2 2 5 [(11, false), (0, false), (12, true), (9, true)]

theorem witness_fan_out :
    legOf (resState fanLegOf) tLeg = some fanLegOf ∧ (runOf (resState fanLegOf) tLeg).isSome = true ∧ fanLegOf.subop = 2 ∧
    legRuns (resState fanLegOf) tLeg = true ∧ (resState fanLegOf).fans = [] ∧
    searchDesc (resState fanLegOf) (resW fanLegOf) fanLegOf = .inr sDesc ∧
    fanStatus (resState fanLegOf) 0 fanLegOf sDesc = 0 ∧ opAt fanLegOf 0 = some ⟨11, 0, 0⟩ ∧ opAt fanLegOf 2 = some ⟨12, 0, 0x8000⟩ ∧
    rdOp (resState fanLegOf) (resW fanLegOf) ⟨11, 0, 0⟩ 0 64 = some ((blob 384 queryFields).take 64) ∧
    rdName (resState fanLegOf) (resW fanLegOf) sDesc.map 0 (4 * sDesc.slots) = some (blob 4 [(0, 1, 2), (1, 1, 3)]) ∧
    fld (blob 384 queryFields) 0 4 = 1 ∧ 1 ≤ sDesc.qcap ∧ 64 + 1 * queryBytes 64 ≤ opRoom (resState fanLegOf) 0 ⟨11, 0, 0⟩ ∧
    sDesc.slots * slotSize sDesc ≤ opRoom (resState fanLegOf) 0 ⟨12, 0, 0x8000⟩ ∧ 4 * sDesc.slots ≤ nameLength (resState fanLegOf) 0 sDesc.map ∧
    rdOp (resState fanLegOf) (resW fanLegOf) ⟨11, 0, 0⟩ 0 (64 + 1 * queryBytes 64) = some (blob 384 queryFields) := by decide +kernel

def tFan (missing : List Nat) : Fan :=
  { leg := tLeg, obj := 12, off := 0, slotLen := 152, nodes := [(0, 2)], missing := missing, listLen := 88 }

/-- A FAN_OUT with every slot filled, and one at its cut-off. -/
theorem witness_fan_complete :
    ({ resState fanLegOf with fans := [tFan []] }).fans.find? (fun f => f.leg == tLeg) = some (tFan []) ∧ (tFan []).missing = [] ∧
    (runOf { resState fanLegOf with fans := [tFan []] } tLeg).isSome = true ∧
    legRuns { resState fanLegOf with fans := [tFan []] } tLeg = true ∧
    runOf { cutting with fans := [tFan [0]] } tLeg = some { st := .running, tcut := some 1000000000 } ∧
    (1000000000 : Nat) ≤ cutting.sup.now := by decide +kernel

def replyLegOf : Leg := mkLeg 2 3 5 [(14, false), (20, false), (0, false), (9, true)]

def replyOwned : State := { resState replyLegOf with services := [(3, ⟨0, 20, 1, 0, 6, 1, some 0⟩)] }

theorem witness_reply :
    inboxOwner (resState replyLegOf) 3 0 = some replyOwned ∧
    legOf (resState replyLegOf) tLeg = some replyLegOf ∧ replyLegOf.subop = 3 ∧ legRuns (resState replyLegOf) tLeg = true ∧
    searchDesc (resState replyLegOf) (resW replyLegOf) replyLegOf = .inr sDesc ∧
    opAt replyLegOf 0 = some ⟨14, 0, 0⟩ ∧ opAt replyLegOf 1 = some ⟨20, 0, 0⟩ ∧
    serviceOf (resState replyLegOf) 0 20 = some (3, ⟨0, 20, 1, 0, 6, 1, none⟩) ∧
    sdescOk sDesc 3 = true ∧ slotSize sDesc ≤ opRoom replyOwned 0 ⟨14, 0, 0⟩ ∧
    rdOp replyOwned (resW replyLegOf) ⟨14, 0, 0⟩ 0 (slotSize sDesc) = some (blob 152 [(0, 1, 1), (4, 4, 1)]) ∧
    inboxEnds replyOwned (resW replyLegOf) 20 = (0, 1) ∧ fld (blob 152 [(0, 1, 1), (4, 4, 1)]) 0 1 ≠ 0 := by
  refine ⟨rfl, ?_⟩
  decide +kernel

def serviceBody : ServiceBindBody := ⟨255, 20, 1, 0, 6, 1⟩

theorem witness_services :
    (let i := Instr.serviceBind h0 serviceBody
     let s := fed (resState searchLegOf) i h0
     CtxTakes s i h0 (fedCtx tCtx i h0) ∧ objOf (dropEntry s 0) 0 20 = some (tObj 20 576 [(4, 4, 1), (8, 4, 448)]).2 ∧
     inArchive (tObj 20 576 []).2 = false ∧ objOf (dropEntry s 0) 0 6 = some (tObj 6 256 indexFields).2 ∧
     inboxEntry 1 (((rdObj (dropEntry s 0) (objKey 0 6) 6 2).map leNat).getD 0) = 448 ∧
     serviceStatus (dropEntry s 0) (fedCtx tCtx i h0) serviceBody (64 + serviceBody.depth * 448 ≤ 576) = 0) ∧
    (let i := Instr.serviceUnbind h0 3
     CtxTakes (fed (resState searchLegOf) i h0) i h0 (fedCtx tCtx i h0) ∧
     tget (fed (resState searchLegOf) i h0).services 3 = some ⟨0, 20, 1, 0, 6, 1, none⟩) := by decide +kernel

/-! ### Objects and the Cadastre -/

def oObj : Obj := (tObj 5 20000 [(0, 4, 77)]).2
/-- An object whose REST is the Archive tier, on Plat 1, with two logical pages. -/
def rObj : Obj := { oObj with home := 1, site := none, rest := .archive, present := .archive, mem := [], lpns := [100, 101] }
def oState (o : Obj) : State := { demo with objs := [(objKey 0 5, o)] }

def physBody : CreateBody :=
  { id := 9, persist := false, attach := false, phys := true, rest := 1, home := 0, length := 4096, window := 0x2C00000, site := 0xFFFF,
    holding := 0, name := 0 }

theorem witness_create :
    let i := Instr.objectCreate h1 physBody
    let s := fed demo i h1
    CtxTakes s i h1 (fedCtx tSurv i h1) ∧ createCheck (dropEntry s 1) 1 (fedCtx tSurv i h1) physBody = 0 ∧
    createdBase (dropEntry s 1) 1 (createdObj (dropEntry s 1) 1 (fedCtx tSurv i h1) physBody) = some 0x2C00000 ∧
    createRoom (dropEntry s 1) 1 physBody (createdObj (dropEntry s 1) 1 (fedCtx tSurv i h1) physBody) = true := by decide +kernel

/-- The package with the object `o` in which context 0's ring holds a command, and that package once its entry has left the ring. -/
def oFed (o : Obj) (i : Instr) : State := fed (oState o) i h0
def oRan (o : Obj) (i : Instr) : State := dropEntry (oFed o i) 0
abbrev ObjTakes (o : Obj) (i : Instr) : Prop := CtxTakes (oFed o i) i h0 (fedCtx tCtx i h0)
/-- The package after a command. -/
def after (i : Instr) (s : State) : State :=
  match exec i s with
  | .next t => t
  | _ => s

theorem witness_object_copies :
    (let i := Instr.objectWrite h0 5 19996 0x5000 4 (some [1, 2, 3, 4])
     ObjTakes oObj i ∧ hostHeld (oFed oObj i) 0 = false ∧ writeHeld (oFed oObj i) 0 5 = false ∧
     copyCheck (oFed oObj i) 0 5 19996 4 1 = .ok (5, oObj)) ∧
    (let i := Instr.objectWrite h0 5 16382 0x5000 4 (some [1, 2, 3, 4])
     ObjTakes rObj i ∧ hostHeld (oFed rObj i) 0 = false ∧ writeHeld (oFed rObj i) 0 5 = false ∧
     copyCheck (oFed rObj i) 0 5 16382 4 1 = .ok (5, rObj) ∧ inArchive rObj = true) ∧
    (let i := Instr.objectRead h0 5 0 0x5000 20000
     ObjTakes oObj i ∧ copyCheck (oRan oObj i) 0 5 0 20000 0 = .ok (5, oObj)) := by decide +kernel

/-- A grant that is new, and one that takes the write right of the grantee away. -/
theorem witness_object_grants :
    (let i := Instr.objectGrant h0 5 1 7
     ObjTakes oObj i ∧ objNamed (oRan oObj i) 0 5 = some (5, oObj) ∧ objSlot oObj 1 = none ∧ freeSlot (oRan oObj i) 1 = some 0 ∧
     (ctxOf (oRan oObj i) 1).isSome = true ∧ ready (oRan oObj i) 0 = true) ∧
    (let i := Instr.objectGrant h0 5 1 1
     let o := { oObj with grants := [⟨1, 0, 7⟩] }
     ObjTakes o i ∧ objNamed (oRan o i) 0 5 = some (5, o) ∧ objSlot o 1 = some 0 ∧
     o.grants.find? (fun e => e.ctx == 1) = some ⟨1, 0, 7⟩ ∧ (ctxOf (oRan o i) 1).isSome = true ∧ ready (oRan o i) 0 = true) := by decide +kernel

theorem witness_object_commands :
    (let i := Instr.objectDestroy h0 5
     ObjTakes oObj i ∧ ownObj (oRan oObj i) 0 5 = .ok (5, oObj) ∧ reachable (oRan oObj i) oObj = true) ∧
    (let i := Instr.objectRevoke h0 5 1
     ObjTakes oObj i ∧ ownObj (oRan oObj i) 0 5 = .ok (5, oObj) ∧ ready (oRan oObj i) 0 = true) ∧
    (let i := Instr.objectQuery h0 5
     ObjTakes oObj i ∧ cmdObj (oRan oObj i) 0 5 3 = .ok (5, oObj) ∧ ready (oRan oObj i) 0 = true) ∧
    (let i := Instr.objectFlush h0 5
     ObjTakes oObj i ∧ cmdObj (oRan oObj i) 0 5 1 = .ok (5, oObj) ∧ ready (oRan oObj i) 0 = true ∧ oObj.rest ≠ .archive ∧
     ObjTakes rObj i ∧ cmdObj (oRan rObj i) 0 5 1 = .ok (5, rObj) ∧ rObj.rest = .archive ∧ mounted (oRan rObj i) 1 = true ∧
     canTake (cadOf (oRan rObj i) 1) rObj.dirty.length = true) := by decide +kernel

/-- A write across the page boundary of an Archive object opens one commit group of two pages. -/
theorem test_archive_write :
    let i := Instr.objectWrite h0 5 16382 0x5000 4 (some [1, 2, 3, 4])
    ((cadOf (after i (oFed rObj i)) 1).groups.map fun g => g.pages.map (·.lpn)) = [[100, 101]] := by decide +kernel

theorem test_object_write :
    let i := Instr.objectWrite h0 5 2 0x5000 2 (some [5, 6])
    rdObj (after i (oFed oObj i)) 5 0 4 = some [77, 0, 5, 6] := by decide +kernel

/-! Claims and moves -/

def cObj : Obj := { rObj with claims := [⟨0, .main, 500, 2, false, false⟩] }
def moving (o : Obj) (m : Move) : State := { oState o with plats := tput (oState o).plats 1 { tPlat with moves := [m] } }

theorem witness_place_evict :
    (let i := Instr.place h0 5 1 500 3
     ObjTakes rObj i ∧ cmdObj (oRan rObj i) 0 5 3 = .ok (5, rObj) ∧
     placeStatus (oRan rObj i) (fedCtx tCtx i h0) 5 rObj (((resolve (oRan rObj i) 0 5).map fun e => hasRight e.2 2).getD false) 1 3 = 0) ∧
    (let i := Instr.evict h0 5
     ObjTakes rObj i ∧ cmdObj (oRan rObj i) 0 5 3 = .ok (5, rObj) ∧ ready (oRan rObj i) 1 = true) := by decide +kernel

/-- A unit of a move up, a unit of a move down, the end of a move, and a claim that is late. -/
theorem witness_moves :
    (platOf (moving cObj ⟨5, .main, 2, 1⟩) 1).moves = ⟨5, .main, 2, 1⟩ :: [] ∧ tget (moving cObj ⟨5, .main, 2, 1⟩).objs 5 = some cObj ∧
    ready (moving cObj ⟨5, .main, 2, 1⟩) 1 = true ∧ cObj.present = .archive ∧ mounted (moving cObj ⟨5, .main, 2, 1⟩) 1 = true ∧
    (platOf (moving { oObj with home := 1 } ⟨5, .main, 2, 0⟩) 1).moves = ⟨5, .main, 2, 0⟩ :: [] ∧
    tget (moving { oObj with home := 1 } ⟨5, .main, 2, 0⟩).objs 5 = some { oObj with home := 1 } ∧ oObj.present ≠ .archive ∧
    ready (moving { oObj with home := 1 } ⟨5, .main, 2, 0⟩) 1 = true ∧ Tier.main ≠ ({ oObj with home := 1 } : Obj).rest ∧
    (platOf (moving cObj ⟨5, .main, 2, 2⟩) 1).moves = ⟨5, .main, 2, 2⟩ :: [] ∧ (Tier.main ≠ cObj.rest) ∧
    tget (moving cObj ⟨5, .main, 2, 2⟩).objs 5 = some cObj ∧ ready (moving cObj ⟨5, .main, 2, 2⟩) 1 = true ∧
    resolve (oState cObj) 0 5 = some (5, 7) ∧ tget (oState cObj).objs 5 = some cObj ∧
    cObj.claims.find? (fun q => q.ctx == 0) = some ⟨0, .main, 500, 2, false, false⟩ ∧ (500 : Nat) ≤ (oState cObj).sup.now := by decide +kernel

/-- Units of a move back to REST, Archive or Main, and its end. -/
def backObj (rest : Tier) : Obj := { oObj with home := 1, site := none, rest := rest, present := .main, lpns := [100, 101] }

theorem witness_moves_back :
    (platOf (moving (backObj .archive) ⟨5, .archive, 1, 0⟩) 1).moves = [⟨5, .archive, 1, 0⟩] ∧
    tget (moving (backObj .archive) ⟨5, .archive, 1, 0⟩).objs 5 = some (backObj .archive) ∧ (backObj .archive).present ≠ .archive ∧
    ready (moving (backObj .archive) ⟨5, .archive, 1, 0⟩) 1 = true ∧
    (platOf (moving (backObj .main) ⟨5, .main, 1, 0⟩) 1).moves = [⟨5, .main, 1, 0⟩] ∧
    tget (moving (backObj .main) ⟨5, .main, 1, 0⟩).objs 5 = some (backObj .main) ∧ (backObj .main).present ≠ .archive ∧
    tget (moving (backObj .archive) ⟨5, .archive, 1, 1⟩).objs 5 = some (backObj .archive) ∧ (backObj .archive).dirty = [] ∧
    writingBack (moving (backObj .archive) ⟨5, .archive, 1, 1⟩) 1 5 = false ∧ legHolds (moving (backObj .archive) ⟨5, .archive, 1, 1⟩) 5 = false := by
  decide +kernel

/-- A move that ends signals the DONE Stake of the claim that it meets. -/
theorem test_move_signals :
    (ctxOf (moveComplete (moving cObj ⟨5, .main, 2, 2⟩) 1) 0).map (·.stakes) = some [7, 0, 1, 0] ∧
    (ctxOf (moveComplete (moving cObj ⟨5, .main, 2, 1⟩) 1) 0).map (·.stakes) = some [7, 0, 0, 0] := by
  decide +kernel

/-! The Cadastre -/

def cGroup : Group := { id := 3, pages := [⟨100, 0xFFFF, false, [(0, 9)]⟩], use := .writeBack 5 }
def tCad : Cad := { st := 2, blocks := [(0, { st := .data, used := 8, erases := 1 })], open_ := some 0, groups := [cGroup], group := 4, seq := 50 }
def withCad (c : Cad) : State := { demo with cads := tput demo.cads 1 c }
def tPhys (lpn : Nat) : PhysPage := ⟨lpn, 0xFFFF, false, 10, 1, [(0, 5)], false⟩
def mapped : Cad := { tCad with map := [(7, 4)], pages := [(4, tPhys 7)] }

def late : State := { withCad { commits := true, st := 2 } with sup := { demo.sup with now := 31000000000 } }

theorem witness_program :
    mounted (withCad tCad) 1 = true ∧ quiescing (withCad tCad) 1 = false ∧ tCad = openBlock (cadOf (withCad tCad) 1) ∧ tCad.groups.find? (fun e => e.id == 3) = some cGroup ∧
    tCad.open_ = some 0 ∧ cGroup.ppns.length < cGroup.pages.length := by decide +kernel

theorem witness_commit :
    (cadOf (withCad { tCad with groups := [{ cGroup with ppns := [8] }] }) 1).groups = { cGroup with ppns := [8] } :: [] ∧
    mounted (withCad { tCad with groups := [{ cGroup with ppns := [8] }] }) 1 = true ∧
    quiescing (withCad { tCad with groups := [{ cGroup with ppns := [8] }] }) 1 = false ∧
    ({ cGroup with ppns := [8] } : Group).ppns.length = cGroup.pages.length := by decide +kernel

theorem witness_cadastre_steps :
    (blkOf (cadOf (withCad { tCad with blocks := [(0, { st := .erasing })] }) 1) 0).st = .erasing ∧
    (blkOf (cadOf (withCad { tCad with blocks := [(0, { st := .suspended })] }) 1) 0).st = .suspended ∧
    mounted (withCad { tCad with refresh := [0] }) 1 = true ∧ 0 ∈ (cadOf (withCad { tCad with refresh := [0] }) 1).refresh ∧
    leastErased { mapped with blocks := [(0, { st := .data }), (1, { st := .data, erases := 300 })] } = some 0 ∧
    meanErases { mapped with blocks := [(0, { st := .data }), (1, { st := .data, erases := 300 })] } + 200 < 300 ∧
    tget (cadOf (withCad mapped) 1).map 7 = some 4 ∧ mounted (withCad mapped) 1 = true ∧ 7 ∉ (cadOf (withCad mapped) 1).lost ∧
    mapsBlock (cadOf (withCad mapped) 1) 0 = true ∧
    (cadOf late 1).commits = true ∧ (cadOf late 1).ckptAt + 30000000000 ≤ late.sup.now ∧ mounted late 1 = true ∧
    mounted (withCad { since := 1, ckptDue := true, st := 2 }) 1 = true ∧ (cadOf (withCad { since := 1, ckptDue := true, st := 2 }) 1).ckptDue = true ∧
    (1 : Nat) < nPlats demo ∧ ready (withCad { st := 1 }) 1 = true ∧ (cadOf (withCad { st := 1 }) 1).st = 1 ∧
    (blockLpns (cadOf (withCad mapped) 1) 0).filter (fun n => !(cadOf (withCad mapped) 1).lost.contains n) = [7] := by decide +kernel

/-- A quiesce of every Plat by a Surveyor, which waits for the word lines of Plat 1, and one by another context. -/
theorem witness_quiesce :
    (let i := Instr.cadastreQuiesce h1 255
     CtxTakes (fed demo i h1) i h1 (fedCtx tSurv i h1) ∧ (fedCtx tSurv i h1).surveyor = true ∧
     (∀ q ∈ List.range (nPlats (fed demo i h1)), mounted (fed demo i h1) q = true)) ∧
    (let i := Instr.cadastreQuiesce h0 7
     CtxTakes (fed demo i h0) i h0 (fedCtx tCtx i h0) ∧ (fedCtx tCtx i h0).surveyor = false) ∧
    quiescing { withCad tCad with ctxs := [(1, { tSurv with busy := some (.quiesce [1] 17 0) })] } 1 = true := by decide +kernel

/-- R340: a word line of one page programs it and three pad pages; R339: the map follows when the group is durable. -/
theorem test_program_and_commit :
    ((cadOf (nandProgramDone (withCad tCad) 1 3 true) 1).pages.map (·.2.lpn)) = [100, padLpn, padLpn, padLpn] ∧
    tget (cadOf (nandProgramDone (withCad tCad) 1 3 true) 1).map 100 = none ∧
    tget (cadOf (groupCommit (nandProgramDone (withCad tCad) 1 3 true) 1 3) 1).map 100 = some 8 := by decide +kernel

/-- R338: an erase that fails journals the block as retired with reason 2. -/
theorem test_erase_fails :
    (cadOf (eraseDone (withCad { tCad with blocks := [(0, { st := .erasing })] }) 1 0 false) 1).journal.map (fun r => (r.type, r.a, r.b)) =
      [(5, 0, 2)] := by decide +kernel

theorem witness_object_bytes : tget (oState oObj).objs 5 = some oObj ∧ oObj.present ≠ .archive := by decide +kernel

theorem witness_group_switch :
    exec (.nandProgramDone 1 3 true) (withCad tCad) = .next (nandProgramDone (withCad tCad) 1 3 true) ∧
    (∀ x ∈ cGroup.pages, x.lpn ≠ 7) ∧ (cGroup.pages.map GPage.lpn).Nodup ∧ cGroup.pages[0]? = some ⟨100, 0xFFFF, false, [(0, 9)]⟩ ∧
    ({ cGroup with ppns := [8] } : Group).ppns[0]? = some 8 := by
  refine ⟨rfl, ?_⟩
  decide +kernel

/-! ### Ports, Fibres and Pins -/

/-- A frame for this package that its port expects, and one for another node. -/
def tHdr : TieHdr := ⟨1, 0, 9, 5, 0, 0, 0, [], true, true⟩
def tFar : TieHdr := { tHdr with dst := 4 }
/-- A package with a landing of context 0's object 5, a route to node 9, an outlet with an unacknowledged transfer, a FAN_OUT. -/
def tieState : State :=
  { oState oObj with landings := [(3, ⟨0, 5, 2⟩)], tpt := { demo.tpt with routes := [(4, 0), (9, 0)], lastRec := 0 },
                     outlets := [(outletKey 0 1, { ctx := 0, obj := 5, node := 9, landing := 7, offset := 0, tag := 1,
                                                   unacked := [⟨0, 0, 0, 1, 0, 900000000⟩] })],
                     travs := [(0, runningTrav fanLegOf)], fans := [{ tFan [0] with nodes := [(0, 9)] }] }
def tieAt (x : TiePort) : State := { demo with ties := [(0, x)] }

/-- In sequence, with a bad CRC, with a failed tag, ahead of the sequence, and taken before. -/
theorem witness_take_frame :
    (0 : Nat) < nTie tieState ∧ (tieOf tieState 0).st = .active ∧ tHdr.crcOk = true ∧ tHdr.tagOk = true ∧ tHdr.lseq = (tieOf tieState 0).rxSeq ∧
    ({ tHdr with crcOk := false } : TieHdr).crcOk = false ∧ ({ tHdr with tagOk := false } : TieHdr).tagOk = false ∧
    ({ tHdr with lseq := 1 } : TieHdr).lseq ≠ (tieOf tieState 0).rxSeq ∧ sub32 1 (tieOf tieState 0).rxSeq < 2147483648 ∧
    2147483648 ≤ sub32 max32 (tieOf tieState 0).rxSeq := by decide +kernel

/-- R372: a corrupt frame is answered by a NAK of the LSEQ expected, each time it comes; R370: what is sent carries the Epoch. -/
theorem test_nak :
    let s := { demo with ties := [(0, { st := .active, credits := [64, 0, 0, 0] })], plats := tput demo.plats 0 { tPlat with epoch := 0x105 } }
    let s := (takeFrame s 0 { tHdr with crcOk := false } 1 4).1
    ((takeFrame s 0 { tHdr with crcOk := false } 1 4).1.out.map fun o => match o with
      | .tie _ f => (f.type, f.epoch)
      | _ => (0, 0)) = [(2, 5), (2, 5)] := by decide +kernel

theorem witness_tie_messages :
    forUs tieState tHdr = true ∧ (takeFrame tieState 0 tHdr 1 4).2 = true ∧
    tget (takeFrame tieState 0 tHdr 1 4).1.landings 3 = some ⟨0, 5, 2⟩ ∧ objOf (takeFrame tieState 0 tHdr 1 4).1 0 5 = some oObj ∧
    ready (takeFrame tieState 0 tHdr 1 4).1 0 = true ∧ inArchive oObj = false ∧ 19996 + 4 ≤ oObj.length ∧
    (takeFrame tieState 0 tHdr 3 0).2 = true ∧ (takeFrame tieState 0 tHdr 2 64).2 = true ∧ (takeFrame tieState 0 tHdr 3 152).2 = true ∧
    (takeFrame tieState 0 tHdr 3 152).1.fans.find? (fun f => f.id == 0 / 256 && fanWaits (takeFrame tieState 0 tHdr 3 152).1 f &&
      f.missing.contains (0 % 256) && f.nodes.contains (0 % 256, tHdr.src)) = some { tFan [0] with nodes := [(0, 9)] } ∧
    forUs tieState tFar = false ∧ tFar.dst ≠ 0xFF ∧ typeClass 0x20 = some 2 ∧ (takeFrame tieState 0 tFar 2 64).2 = true ∧
    typeClass 0x7F = none ∧ typeKnown 0x7F = false := by decide +kernel

/-- R377: an acknowledgement ends the wait for its transfer. -/
theorem test_bulk_ack :
    (tget (bulkAck tieState 0 tHdr 7 0).outlets (outletKey 0 1)).map (·.unacked) = some [] ∧
    (bulkAck tieState 0 tHdr 7 1).tpt.lateAcks = 1 := by decide +kernel

/-- R375, R376: a single-frame transfer writes its bytes and raises the landing's Stake. -/
theorem test_bulk_write :
    rdObj (bulkWrite tieState 0 tHdr 3 true true 8 19996 [1, 2, 3, 4] false) 5 19995 5 = some [0, 1, 2, 3, 4] ∧
    (ctxOf (bulkWrite tieState 0 tHdr 3 true true 8 19996 [1, 2, 3, 4] false) 0).map (·.stakes) = some [7, 0, 1, 0] := by decide +kernel

theorem witness_tie_control :
    (0 : Nat) < nTie demo ∧ tHdr.crcOk = true ∧ (tieOf demo 0).st = .active ∧ (9 : Nat) ≠ ownNode (gotControl demo 0 tHdr 16) ∧
    tget (gotControl demo 0 tHdr 16).tpt.records 9 = none ∧
    (tieOf (tieAt { st := .hello }) 0).st = .hello ∧ (tieOf (tieAt { st := .auth }) 0).st = .auth ∧ (platOf demo 0).switching = false ∧
    demo.mon.running = true := by decide +kernel

theorem witness_tie_timers :
    tget tieState.outlets (outletKey 0 1) = some { ctx := 0, obj := 5, node := 9, landing := 7, offset := 0, tag := 1,
                                                   unacked := [⟨0, 0, 0, 1, 0, 900000000⟩] } ∧
    tieState.loose = [] ∧ ({ tieState with loose := [⟨outletKey 0 1, 9, 7, ⟨0, 0, 0, 1, 0, 900000000⟩⟩] } : State).loose.find?
      (fun y => y.outlet == outletKey 0 1 && y.sent.tag == 0) = some ⟨outletKey 0 1, 9, 7, ⟨0, 0, 0, 1, 0, 900000000⟩⟩ ∧
    (900000000 : Nat) ≤ tieState.sup.now ∧ tieState.sup.running = true ∧ tieState.tpt.lastRec + 100000000 ≤ tieState.sup.now ∧
    (tieOf (tieAt { st := .active, replay := [{ type := 0x11, cls := 3, dst := 9, src := 0, hops := 63 }] }) 0).replay ≠ [] ∧
    tieAllowed (tieAt {}) 0 = true ∧ (tieOf (tieAt {}) 0).retryAt = none ∧ (tieOf demo 0).st ≠ .down ∧
    (tieOf (tieAt { st := .refused, retryAt := some 5 }) 0).retryAt = some 5 ∧
    tieAllowed (tieAt { retryAt := some 5 }) 0 = true ∧ (tieOf (tieAt { retryAt := some 5 }) 0).st = .down := by decide +kernel

/-- A command of context 0 on that package, and the package once its entry has left the ring. -/
abbrev TieTakes (i : Instr) : Prop := CtxTakes (fed tieState i h0) i h0 (fedCtx tCtx i h0)
def tieRan (i : Instr) : State := dropEntry (fed tieState i h0) 0

theorem witness_landings_and_outlets :
    (let i := Instr.landingBind h0 4 5 3
     TieTakes i ∧ tget (tieRan i).landings 4 = none ∧ ownAbove (tieRan i) 0 5 = some oObj ∧
     refField (fedCtx tCtx i h0) 3 = 0 ∧ refRight (fedCtx tCtx i h0) 3 true = 0) ∧
    (let i := Instr.landingUnbind h0 3
     TieTakes i ∧ tget (tieRan i).landings 3 = some ⟨0, 5, 2⟩) ∧
    (let i := Instr.outletBind h0 5 63 255 281474976710655
     TieTakes i ∧ ownAbove (tieRan i) 0 5 = some oObj ∧ lowestFree (tieRan i).outlets (outletKey 0 0) 64 = some 0) ∧
    (let i := Instr.outletUnbind h0 1
     TieTakes i ∧ (tget (tieRan i).outlets (outletKey 0 1)).isSome = true) := by decide +kernel

def portAt (x : Port) : State := { demo with ports := [(0, x)] }

theorem witness_host_port_steps :
    (0 : Nat) < nHost demo ∧ hostAllowed (portAt { tPort with link := 0 }) 0 = true ∧ (portOf (portAt { tPort with link := 0 }) 0).link = 0 ∧
    (portOf (portAt { tPort with link := 4 }) 0).link = 4 ∧ (portOf (portAt { tPort with link := 1 }) 0).link = 1 ∧
    hostAllowed (portAt { tPort with link := 2 }) 0 = true ∧ (portOf (portAt { tPort with link := 2 }) 0).link = 2 ∧
    (portOf (portAt { tPort with link := 2 }) 0).levelAt + 100000000 ≤ demo.sup.now ∧
    (portOf demo 0).link = 3 ∧ 4 ∈ (portOf demo 0).good ∧ (portOf demo 0).link ≠ 0 ∧
    (portOf (portAt { tPort with down := some ⟨5, 100, some 6⟩ }) 0).down = some ⟨5, 100, some 6⟩ ∧
    linkUp (portAt { tPort with down := some ⟨5, 100, some 6⟩ }) 0 = true ∧
    (portOf (portAt { tPort with link := 0, down := some ⟨5, 100, none⟩ }) 0).down = some ⟨5, 100, none⟩ ∧
    (5 : Nat) + 100 * 1000000 ≤ demo.sup.now ∧ vfCtx demo 0 1 = some (1, tSurv) ∧ vfCtx demo 0 2 = none ∧ linkUp demo 0 = true ∧
    fnExists (.vf 63) = true := by decide +kernel

/-- What a run receives on a Host Port's five lanes: 16 errors on those of `near`, 17 on the others; the far end calls `far` good. -/
def lanesRx (near : List Nat) (far : Nat) : List LaneRx :=
  (List.range 5).map fun i => ⟨if near.contains i then 16 else 17, some (laneWord 1 i far)⟩

/-- R352, R366: a lane counts when both ends call it good; two or three carry x2, four x4, one does not train. -/
theorem test_lanes :
    (portOf (levelRunDone (portAt { tPort with link := 1 }) (.host 0) (lanesRx [0, 1, 3] 0x1E)) 0).width = 2 ∧
    (portOf (levelRunDone (portAt { tPort with link := 1 }) (.host 0) (lanesRx [0, 1, 2, 3] 0x1F)) 0).width = 4 ∧
    (portOf (levelRunDone (portAt { tPort with link := 1 }) (.host 0) (lanesRx [0, 1, 2, 3] 0x10)) 0).link = 0 ∧
    goodLanes (.host 0) true (lanesRx [0, 1, 2, 3] 0x1F) = [] := by decide +kernel

theorem witness_host_functions :
    (0 : Nat) < nHost demo ∧ linkUp demo 0 = true ∧ fnExists .pf = true ∧ (7 : Nat) < vectors .pf ∧ (64 : Nat) ≤ 64 ∧ swept demo (.admin 0) = true ∧
    ringPort demo (.admin 0) = 0 ∧ fnExists (.vf 63) = true ∧ (6 : Nat) < vectors (.vf 63) := by decide +kernel

theorem witness_tie_level_runs :
    (tieOf (tieAt { st := .levelRun }) 0).st = .levelRun ∧ (tieOf (tieAt { st := .recovery }) 0).st = .recovery ∧
    2 ∈ (tieOf demo 0).good := by decide +kernel

/-! ### The Monument -/

/-- An authorisation object of context 0 for the Holding named 33; `authOf` is its AUTH_VALUE. -/
def authObj : Nat × Obj := tObj 6 64 [(0, 8, 33), (8, 4, 0x01020304)]
def authOf : Bytes := [4, 3, 2, 1] ++ List.replicate 28 0
def holdingState (l : Tbl Holding) : State := { demo with objs := [authObj], mon := { demo.mon with holdings := l } }
/-- The Holding whose AUTH_VALUE the object holds, and one whose value it does not hold; nothing below computes their MACs. -/
def rightOne (fails : Nat) : Holding := { name := 33, mac := authMac demo authOf, fails := fails }
def wrongOne : Holding := { name := 33, mac := authMac demo authOf ++ [1] }

def attachCmd (create : Bool) : Instr := .holdingAttach h0 33 6 create
/-- The package with Holdings in which the attach is the next command, and that package once its entry has left the ring. -/
abbrev attachTakes (l : Tbl Holding) (create : Bool) : Prop :=
  CtxTakes (fed (holdingState l) (attachCmd create) h0) (attachCmd create) h0 (fedCtx tCtx (attachCmd create) h0)
def attaching (l : Tbl Holding) (create : Bool) : State := dropEntry (fed (holdingState l) (attachCmd create) h0) 0

theorem witness_holding_create :
    attachTakes [] true ∧ (platOf (attaching [] true) 0).switching = false ∧ mounted (attaching [] true) 0 = true ∧
    authValue (attaching [] true) 0 6 33 = some authOf ∧ (∀ e ∈ (attaching [] true).mon.holdings, e.2.name ≠ 33) ∧
    lowestFree (attaching [] true).mon.holdings 0 256 = some 0 := by decide +kernel

theorem authMac_eq {s t : State} (h : s.mon.keys.storage = t.mon.keys.storage) (v : Bytes) : authMac s v = authMac t v := by
  unfold authMac
  rw [h]

theorem rightOne_mac (n : Nat) : (rightOne n).mac = authMac demo authOf := by
  simp only [rightOne]

theorem attaching_storage (l : Tbl Holding) : (attaching l false).mon.keys.storage = demo.mon.keys.storage := rfl
theorem attaching_holdings (l : Tbl Holding) : (attaching l false).mon.holdings = l := rfl

theorem witness_holding_attach :
    attachTakes [(3, rightOne 15)] false ∧ mounted (attaching [(3, rightOne 15)] false) 0 = true ∧
    authValue (attaching [(3, rightOne 15)] false) 0 6 33 = some authOf ∧
    (rightOne 15).mac = authMac (attaching [(3, rightOne 15)] false) authOf ∧
    (attaching [(3, rightOne 15)] false).mon.holdings.find? (fun e => e.2.name == 33) = some (3, rightOne 15) ∧
    (rightOne 15).ctx = none ∧ (rightOne 15).fails < 16 ∧
    (attaching [(3, rightOne 16)] false).mon.holdings.find? (fun e => e.2.name == 33) = some (3, rightOne 16) ∧
    16 ≤ (rightOne 16).fails := by
  refine ⟨by decide +kernel, by decide +kernel, by decide +kernel, ?_, ?_, rfl, by decide, ?_, by decide⟩
  · exact (rightOne_mac 15).trans (authMac_eq (attaching_storage _).symm authOf)
  · rw [attaching_holdings]
    rfl
  · rw [attaching_holdings]
    rfl

theorem witness_holding_refused :
    attachTakes [(3, wrongOne)] false ∧ mounted (attaching [(3, wrongOne)] false) 0 = true ∧ wrongOne.fails < 16 ∧
    (attaching [(3, wrongOne)] false).mon.holdings.find? (fun e => e.2.name == 33) = some (3, wrongOne) ∧
    (∀ v, authValue (attaching [(3, wrongOne)] false) 0 6 33 = some v → authMac (attaching [(3, wrongOne)] false) v ≠ wrongOne.mac) := by
  refine ⟨by decide +kernel, by decide +kernel, by decide +kernel, rfl, ?_⟩
  intro v h e
  have h' : authValue (attaching [(3, wrongOne)] false) 0 6 33 = some authOf := by decide +kernel
  rw [h'] at h
  cases h
  have e' : authMac demo authOf = authMac demo authOf ++ [1] := e
  have := congrArg List.length e'
  simp only [List.length_append, List.length_cons, List.length_nil] at this
  omega

theorem witness_holding_detach :
    let i := Instr.holdingDetach h0 3
    let s := fed (holdingState [(3, { name := 33, mac := [], ctx := some 0 })]) i h0
    CtxTakes s i h0 (fedCtx tCtx i h0) ∧ holds (dropEntry s 0) 0 3 = true := by decide +kernel

/-- A manifest of an image of two Parcels for every variant, which names this package's DeviceID key, and its Parcel 1. -/
def tManifest : Bytes :=
  overlay (blob 8192 [(0, 4, 0x54534E4D), (4, 2, 1), (6, 2, 1), (8, 8, 9), (0x10, 4, 2), (0x14, 4, 100), (0x18, 1, 3), (0x19, 1, 1), (0x1C, 4, 7)])
    0x90 (sha384 [])
def uImage : Image := { id := 9, parcels := 2, lastLen := 100, svn := 3, rolling := true, epoch := 1 }
def tParcel : Bytes := blob 180 [(0, 4, 0x4C435250), (4, 4, 1), (8, 8, 9), (0x10, 4, 100)]
def updState (u : Upd) (i : Option Image) (l : Tbl Bytes) : State :=
  { demo with mon := { demo.mon with upd := u, staged := i, parcels := l, slotB := i } }

/-- A Surveyor's command on a package whose image `i` is in the update state `u`: it is taken, and its checks pass. -/
def updFed (u : Upd) (i : Option Image) (l : Tbl Bytes) (c : Instr) : State := fed (updState u i l) c h1
def updRan (u : Upd) (i : Option Image) (l : Tbl Bytes) (c : Instr) : State := dropEntry (updFed u i l c) 1
abbrev UpdTakes (u : Upd) (i : Option Image) (l : Tbl Bytes) (c : Instr) : Prop :=
  CtxTakes (updFed u i l c) c h1 (fedCtx tSurv c h1) ∧ hostHeld (updFed u i l c) 1 = false ∧ updateCheck (updRan u i l c) (fedCtx tSurv c h1) = 0

/-- The secret of the exchange, the key it gives, and the manifest with an image key wrapped under it. -/
def tSecret : Bytes := List.replicate 80 0
def tKek : Bytes := hkdf384 ((tManifest.drop 8).take 8) tSecret ("VLH image key".toList.map fun c => BitVec.ofNat 8 c.toNat) 32
def keyManifest : Bytes := overlay tManifest 0x788 (wrapKey tKek (List.replicate 32 7))
def beginCmd (signed : Bool) : Instr := .updateBegin h1 false (some keyManifest) ⟨signed, tSecret⟩

set_option maxRecDepth 40000 in
theorem tManifest_length : tManifest.length = 8192 := by decide +kernel

theorem tWrap_length : (wrapKey tKek (List.replicate 32 7)).length = 40 :=
  Laws.wrapKey_length _ _ 4 (Laws.hkdf384_length ..) (by decide) List.length_replicate

/-- Below its wrapped key the manifest is as before. -/
theorem keyManifest_front (o n : Nat) (h : o + n ≤ 0x788) : (keyManifest.drop o).take n = (tManifest.drop o).take n := by
  have l : (tManifest.take 0x788).length = 0x788 := by rw [List.length_take, tManifest_length]; rfl
  unfold keyManifest overlay
  rw [List.append_assoc, List.drop_append_of_le_length (by omega), List.take_append_of_le_length (by rw [List.length_drop]; omega),
    List.drop_take, List.take_take, Nat.min_eq_left (by omega)]

theorem witness_image_key : imageKey keyManifest tSecret = some (List.replicate 32 7) := by
  have l : (tManifest.take 0x788).length = 0x788 := by rw [List.length_take, tManifest_length]; rfl
  have w : (keyManifest.drop 0x788).take 40 = wrapKey tKek (List.replicate 32 7) := by
    unfold keyManifest overlay
    rw [List.append_assoc, List.drop_left' l, List.take_left' tWrap_length]
  unfold imageKey
  rw [keyManifest_front 8 8 (by decide), w]
  exact Laws.unwrapKey_wrapKey _ _ 4 (Laws.hkdf384_length ..) (by decide) List.length_replicate

set_option maxRecDepth 40000 in
theorem witness_update_begin (signed : Bool) :
    UpdTakes .empty none [] (beginCmd signed) ∧ (updRan .empty none [] (beginCmd signed)).mon.upd = .empty ∧
    (updRan .empty none [] (beginCmd signed)).mon.staged = none ∧ (updRan .empty none [] (beginCmd signed)).fuses.counter ≤ 3 ∧
    (updRan .empty none [] (beginCmd signed)).mon.keys.deviceId = [] := by
  cases signed <;> decide +kernel

set_option maxRecDepth 40000 in
theorem witness_manifest :
    fld tManifest 0 4 = 0x54534E4D ∧ fld tManifest 0x10 4 = 2 ∧ fld tManifest 0x14 4 = 100 ∧ fld tManifest 0x18 1 = 3 ∧
    bit (fld tManifest 0x1C 4) (targetBit .vlh8) = true ∧ (tManifest.drop 0x90).take 48 = sha384 [] ∧
    ((List.range 16).map fun i => fld tManifest (0x50 + 4 * i) 2) = List.replicate 16 0 := by decide +kernel

/-- What the checks of UPDATE_BEGIN read of the manifest lies before its wrapped key. -/
theorem witness_key_manifest :
    fld keyManifest 0 4 = 0x54534E4D ∧ (manifestImage keyManifest tSecret).parcels = 2 ∧ (manifestImage keyManifest tSecret).lastLen = 100 ∧
    (manifestImage keyManifest tSecret).svn = 3 ∧ bit (manifestImage keyManifest tSecret).target (targetBit .vlh8) = true ∧
    (keyManifest.drop 0x90).take 48 = sha384 [] := by
  have w := witness_manifest
  unfold manifestImage fld at *
  simp only [keyManifest_front _ _ (show 0 + 4 ≤ 0x788 by decide), keyManifest_front _ _ (show 0x10 + 4 ≤ 0x788 by decide),
    keyManifest_front _ _ (show 0x14 + 4 ≤ 0x788 by decide), keyManifest_front _ _ (show 0x18 + 1 ≤ 0x788 by decide),
    keyManifest_front _ _ (show 0x1C + 4 ≤ 0x788 by decide), keyManifest_front _ _ (show 0x90 + 48 ≤ 0x788 by decide)]
  exact ⟨w.1, w.2.1, w.2.2.1, w.2.2.2.1, w.2.2.2.2.1, w.2.2.2.2.2.1⟩

theorem witness_update_parcel :
    UpdTakes .receiving (some uImage) [] (.updateParcel h1 180 0 (some tParcel)) ∧
    UpdTakes .receiving (some uImage) [(1, [])] (.updateParcel h1 180 0 (some tParcel)) ∧ fld tParcel 4 4 = 1 ∧ fld tParcel 0 4 = 0x4C435250 ∧
    fld tParcel 8 8 = uImage.id ∧ fld tParcel 0x10 4 = parcelLen uImage 1 ∧ 180 = 80 + parcelLen uImage 1 ∧
    tget (updRan .receiving (some uImage) [] (.updateParcel h1 180 0 (some tParcel))).mon.parcels 1 = none ∧
    (tget (updRan .receiving (some uImage) [(1, [])] (.updateParcel h1 180 0 (some tParcel))).mon.parcels 1).isSome = true := by decide +kernel

theorem witness_update_commands :
    UpdTakes .complete (some uImage) [] (.updateStatus h1) ∧ UpdTakes .complete (some uImage) [] (.updateArm h1 9 true) ∧
    UpdTakes .complete (some uImage) [] (.updateArm h1 9 false) ∧ UpdTakes .armed (some uImage) [] (.updateAbandon h1 9) ∧
    UpdTakes .armed (some uImage) [] (.updateActivate h1 9) ∧
    (updRan .complete (some uImage) [] (.updateArm h1 9 true)).fuses.counter ≤ uImage.svn ∧
    activateCheck (updRan .armed (some uImage) [] (.updateActivate h1 9)) uImage = 0 := by decide +kernel

/-- R403: a full-image pass over Parcels without plaintext, whose image names the right digest, or another. -/
def passing (digest : Bytes) : State := updState .receiving (some { uImage with digest := digest }) [(0, []), (1, [])]

theorem witness_update_end :
    (passing []).mon.upd = .receiving ∧ (passing []).mon.parcels.length = uImage.parcels ∧
    sha384 (imagePlain (passing (sha384 [])) { uImage with digest := sha384 [] }) = sha384 [] ∧
    sha384 (imagePlain (passing []) { uImage with digest := [] }) ≠ [] := by
  refine ⟨rfl, rfl, rfl, ?_⟩
  decide +kernel

/-- R402: a Parcel already held completes at once and stores nothing; R406: an image that is no ROLLING image is refused. -/
theorem test_update :
    (updateParcel h1 180 (some tParcel) (updState .receiving (some uImage) [(1, [])]) tSurv).later = false ∧
    activateCheck (updState .armed (some uImage) []) { uImage with rolling := false } = VERSION_REFUSED := by decide +kernel

/-- FIPS 180-4: the digest of "abc". -/
theorem test_sha384 :
    leNat (sha384 [0x61, 0x62, 0x63]).reverse =
      0xcb00753f45a35e8bb5a03d699ac65007272c32ab0eded1631a8b605a43ff5bed8086072ba1e7cc2358baeca134c825a7 := by decide +kernel

/-- A request of context `c` for a hash of `n` bytes, which has waited since `t`. -/
def hashReq (c n t : Nat) : EngReq := ⟨c, List.replicate n 0, .hash [] 0, t⟩

theorem witness_shared_engine :
    (engineOf { demo with mon := { demo.mon with hash := { cur := some (hashReq 0 4097 0) } } } .hash).cur = some (hashReq 0 4097 0) ∧
    4096 < (hashReq 0 4097 0).todo.length ∧
    (engineOf { demo with mon := { demo.mon with gcm := { cur := some (hashReq 0 4096 0) } } } .gcm).cur = some (hashReq 0 4096 0) ∧
    (hashReq 0 4096 0).todo.length ≤ 4096 := by
  refine ⟨rfl, ?_, rfl, ?_⟩
  · rw [show (hashReq 0 4097 0).todo = List.replicate 4097 0 from rfl, List.length_replicate]
    decide
  · rw [show (hashReq 0 4096 0).todo = List.replicate 4096 0 from rfl, List.length_replicate]

/-- R102: at a tie the lower context number is served. -/
theorem test_engine_tie : (serveNext [hashReq 5 10 7, hashReq 2 10 7, hashReq 1 10 8]).cur = some (hashReq 2 10 7) := by decide +kernel

def switchState (x : Plat) : State :=
  { updState .activating (some uImage) [] with mon := { (updState .activating (some uImage) []).mon with activation := some ⟨0, 5⟩ },
                                               plats := tput demo.plats 0 x }

theorem witness_activation :
    activating (switchState { tPlat with hold := true }) = some 0 ∧ (platOf (switchState { tPlat with hold := true }) 0).switching = false ∧
    platRuns (switchState { tPlat with hold := true }) 0 = false ∧ otherSlot (switchState tPlat).mon = some uImage ∧
    (platOf (switchState { tPlat with switching := true, checked := true }) 0).checked = true ∧
    ({ demo with mon := { demo.mon with fuseTo := some 3, burn := true } }).mon.burn = true ∧ demo.mon.lastBurn = none ∧
    (let i := Instr.fieldLock h1 0x4C4F434B
     CtxTakes (fed demo i h1) i h1 (fedCtx tSurv i h1) ∧ (platOf (fed demo i h1) 0).switching = false ∧
     (fedCtx tSurv i h1).surveyor = true) := by decide +kernel

/-- R409: Plat 0 runs the image and Plat 1 holds next. -/
theorem test_activated :
    (platOf (platActivated (switchState { tPlat with switching := true, checked := true }) 0) 0).imageId = 9 ∧
    activating (platActivated (switchState { tPlat with switching := true, checked := true }) 0) = some 1 := by decide +kernel

def spdmState : State :=
  { withCtx { tCtx with busy := none } with
    mon := { demo.mon with sessions := [{ id := 4, resp := .doePf 0, finished := true }], nextSess := 5 },
    ports := [(0, { tPort with ide := [(2, { selective := some (.vf 0), secure := true })] })] }

def spdmCmd : Instr := .spdmExchange h0 65536 0x5000 (some [0x12, 0x84, 0, 0])

theorem witness_spdm :
    answers spdmState (.doePf 0) = true ∧ answers spdmState (.ring 0) = true ∧ rowAnswered spdmState (.doePf 0) 3 = true ∧
    rowAnswered spdmState (.ring 0) 3 = false ∧
    ctxOf (fed spdmState spdmCmd h0) 0 = some (fedCtx tCtx spdmCmd h0) ∧ takes (fed spdmState spdmCmd h0) (fedCtx tCtx spdmCmd h0) = true ∧
    fronts (fedCtx tCtx spdmCmd h0).ring spdmCmd h0.tag h0.flags = true ∧ (platOf (fed spdmState spdmCmd h0) 0).switching = false ∧
    hostHeld (fed spdmState spdmCmd h0) 0 = false ∧ terminal spdmState = false ∧ hasSession spdmState (.doePf 0) 4 true = true ∧
    tget (portOf spdmState 0).ide 2 = some { selective := some (.vf 0), secure := true } ∧
    (sessionsOf spdmState (.doePf 0)).length < sessionLimit (.doePf 0) ∧
    sessionLimit (.tieAuth 0) ≤ (sessionsOf { spdmState with mon := { demo.mon with sessions := [{ id := 1, resp := .tieAuth 0 }] } } (.tieAuth 0)).length := by
  decide +kernel

/-- R395: the TDI of VF 0 locks; the Surveyor's VF 1 does not. -/
theorem test_lock :
    (lockInterface 0 4 0 spdmState).2 = .tdisp 3 [] ∧ (lockInterface 0 4 1 spdmState).2 = .tdispError := by decide +kernel

/-! ### Scheduling, periods and rings -/

/-- Leg 1, as `g`, of Traverse 0 is in the state `x`. -/
def legState (g : Leg) (x : LegRun) : State :=
  { demo with travs := [(0, { runningTrav g with run := some { legs := [{ st := .done 0 }, x] } })] }
def readyLeg (desc : Nat) : State := legState (mkLeg 2 0 desc []) { st := .ready 5 }
def readyRun : Run := { legs := [{ st := .done 0 }, { st := .ready 5 }] }
def dropped : State :=
  { readyLeg 0 with ctxs := [(0, { tCtx with crew := [⟨0, none, false⟩] })] }
/-- A Leg on a camera's view that holds no frame. -/
def noFrame : State := { withCams (tCam 0 20) (tCam 1 21) with travs := (readyLeg 20).travs }

theorem witness_dispatch :
    travOf (readyLeg 0) 0 0 = some { runningTrav (mkLeg 2 0 0 []) with run := some readyRun } ∧
    legOf (readyLeg 0) tLeg = some (mkLeg 2 0 0 []) ∧ runOf (readyLeg 0) tLeg = some { st := .ready 5 } ∧
    crewSlot (readyLeg 0) 0 0 = some ⟨0, some 0, false⟩ ∧ dispatchOn (readyLeg 0) 0 = true ∧
    inTime (readyLeg 0) tLeg = true ∧ inTime noFrame tLeg = true ∧ inTime dropped tLeg = true ∧ ready (readyLeg 0) 0 = true ∧
    (platOf (readyLeg 0) 0).hold = false ∧ stationHeld (readyLeg 0) 0 0 = false ∧ engineBusy (readyLeg 0) tLeg (mkLeg 2 0 0 []) = false ∧
    firstReady (readyLeg 0) tLeg (mkLeg 2 0 0 []) 5 = true ∧
    accessTest (readyLeg 0) (whoOf (readyLeg 0) tLeg) (mkLeg 2 0 0 []) = 0 ∧
    (bindViews (readyLeg 0) (whoOf (readyLeg 0) tLeg) (mkLeg 2 0 0 [])).isSome = true ∧
    accessTest (readyLeg 99) (whoOf (readyLeg 99) tLeg) (mkLeg 2 0 99 []) ≠ 0 ∧
    accessTest noFrame (whoOf noFrame tLeg) (mkLeg 2 0 20 []) = 0 ∧ (bindViews noFrame (whoOf noFrame tLeg) (mkLeg 2 0 20 [])).isNone = true ∧
    crewSlot dropped 0 0 = some ⟨0, none, false⟩ ∧ dispatchOn dropped 0 = true := by decide +kernel

/-- R45, R77: a ready Leg of an unmapped index is dropped, and the summary of its run counts one drop and one success. -/
theorem test_dropped :
    ((ctxOf (legDispatch dropped tLeg) 0).map fun x => x.queue.any fun r => match r with
      | .cq r => r.kind == 3 && r.status == DROPPED_LATE && r.tier == 1 && r.leg == 1
      | .ev _ => false) = some true := by decide +kernel

/-- R63, R65, R76, R105: the next nanosecond writes it, the first entry of the Completion Ring, with PHASE 1 in its last byte. -/
theorem test_written :
    (match step (legDispatch dropped tLeg) with
      | .next t => t.out.any fun o => match o with
        | .cq 0 0x20000 d _ => d.length == 32 && (d.drop 30) == [0, 0x80] && (d.drop 6).head? == some 3
        | _ => false
      | _ => false) = true := by decide +kernel

def aborting : Ending := { run := { legs := [{ st := .done 0 }, { st := .aborting }] }, at_ := 999000000, stop := true }
def abortState : State :=
  { demo with travs := [(0, { runningTrav (mkLeg 0 0 0 []) with run := none, ending := [aborting] })] }

theorem witness_leg_ends :
    legOf (running (mkLeg 7 0 0 []) []) tLeg = some (mkLeg 7 0 0 []) ∧ legRuns (running (mkLeg 7 0 0 []) []) tLeg = true ∧
    (∀ n ∈ [0, 9], let g := { mkLeg 0 0 0 [] with stn := n }
      legOf (legState g { st := .running, at_ := 5 }) tLeg = some g ∧
      runOf (legState g { st := .running, at_ := 5 }) tLeg = some { st := .running, at_ := 5 } ∧ g.kind ≤ 5) ∧
    travOf abortState 0 0 = some { runningTrav (mkLeg 0 0 0 []) with run := none, ending := [aborting] } ∧
    splitEnding 1 [aborting] = some ([], aborting, []) := by decide +kernel

/-- A Leg of 1,000 cycles whose Station has issued 128,001 sixty-fourths of a cycle since it began is past twice its CYCLES; with 128,000
it is not. -/
def issuing (n stn : Nat) : State :=
  { legState { mkLeg 0 0 0 [] with stn := stn } { st := .running, at_ := 5 } with
    plats := tput demo.plats 0 { tPlat with owner := [(0, 0), (1, 0)], issued := n, issuedAt := demo.sup.now } }

theorem witness_watchdog :
    let g (stn : Nat) : Leg := { mkLeg 0 0 0 [] with stn := stn }
    128 * (g 0).cycles < issuedFor (issuing 128001 0) tLeg (g 0) { st := .running, at_ := 5 } ∧
    issuedFor (issuing 128000 0) tLeg (g 0) { st := .running, at_ := 5 } = 128 * (g 0).cycles ∧
    legRuns (issuing 128001 0) tLeg = true ∧ legStation (issuing 128001 0) tLeg (g 0) = some (0, 0) ∧ (issuing 128001 0).snaps = [] ∧
    128 * (g 9).cycles < issuedFor (issuing 128001 9) tLeg (g 9) { st := .running, at_ := 5 } ∧ legRuns (issuing 128001 9) tLeg = true ∧
    legStation (issuing 128001 9) tLeg (g 9) = none := by decide +kernel

/-- A Traverse of one Null Leg, as `x`. -/
def tTrav1 : Trav := { ctx := 0, handle := 0, legs := [mkLeg 7 0 0 []], locals := [], tag := 44 }
def travIs (x : Trav) (b : Option Busy) : State := { withCtx { tCtx with busy := b } with travs := [(0, x)] }
def lastRun : Run := { k := 2, legs := [{ st := .done 0 }] }
def tPer : Trav := { tTrav1 with st := .periodic, b0 := 400, period := 1000000, next := 3, run := some lastRun }

theorem witness_runs :
    travOf (travIs tTrav1 (some (.run 0 17 0))) 0 0 = some tTrav1 ∧
    (ctxOf (travIs tTrav1 (some (.run 0 17 0))) 0).bind (·.busy) = some (.run 0 17 0) ∧ tTrav1.st = .resident ∧ tTrav1.start ≤ demo.sup.now ∧
    ctxStalled (travIs tTrav1 (some (.run 0 17 0))) 0 = false ∧
    travOf (travIs { tPer with st := .running, deadline := 500 } none) 0 0 = some { tPer with st := .running, deadline := 500 } ∧
    travOf (travIs { tTrav1 with st := .armed, b0 := 900 } none) 0 0 = some { tTrav1 with st := .armed, b0 := 900 } := by decide +kernel

theorem witness_periods :
    travOf (travIs tPer none) 0 0 = some tPer ∧ stopping tPer = false ∧ tPer.b0 + tPer.next * tPer.period ≤ demo.sup.now ∧
    tPer.run.isSome = true ∧ tPer.disarm = false ∧ tPer.count = 0 ∧
    travOf (travIs { tPer with count := 3 } none) 0 0 = some { tPer with count := 3 } ∧ stopping { tPer with count := 3 } = false ∧
    travOf (travIs { tPer with run := none } none) 0 0 = some { tPer with run := none } ∧ stopping { tPer with run := none } = false ∧
    stopping { tPer with run := none, count := 3 } = false ∧
    stopping { tPer with run := none, count := 3, ending := [⟨lastRun, 400, false⟩] } = false ∧
    travOf (travIs { tPer with ending := [⟨lastRun, 400, false⟩] } none) 0 0 = some { tPer with ending := [⟨lastRun, 400, false⟩] } ∧
    (lastRun.legs.all isDone) = true ∧ 400 + 1000 ≤ demo.sup.now := by decide +kernel

/-- R91: the count is exhausted: the boundary starts no further period, and the summary leaves the Traverse RESIDENT. -/
theorem test_count_exhausted :
    (travOf (periodBoundary (travIs { tPer with count := 3 } none) 0 0) 0 0).map (fun t => (t.run, t.ending.map (·.stop))) = some (none, [true]) ∧
    (travOf (periodSummary (travIs { tPer with count := 3, run := none, ending := [⟨lastRun, 400, true⟩] } none) 0 0) 0 0).map (·.st) =
      some .resident := by decide +kernel

def ringState (g : Ring) : State := withCtx { tCtx with ring := g }

theorem witness_rings :
    (0 : Nat) < nHost demo ∧ sweeps demo 0 = true ∧ (portOf demo 0).ctrl.enable = true ∧ linkUp demo 0 = true ∧
    demo.sup.now % (500 * (portOf (adoptSweep demo 0) 0).sweep) = 0 ∧ swept demo (.context 0) = true ∧ swept demo (.admin 0) = true ∧
    ringOf (ringState { sqTail := 2 }) (.context 0) = some { sqTail := 2 } ∧ swept (ringState { sqTail := 2 }) (.context 0) = true ∧
    [[0], [1]].length ≤ sub32 2 0 ∧
    ctxOf (withCtx { tCtx with cqMod := { due := some 5 }, eqMod := { due := some 6 } }) 0 =
      some { tCtx with cqMod := { due := some 5 }, eqMod := { due := some 6 } } ∧
    rttReady demo 0 = true ∧ (portOf demo 0).rtt = 0 ∧ (portOf demo 0).rttRetryAt = none ∧
    rttReady (portAt { tPort with rttRetryAt := some 5 }) 0 = true ∧
    (portOf (portAt { tPort with rtt := 7, lats := [9] }) 0).rttAt + 1000000000 ≤ demo.sup.now := by decide +kernel

/-- R68: an SQ_TAIL more than a ring's depth ahead is ignored and counted; one a depth ahead is taken. -/
theorem test_bad_tail :
    ((ringOf (newTail demo (.context 0) 257) (.context 0)).map (·.sqTail), (portOf (newTail demo (.context 0) 257) 0).sweepFails) = (some 0, 1) ∧
    (ringOf (newTail demo (.context 0) 256) (.context 0)).map (·.sqTail) = some 256 := by decide +kernel

/-- R359: the largest of the latencies. -/
theorem test_rtt : (portOf (rttMeasure demo 0 [some 700, none, some 900]) 0).rtt = 900 := by decide +kernel

/-! ### Power, thermal control and bring-up -/

def hotPlat (t : Thermal) : State := { demo with plats := tput demo.plats 1 { tPlat with thermal := t } }
def cool : List Int := List.replicate 16 200

theorem witness_power_and_thermal :
    demo.sup.running = true ∧ demo.sup.now % 10000 = 0 ∧ demo.sup.now % 50000 = 0 ∧ demo.sup.now % 100000 = 0 ∧
    nextPace 64 600 (window { demo with glb := { demo.glb with samples := [(999999999, 700000)] } }) ≠ 64 ∧
    nextPace 64 600 (window demo) = 64 ∧ (platOf demo 1).st ≠ .unreleased ∧ demo.sup.tripped = false ∧
    hottest (judge [] cool) cool = some (0, 200) ∧ hottest (judge [] (List.replicate 16 480)) (List.replicate 16 480) = some (0, 480) ∧
    (platOf (hotPlat { due := some (48, 5) }) 1).thermal.due = some (48, 5) := by decide +kernel

/-- R443: a sensor 20.25 degrees above the median fails, one 20 degrees above does not; R446: 120 degrees trips. -/
theorem test_sensors :
    judge [] (281 :: List.replicate 15 200) = [0] ∧ judge [] (280 :: List.replicate 15 200) = [] ∧
    (thermalSample demo 1 (List.replicate 16 480)).sup.tripped = true ∧ (thermalSample demo 1 (List.replicate 16 479)).sup.tripped = false := by
  decide +kernel

/-- R444: the eighth sample at 95 degrees makes a Plat WARM. -/
theorem test_warm :
    (platOf (thermalSample (hotPlat { warmEntry := 7 }) 1 (List.replicate 16 380)) 1).thermal.st = .warm ∧
    (platOf (thermalSample (hotPlat { warmEntry := 7 }) 1 (List.replicate 16 379)) 1).thermal.st = .normal := by decide +kernel

theorem witness_power_limit :
    pathUp demo .svc = true ∧ demo.part.variant = .vlh8 ∧ pathUp demo (.pf 0) = true ∧ bit demo.glb.setupPorts 0 = true ∧
    demo.sup.running = true ∧ demo.sup.now % 50000 = 0 ∧ (240 : Nat) ≤ 735 := by decide +kernel

theorem witness_pace : (8 : Nat) ≤ 64 ∧ nextPace 64 600 [700000] < 64 ∧ 63 < nextPace 63 600 [500000] := by decide +kernel

/-- R48: down 8 steps, never below 8; up one step below 97%, none at 97%. -/
theorem test_pace :
    [nextPace 64 600 [700000], nextPace 12 600 [700000], nextPace 40 600 [500000], nextPace 40 600 [582000], nextPace 64 600 [1]] =
      [56, 8, 41, 40, 64] := by decide +kernel

def noTime : State := { part := {}, sup := {} }
def measuring : State := { demo with mon := {}, plats := [(0, { st := .measuring })], cads := [], ctxs := [] }
def releasing : State := { demo with plats := [(0, tPlat)] }

theorem witness_bring_up :
    noTime.sup.vstby = true ∧ noTime.sup.vmain = true ∧ noTime.sup.resetN = true ∧ noTime.sup.running = false ∧
    measuring.sup.running = true ∧ measuring.sup.tripped = false ∧ measuring.mon.running = false ∧ (platOf measuring 0).st = .measuring ∧
    slotPasses (logBoot measuring) (logBoot measuring).mon.slotA true = some {} ∧
    slotPasses (logBoot measuring) (logBoot measuring).mon.slotB true = none ∧
    slotPasses (logBoot { measuring with mon := { slotB := some {} } }) (some {}) false = none ∧
    slotPasses (logBoot { measuring with mon := { slotB := some {} } }) (some {}) true = some {} ∧
    (platOf releasing 1).st = .unreleased ∧ (platOf releasing 1).unproven = false ∧ (platOf releasing 0).st = .ready ∧
    ((List.range 1).all (releasedBefore releasing)) = true ∧ (1 : Nat) < nPlats releasing ∧ releasing.mon.running = true ∧
    (platOf measuring 0).measured = false := by decide +kernel

/-- Plat 1's fused digest is that of the key of two bytes. -/
def keyed : State := { releasing with fuses := { releasing.fuses with platKeys := [[], sha384 [1, 2]] } }

theorem witness_plat_release :
    keyed.fuses.platKeys[1]? = some (sha384 [1, 2]) ∧ (platOf keyed 1).st = .unreleased ∧ ((List.range 1).all (releasedBefore keyed)) = true ∧
    (none : Option Bytes).map sha384 ≠ some (sha384 [1, 2]) := by
  refine ⟨rfl, by decide +kernel, by decide +kernel, ?_⟩
  intro h
  cases h

def selfCheck (x : Plat) : State :=
  { demo with mon := { demo.mon with upd := .activating, slotB := some uImage }, plats := tput demo.plats 1 x }

theorem witness_self_check :
    activating (selfCheck { st := .measuring, measured := true }) = none ∧ activatingReset (selfCheck { st := .measuring, measured := true }) = true ∧
    (platOf (selfCheck { st := .measuring, measured := true }) 1).st = .measuring ∧
    (platOf (selfCheck { st := .measuring, measured := true }) 1).measured = true ∧
    activating (switchState { tPlat with switching := true }) = some 0 ∧ otherSlot (switchState { tPlat with switching := true }).mon = some uImage ∧
    (platOf (switchState { tPlat with switching := true }) 0).checked = false ∧
    7 ∈ (platOf (selfCheck { tPlat with zeroing := [7] }) 1).zeroing ∧
    tget ({ demo with settings := [(3, ⟨4, some 5⟩)] }).settings 3 = some ⟨4, some 5⟩ ∧ (cadOf demo 0).st = 2 := by decide +kernel

/-- R419: a failed Station takes the first good spare. -/
theorem test_measured :
    (measuredPlat {} { ok := true, failed := [5, 88], fmRows := [], psRows := [], lanes := 0 }).map.getD 5 none = some 89 ∧
    (measuredPlat {} { ok := true, failed := [5, 88], fmRows := [], psRows := [], lanes := 0 }).spares.length = 6 := by decide +kernel

/-- R109, R417: after 5 ms at the most Datum Time runs from 0. -/
theorem test_start :
    (datumTimeStart noTime 5000000).sup.running = true ∧ (datumTimeStart noTime 5000001).sup.running = false := by decide +kernel

/-! ### Faults and repair -/

def tFault (loss : PlatLoss) : FaultEv := ⟨1, 2, .station 5, false, false, true, loss, 0⟩
/-- Plat 0 as `x`, whose Station 0 is index 0 of context 0. -/
def ownedPlat (x : Plat) : State := { demo with plats := tput demo.plats 0 { x with st := .ready, owner := [(0, 0), (1, 0)] } }

theorem witness_faults :
    (tFault .none).plat < nPlats demo ∧ demo.sup.running = true ∧ (platOf demo 1).st ≠ .unreleased ∧ demo.sup.tripped = false ∧
    (platOf demo 1).st = .ready ∧ repairing (ownedPlat { repairs := [⟨.dramLane 3, 5, none⟩] }) 0 = true ∧
    (platOf (ownedPlat { repairs := [⟨.dramLane 3, 5, none⟩] }) 0).repairs = [⟨.dramLane 3, 5, none⟩] ∧
    repairing (ownedPlat { repairs := [⟨.station 0, 5, some 0⟩] }) 0 = true ∧
    (platOf (ownedPlat { repairs := [⟨.station 0, 5, some 0⟩] }) 0).spares = 88 :: [89, 90, 91, 92, 93, 94, 95] ∧
    (platOf (ownedPlat { repairs := [⟨.station 0, 5, some 0⟩], spares := [] }) 0).map.getD 0 none = some 0 := by decide +kernel

theorem witness_station_lost :
    logicalOf (platOf demo 1) 90 = none ∧ 90 ∈ (platOf demo 1).spares ∧ logicalOf (platOf demo 1) 5 = some 5 ∧
    logicalOf (platOf (ownedPlat { spares := [] }) 0) 5 = some 5 ∧ (platOf (ownedPlat { spares := [] }) 0).spares = [] ∧
    (platOf demo 1).spares = 88 :: [89, 90, 91, 92, 93, 94, 95] ∧
    crewIndex (modPlat (remap (modPlat (logRes (logRes demo 0x05 1 (.station 5) 0) 0x07 1 (.station 5) 0) 1 fun x =>
      { x with repairs := x.repairs.filter fun r => r.res != .station 5 }) 1 5 88) 1 fun x => { x with flags := tdel x.flags 5 }) 1 5 = none ∧
    logicalOf (platOf (ownedPlat {}) 0) 1 = some 1 ∧
    crewIndex (modPlat (remap (modPlat (logRes (logRes (ownedPlat {}) 0x05 0 (.station 1) 0) 0x07 0 (.station 1) 0) 0 fun x =>
      { x with repairs := x.repairs.filter fun r => r.res != .station 1 }) 0 1 88) 0 fun x => { x with flags := tdel x.flags 1 }) 0 1 = some (0, 1) := by
  decide +kernel

/-- R431, R433: a Station declared lasting is queued for a planned substitution; R434: the spare takes its logical number. -/
theorem test_substitution :
    (platOf (faultEvent (ownedPlat {}) { tFault .none with plat := 0, resource := .station 1 }) 0).repairs.map (·.stn) = [some 1] ∧
    (platOf (stationSubstitutionDone (ownedPlat { repairs := [⟨.station 1, 5, some 1⟩] }) 0) 0).map.getD 1 none = some 88 := by decide +kernel

def logged : State := logFault demo 2 1 0 5 0

theorem witness_fault_log :
    (let i := Instr.faultLogTake h1 0x5000 4096
     CtxTakes (fed logged i h1) i h1 (fedCtx tSurv i h1) ∧ (fedCtx tSurv i h1).surveyor = true ∧
     (dropEntry (fed logged i h1) 1).flt.log ≠ [] ∧ CtxTakes (fed demo i h1) i h1 (fedCtx tSurv i h1) ∧
     (dropEntry (fed demo i h1) 1).flt.log = []) ∧
    (∃ e ∈ logged.flt.log, e.cls = 2 ∧ e.plat = 1 ∧ e.source = 5 ∧ logged.sup.now ≤ e.first + 1000000) ∧
    (∀ e ∈ demo.flt.log, e.cls = 2 → e.plat = 1 → e.source = 5 → e.first + 1000000 < demo.sup.now) ∧ demo.flt.log.length < 4096 := by
  decide +kernel

/-- The clause of a full Fault Log: 4,096 entries of another class. -/
def fullLog : State := { demo with flt := { demo.flt with log := List.replicate 4096 ⟨1, 0, 0, 0, 0, 0, 1, 0, 0⟩ } }

theorem witness_full_log :
    4096 ≤ fullLog.flt.log.length ∧ fullLog.sup.tripped = false ∧
    (∀ e ∈ fullLog.flt.log, e.cls = 2 → e.plat = 1 → e.source = 5 → e.first + 1000000 < fullLog.sup.now) := by
  refine ⟨Nat.le_of_eq (List.length_replicate ..).symm, rfl, ?_⟩
  intro e h c
  rw [List.eq_of_mem_replicate h] at c
  cases c

/-! ### Set-up registers -/

def tieOff : State := { demo with ties := [(0, { ctrl := { enable := false } }), (1, { ctrl := { enable := false } })] }

theorem witness_register_writes :
    pathUp demo (.pf 0) = true ∧ bit demo.glb.setupPorts 0 = true ∧ pathUp demo .svc = true ∧ pplLow demo ≤ 735 ∧ 735 ≤ pplHigh demo ∧
    pplLow demo ≤ 240 ∧ (∀ t < nTie tieOff, (tieOf tieOff t).ctrl.enable = false) ∧ pathUp tieOff (.pf 0) = true ∧
    ctxOf demo 0 = some tCtx ∧ tdiHeld tCtx = false ∧ tdiHeld { tCtx with tdi := .locked } = true ∧
    1 ≤ (256 + 65536 * 1000) % 512 ∧ (256 + 65536 * 1000) / 65536 % 1024 ≤ 1000 ∧ (0 : Nat) < nHost demo ∧
    pathOffset demo (.pf 0) 0x10 = some 0x10 ∧ pathUp demo (.vf 0 0) = true ∧ pathOffset demo (.vf 0 0) 0x10 = some 0x20010 ∧
    vfCtx demo 0 0 = some (0, tCtx) ∧ pathOffset demo (.pf 0) 0x14 = some 0x14 ∧ pathOffset (wrPartial demo (.pf 0) 0x12) (.pf 0) 0x16 = some 0x16 ∧
    pathUp demo (.bitAlias 0) = true ∧ mayWrite demo (.bitAlias 0) (blockAt demo 0x30) = true ∧ takesBit (blockAt demo 0x30) 8 = true ∧
    takesBit (blockAt demo 0x30) 9 = false ∧ leNat [1, 0, 0, 0] = 1 := by decide +kernel

/-- R452: a limit of 735 W is taken, one of 736 W ignored and counted; R450: a PF without the right writes nothing but its own port's block.
-/
theorem test_register_writes :
    (wrReg demo (.pf 0) 0x10 735).glb.ppl = 735 ∧ ((wrReg demo (.pf 0) 0x10 736).glb.ppl, (wrReg demo (.pf 0) 0x10 736).glb.ignored) = (600, 1) ∧
    (barWrite { demo with glb := { demo.glb with setupPorts := 2 } } (.pf 0) 0x10 300).glb = { demo.glb with setupPorts := 2, denied := 1 } ∧
    (portOf (barWrite { demo with glb := { demo.glb with setupPorts := 2 } } (.pf 0) 0x1000C 7) 0).graceMs = 7 := by decide +kernel

/-- A bit-wise write of GLB_ALERT_EN bit 8 sets that bit alone. -/
theorem test_bit_alias : (bitAliasWrite demo (.bitAlias 0) (0x30 * 32 + 8 * 4) 1).glb.alertEn = 0x103 := by decide +kernel

theorem witness_ignored_writes :
    pathUp demo (.pf 1) = false ∧ pathUp { demo with glb := { demo.glb with setupPorts := 2 } } (.pf 0) = true ∧
    mayWrite { demo with glb := { demo.glb with setupPorts := 2 } } (.pf 0)
      (blockAt { demo with glb := { demo.glb with setupPorts := 2 } } 0x10) = false ∧
    blockOn demo (.tpt 0 0) = true ∧ blockOn tieOff (.tpt 0 0) = false := by decide +kernel

theorem witness_reads :
    pathUp demo (.pf 0) = true ∧ pathOffset demo (.pf 0) 0x4008 = some 0x4008 ∧ pathOffset demo (.vf 0 0) 0x2000 = none ∧
    wide demo 0x4008 = some 1000000000 ∧ wide demo 0x400C = none ∧ svcUp demo = true ∧
    svcUp { demo with fuses := { demo.fuses with fieldLock := true } } = false ∧ svcStalls demo 0x10 = false ∧ svcStalls demo 0x50110 = true ∧
    demo.svcHeld = none ∧ ({ demo with svcHeld := some 4 }).svcHeld = some 4 ∧ demo.sup.vstby = true ∧ demo.svcStall = none ∧
    pathOffset demo (.vf 0 0) 0x10 = some 0x20010 ∧ pathOffset demo (.vf 0 0) 0x14 = some 0x20014 ∧ pathUp demo (.vf 0 0) = true ∧
    pathUp demo (.bitAlias 0) = true ∧ pathUp demo (.aperture 0) = true := by decide +kernel

/-- A stalled access of the service port, which ends now or a microsecond from now. -/
def stalled (o : Option Nat) (late : Nat) : State := { demo with svcStall := some (o, demo.sup.now + late) }

theorem witness_stalls :
    ∀ o ∈ [none, some 0x50110], (stalled o 0).svcStall = some (o, demo.sup.now) ∧ demo.sup.now ≤ (stalled o 0).sup.now ∧
      (stalled o 1000).sup.now < demo.sup.now + 1000 ∧ (settleSvc (stalled o 1000)).svcStall.isSome = true := by decide +kernel

/-- R380: a read of another Plat's register is NACKed; the retry after the stall delivers its value, once. -/
theorem test_stalled_read :
    let s := settleSvc (stalled (some 0x50110) 0)
    s.svcHeld.isSome = true ∧ (i3cRegisterRead s none).svcHeld = none ∧ (i3cRegisterRead demo (some 0x50110)).svcStall.isSome = true := by
  decide +kernel

/-- R454: the LOL read of Datum Time latches the high word for its own path. -/
theorem test_lol :
    let s := { demo with sup := { demo.sup with now := 0x500000007 } }
    (pathRead s (.pf 0) 0x4008).2 = 7 ∧ (pathRead (pathRead s (.pf 0) 0x4008).1 (.pf 0) 0x400C).2 = 5 ∧
    shadowOf (pathRead s (.pf 0) 0x4008).1 .svc 0x4008 = 0 := by decide +kernel

/-! ### The whole package -/

theorem witness_steps :
    ({ demo with pending := [.vstbyRise, .vmainRise] }).pending = .vstbyRise :: [.vmainRise] ∧ demo.pending = [] ∧
    demo.sup.now + 1 < 2 ^ 64 ∧ State.reset.pending = [] ∧ State.reset.sup.running = false := by decide +kernel

/-- A step of a queue of two commands runs the first and leaves the second; Datum Time at its last count faults. -/
theorem test_steps :
    step { demo with pending := [.resetRelease, .vmainRise] } = .next { demo with pending := [.vmainRise] } ∧
    step { demo with sup := { demo.sup with now := 2 ^ 64 - 1 } } = .fault .datumTimeEnd := by
  constructor <;> rfl

theorem witness_every_step : step { demo with pending := [.vmainRise] } = .next demo ∧ demo.fuses.counter ≤ 64 := by
  constructor
  · rfl
  · decide

theorem witness_other_commands :
    exec .vmainRise demo = .next demo ∧ (∀ a b, Instr.vmainRise ≠ .monumentBoot a b) ∧
    (∀ p ok n, Instr.vmainRise ≠ .platSelfCheckDone p ok n) ∧ Instr.vmainRise ≠ .fieldLockBurnDone ∧ Instr.vmainRise ≠ .fuseCounterBurn := by
  refine ⟨rfl, ?_, ?_, ?_, ?_⟩ <;> intros <;> intro h <;> cases h

theorem witness_stake_frame :
    (∃ v, Instr.stakeSet h0 2 9 = .stakeSet h0 2 v ∨ Instr.stakeSet h0 2 9 = .stakeAdd h0 2 v) ∧
    (∃ t, exec (.stakeSet h0 2 9) demo = .next t) ∧ cmdStake (dropEntry demo 0) tCtx 0 2 true ≠ .ok (.ctx 0 3) :=
  ⟨⟨9, .inl rfl⟩, ⟨_, rfl⟩, by decide +kernel⟩

theorem witness_register_frame : ∃ t, exec (.glbPpl (.pf 0) 700) demo = .next t := ⟨_, rfl⟩

def activateCmd : Instr := .updateActivate h1 9
/-- The image `i` is armed, and Plat 3 is as `x`. -/
def armedState (i : Image) (x : Plat) : State := { updState .armed (some i) [] with plats := tput demo.plats 3 x }
def armedFed (i : Image) (x : Plat) : State := fed (armedState i x) activateCmd h1
def armedRan (i : Image) (x : Plat) : State := dropEntry (armedFed i x) 1
/-- Image 9 with every format of the running image. -/
def sameFormats : Image := { uImage with formats := demo.mon.image.formats }

theorem witness_activate_checks :
    (∀ e ∈ [(sameFormats, tPlat), (sameFormats, { st := .out }), ({ sameFormats with rolling := false }, tPlat),
        ({ sameFormats with epoch := 3 }, tPlat), ({ sameFormats with formats := [] }, tPlat)],
      CtxTakes (armedFed e.1 e.2) activateCmd h1 (fedCtx tSurv activateCmd h1) ∧ hostHeld (armedFed e.1 e.2) 1 = false ∧
      updateCheck (armedRan e.1 e.2) (fedCtx tSurv activateCmd h1) = 0 ∧ e.1.id = 9 ∧
      (armedRan e.1 e.2).mon.staged = some e.1 ∧ (armedRan e.1 e.2).mon.upd = .armed) ∧
    (∀ p < nPlats (armedRan sameFormats tPlat), ready (armedRan sameFormats tPlat) p = true) ∧
    (∀ p < nPlats (armedRan sameFormats tPlat), sameFormats.epoch ≤ (platOf (armedRan sameFormats tPlat) p).epoch + 1 ∧
      (platOf (armedRan sameFormats tPlat) p).epoch ≤ sameFormats.epoch + 1) ∧
    (∀ f ∈ (armedRan sameFormats tPlat).mon.image.formats, f ∈ sameFormats.formats) ∧ sameFormats.rolling = true ∧
    ready (armedRan sameFormats { st := .out }) 3 = false ∧
    (platOf (armedRan { sameFormats with epoch := 3 } tPlat) 0).epoch + 1 < ({ sameFormats with epoch := 3 } : Image).epoch ∧
    (∃ f ∈ (armedRan { sameFormats with formats := [] } tPlat).mon.image.formats, f ∉ ({ sameFormats with formats := [] } : Image).formats) := by
  decide +kernel

end Sys2Proof.Tests
end

section
/-!
The Package Power Limit (R47, R48): what a whole write of it does, what its register reads, and the control interval that compares
with it.
-/
namespace Sys2Proof.Machine
open Sys2Proof

/-! ### Whole writes of the GLB block -/

/-- The path may write every block: the service port, or a PF that GLB_SETUP_PORTS names (R449). -/
def SetupPath (s : State) (p : Path) : Prop := p = .svc ∨ ∃ n, p = .pf n ∧ bit s.glb.setupPorts n = true

theorem mayWrite_of_setupPath {s : State} {p : Path} (h : SetupPath s p) (b : RegBlock) : mayWrite s p b = true := by
  rcases h with rfl | ⟨n, rfl, hn⟩
  · rfl
  · simp [mayWrite, hn]

theorem barWrite_of_setupPath {s : State} {p : Path} (up : pathUp s p = true) (h : SetupPath s p) (a v : Nat) :
    barWrite s p a v = wrReg s p a v := by
  rcases h with rfl | ⟨n, rfl, -⟩ <;> simp [barWrite, up]

theorem wrReg_glb {s : State} {p : Path} {a : Nat} (v : Nat) (ha : a < 0x4000) (h : mayWrite s p (.glb a) = true) :
    wrReg s p a v = wrGlb s a v := by
  simp [wrReg, blockAt, ha, h]

/-- A path with the right writes a register of the GLB block. -/
theorem barWrite_glb {s : State} {p : Path} {a : Nat} (v : Nat) (up : pathUp s p = true) (h : SetupPath s p) (ha : a < 0x4000) :
    barWrite s p a v = wrGlb s a v := by
  rw [barWrite_of_setupPath up h, wrReg_glb v ha (mayWrite_of_setupPath h _)]

/-! ### GLB_PPL -/

theorem wrGlb_ppl (s : State) {v : Nat} (hv : v < 65536) :
    wrGlb s 0x10 v = if pplLow s ≤ v ∧ v ≤ pplHigh s then storeSetting { s with glb := { s.glb with ppl := v } } 0x10 v
      else countGlb s := by
  simp [wrGlb, wrRw, countIgnored, Nat.mod_eq_of_lt hv]

theorem exec_glbPpl {s : State} {p : Path} {v : Nat} (up : pathUp s p = true) (h : SetupPath s p) (hv : v < 65536) :
    exec (.glbPpl p v) s = .next (if pplLow s ≤ v ∧ v ≤ pplHigh s then
      storeSetting { s with glb := { s.glb with ppl := v } } 0x10 v else countGlb s) := by
  rw [← wrGlb_ppl s hv, ← barWrite_glb v up h (by decide)]
  rfl

/-- The limits of a variant are those of R47. -/
theorem pplRange_of_variant {s : State} {lo hi : Nat}
    (h : s.part.variant = .vlh2 ∧ lo = 68 ∧ hi = 210 ∨ s.part.variant = .vlh4 ∧ lo = 128 ∧ hi = 390 ∨
      s.part.variant = .vlh8 ∧ lo = 240 ∧ hi = 735) : pplLow s = lo ∧ pplHigh s = hi := by
  rcases h with ⟨hv, rfl, rfl⟩ | ⟨hv, rfl, rfl⟩ | ⟨hv, rfl, rfl⟩ <;> simp [pplLow, pplHigh, hv]

theorem storeSetting_glb (s : State) (key v : Nat) : (storeSetting s key v).glb =
    { s.glb with defaulted := false, tieHold := s.glb.tieHold && key != tptAt } := rfl

theorem rdReg_ppl (s : State) : rdReg s 0x10 = s.glb.ppl := by
  simp [rdReg, wide, blockAt, rdGlb]

/-! ### The control interval (R48) -/

theorem Written.glb_eq {s t : State} (h : Written s t) : t.glb = s.glb := by
  obtain ⟨c, p, o, rfl⟩ := h
  rfl

@[simp] theorem eventAll_glb (s : State) (type status : Nat) (payload : List Fld) :
    (eventAll s type status payload).glb = s.glb := (eventAll_written s type status payload).glb_eq

@[simp] theorem foldl_settlePace_glb (s : State) (l : List Nat) : (l.foldl settlePace s).glb = s.glb :=
  foldl_keeps State.glb settlePace (fun s p => modPlat_glb s p _) l s

/-- At a control interval the Pace Ratio is the one that the window's mean calls for under the limit, which stays. -/
theorem governorControl_glb {s : State} (run : s.sup.running = true) (due : s.sup.now % 50000 = 0) :
    (governorControl s).glb.pace = nextPace s.glb.pace s.glb.ppl (window s) ∧ (governorControl s).glb.ppl = s.glb.ppl := by
  by_cases same : nextPace s.glb.pace s.glb.ppl (window s) = s.glb.pace
  · simp [governorControl, run, due, same]
  · simp only [governorControl, run, due, same, and_self, if_true, if_false]
    split <;> simp

/-- Settles O43, from the one equation of the write (`exec_glbPpl`) and what a control interval leaves in GLB (`governorControl_glb`). -/
theorem powerLimitWrites : Obligations.PowerLimitWrites := by
  unfold Obligations.PowerLimitWrites
  intro s p v lo hi up right hv variant
  obtain ⟨rfl, rfl⟩ := pplRange_of_variant variant
  have write := exec_glbPpl up right hv
  refine ⟨fun hlo hhi => ?inRange, fun out => ?outside, fun run due => ?interval⟩
  case inRange =>
    rw [if_pos ⟨hlo, hhi⟩] at write
    exact ⟨_, write, by simp [storeSetting_glb, rdReg_ppl]⟩
  case outside =>
    rw [write, if_neg (by omega)]
    rfl
  case interval => exact ⟨_, rfl, governorControl_glb run due⟩

end Sys2Proof.Machine
end

section
/-!
Partner time (R115): two's complement reading as balanced remainder, the rounding of the map's correction, and the conversion.
-/
namespace Sys2Proof.Machine
open Sys2Proof

/-- Cutting an integer to `n` bits and reading them in two's complement is its balanced remainder. -/
theorem signed_unsigned {n : Nat} (hn : 0 < n) (x : Int) : signed n (unsigned n x) = x.bmod (2 ^ n) := by
  have pos : (0 : Int) < (2 ^ n : Nat) := by positivity
  have val : ((unsigned n x : Nat) : Int) = x % (2 ^ n : Nat) := Int.toNat_of_nonneg (Int.emod_nonneg x pos.ne')
  have half : 2 ^ n = 2 * 2 ^ (n - 1) := (mul_pow_sub_one hn.ne' 2).symm
  rw [signed, Int.bmod_def, ← val]
  exact if_congr (by omega) rfl rfl

/-- A word equal to `x` modulo 2^64 and in the signed range is what `x` is stored as. -/
theorem signed_unsigned_eq_of_range {x y : Int} (lo : -2 ^ 63 ≤ y) (hi : y < 2 ^ 63) (cong : (y - x) % 2 ^ 64 = 0) :
    signed 64 (unsigned 64 x) = y := by
  rw [signed_unsigned (by decide), Int.bmod_eq_iff (by decide)]
  exact ⟨by omega, by omega, Int.dvd_of_emod_eq_zero cong⟩

/-- What is stored for `x` lies in the signed range and equals `x` modulo 2^64. -/
theorem signed_unsigned_range (x : Int) : -2 ^ 63 ≤ signed 64 (unsigned 64 x) ∧ signed 64 (unsigned 64 x) < 2 ^ 63 ∧
    (signed 64 (unsigned 64 x) - x) % 2 ^ 64 = 0 := by
  obtain ⟨lo, hi, cong⟩ := (Int.bmod_eq_iff (by decide)).1 (signed_unsigned (n := 64) (by decide) x).symm
  exact ⟨by omega, by omega, Int.emod_eq_zero_of_dvd cong⟩

/-! ### Rounding -/

theorem roundAway_neg {d : Nat} (hd : 0 < d) (n : Int) : roundAway (-n) d = -roundAway n d := by
  rcases lt_trichotomy n 0 with neg | rfl | pos
  · simp [roundAway, neg.le, neg.not_ge]
  · have : (d : Int) / (2 * d) = 0 := Int.ediv_eq_zero_of_lt (by omega) (by omega)
    simp [roundAway, this]
  · simp [roundAway, pos.le, pos.not_ge]

/-- Of a quotient that is not negative, the half rounds up and no other error reaches a half. -/
theorem roundAway_nonneg {n : Int} {d : Nat} (hd : 0 < d) (hn : 0 ≤ n) :
    -(d : Int) < 2 * (roundAway n d * d - n) ∧ 2 * (roundAway n d * d - n) ≤ d := by
  have div := Int.mul_ediv_add_emod (2 * n + d) (2 * d)
  have rem := Int.emod_nonneg (2 * n + d) (b := 2 * d) (by omega)
  have lt := Int.emod_lt_of_pos (2 * n + d) (b := 2 * d) (by omega)
  rw [roundAway, if_pos hn]
  constructor <;> linarith

/-- The integer nearest `n / d`, and of two equally near the one farther from zero. -/
theorem roundAway_nearest {d : Nat} (hd : 0 < d) (n : Int) : (2 * (roundAway n d * d - n)).natAbs ≤ d ∧
    ((2 * (roundAway n d * d - n)).natAbs = d → n.natAbs < (roundAway n d).natAbs * d) := by
  wlog hn : 0 ≤ n generalizing n
  · have mirrored := this (-n) (by omega)
    have flip : 2 * (-roundAway n d * d - -n) = -(2 * (roundAway n d * d - n)) := by ring
    rwa [roundAway_neg hd, flip, Int.natAbs_neg, Int.natAbs_neg, Int.natAbs_neg] at mirrored
  · have err := roundAway_nonneg hd hn
    have size : (roundAway n d).natAbs * d = (roundAway n d * d).natAbs := by rw [Int.natAbs_mul, Int.natAbs_natCast]
    rw [size]
    omega

/-! ### The conversion -/

/-- The conversion, with `dh` the 64-bit difference of the partner time from the map's. -/
theorem toDatum_of_diff (m : Ptm) {h : Nat} {dh : Int} (hdh : signed 64 (unsigned 64 ((h : Int) - m.h0)) = dh) :
    toDatum m h = if m.valid = true ∧ dh.natAbs ≤ 2 ^ 32 then
      some (signed 64 (unsigned 64 (m.d0 + dh - roundAway (dh * m.rate) (2 ^ 40)))) else none := by
  subst hdh
  exact if_congr (and_congr_right' (by omega)) rfl rfl

/-- Settles O6: the stored difference is `dh` (`signed_unsigned_eq_of_range`), so the conversion is that of `toDatum_of_diff`,
whose correction is the nearest integer (`roundAway_nearest`). -/
theorem partnerTimeConversion : Obligations.PartnerTimeConversion := by
  unfold Obligations.PartnerTimeConversion
  intro m h dh lo hi cong
  rw [toDatum_of_diff m (signed_unsigned_eq_of_range lo hi cong)]
  refine ⟨by simp, fun d hd => ?_⟩
  rw [Option.ite_none_right_eq_some, Option.some.injEq] at hd
  obtain ⟨-, rfl⟩ := hd
  obtain ⟨dlo, dhi, dcong⟩ := signed_unsigned_range (m.d0 + dh - roundAway (dh * m.rate) (2 ^ 40))
  obtain ⟨near, away⟩ := roundAway_nearest (d := 2 ^ 40) (by decide) (dh * m.rate)
  exact ⟨dlo, dhi, _, near, away, dcong⟩

end Sys2Proof.Machine
end

section
/-!
Edges of SYNC_IN (R118): the short pulse, and the edge too soon after the last accepted one.
-/
namespace Sys2Proof.Machine
open Sys2Proof

theorem syncInEdge_short (s : State) (rising : Bool) {width : Nat} (short : width < 10) : syncInEdge s rising width = s := by
  simp [syncInEdge, short]

/-- An active edge of a running device, of a pulse long enough: counted when it comes within 1,000 ns of the last accepted edge,
else accepted. -/
theorem syncInEdge_active {s : State} {rising : Bool} {width : Nat} (run : s.sup.running = true) (on : s.dtm.ctrl.enable = true)
    (active : rising = !bit s.dtm.syncCfg.inForce 0) (long : 10 ≤ width) :
    syncInEdge s rising width = if s.dtm.lastEdge.any (fun l => decide (s.sup.now - 2 < l + 1000)) = true then
      { s with dtm := { s.dtm with rejected := satAdd 65535 s.dtm.rejected 1 } } else acceptEdge s (s.sup.now - 2) := by
  simp [syncInEdge, run, on, active, long]

/-- Settles O60: a short pulse by `syncInEdge_short`, an edge too soon by `syncInEdge_active`. -/
theorem syncEdgesIgnored : Obligations.SyncEdgesIgnored := by
  unfold Obligations.SyncEdgesIgnored
  intro s rising width l run on active
  refine ⟨fun long last soon => ?tooSoon, fun short => ?shortPulse⟩
  case tooSoon =>
    have edge := syncInEdge_active run on active long
    rw [last, Option.any_some, decide_eq_true soon, if_pos rfl] at edge
    exact congrArg _ edge
  case shortPulse => exact congrArg _ (syncInEdge_short s rising short)

end Sys2Proof.Machine
end

section
/-!
UPDATE_ACTIVATE (R406): what its check answers, and what it does with the image that is armed.
-/
namespace Sys2Proof.Machine
open Sys2Proof Sys2Proof.Laws

/-! ### The check -/

/-- What the manifest of `i` must give for an Update Reset from the running image (R406): ROLLING, an Epoch within 1 of every Plat's,
and every format of the running image. -/
def RollsOver (s : State) (i : Image) : Prop :=
  i.rolling = true ∧ (∀ p < nPlats s, i.epoch ≤ (platOf s p).epoch + 1 ∧ (platOf s p).epoch ≤ i.epoch + 1) ∧
    ∀ f ∈ s.mon.image.formats, f ∈ i.formats

theorem not_rollsOver {s : State} {i : Image} (h : i.rolling = false ∨
    (∃ p < nPlats s, (platOf s p).epoch + 1 < i.epoch ∨ i.epoch + 1 < (platOf s p).epoch) ∨
    ∃ f ∈ s.mon.image.formats, f ∉ i.formats) : ¬ RollsOver s i := by
  rintro ⟨rolling, epochs, formats⟩
  rcases h with notRolling | ⟨p, hp, apart⟩ | ⟨f, hf, missing⟩
  · simp [rolling] at notRolling
  · have := epochs p hp
    omega
  · exact missing (formats f hf)

theorem firstFail_singleton (a : Nat) : firstFail [a] = a := by
  by_cases h : a = 0 <;> simp [firstFail, h]

theorem activateCheck_of_not_ready {s : State} (i : Image) (h : ∃ p < nPlats s, ready s p = false) :
    activateCheck s i = NOT_READY := by
  have notAll : (List.range (nPlats s)).all (ready s) = false := by simpa using h
  simp [activateCheck, firstFail, need, notAll]

/-- With every Plat ready, the manifest decides. -/
theorem activateCheck_of_ready {s : State} (i : Image) (h : ∀ p < nPlats s, ready s p = true) :
    activateCheck s i = need (i.rolling && ((List.range (nPlats s)).all fun p =>
      decide (i.epoch ≤ (platOf s p).epoch + 1 ∧ (platOf s p).epoch ≤ i.epoch + 1)) &&
      s.mon.image.formats.all i.formats.contains) VERSION_REFUSED := by
  have all : (List.range (nPlats s)).all (ready s) = true := by simpa using h
  simp only [activateCheck, all]
  exact firstFail_singleton _

theorem activateCheck_eq_zero_iff {s : State} (i : Image) (h : ∀ p < nPlats s, ready s p = true) :
    activateCheck s i = 0 ↔ RollsOver s i := by
  rw [activateCheck_of_ready i h]
  simp [need, RollsOver, and_assoc]

theorem activateCheck_of_not_rollsOver {s : State} {i : Image} (h : ∀ p < nPlats s, ready s p = true) (hi : ¬ RollsOver s i) :
    activateCheck s i = VERSION_REFUSED := by
  have fails := mt (activateCheck_eq_zero_iff i h).1 hi
  rw [activateCheck_of_ready i h, need] at fails ⊢
  exact if_neg fun ok => fails (if_pos ok)

/-! ### The command -/

theorem updateCmd_of_check {s : State} {x : Ctx} (h : updateCheck s x = 0) (body : State → Ctx → CmdRes) :
    updateCmd body s x = body s x := by
  simp [updateCmd, h]

theorem updateActivate_starts {s : State} {i : Image} (h : CmdHdr) (x : Ctx) (staged : s.mon.staged = some i)
    (armed : s.mon.upd = .armed) (check : activateCheck s i = 0) :
    updateActivate h i.id s x =
      later (holdPlat { s with mon := { s.mon with upd := .activating } } 0) h.ctx (.activate h.tag h.flags) := by
  simp [updateActivate, staged, armed, check]

theorem updateActivate_refused {s : State} {i : Image} (h : CmdHdr) (x : Ctx) (staged : s.mon.staged = some i)
    (armed : s.mon.upd = .armed) {st : Nat} (check : activateCheck s i = st) (fails : st ≠ 0) :
    updateActivate h i.id s x = { st := s, status := st } := by
  subst check
  simp [updateActivate, staged, armed, CmdRes.refuse]

/-- An UPDATE_ACTIVATE that its context takes and the shared checks pass does what its own body says. -/
theorem exec_updateActivate {s : State} {h : CmdHdr} {x : Ctx} {image : Nat} (H : CtxTakes s (.updateActivate h image) h x)
    (check : updateCheck (dropEntry s h.ctx) x = 0) :
    exec (.updateActivate h image) s = .next (finishCmd h false (updateActivate h image (dropEntry s h.ctx) x)) := by
  rw [← updateCmd_of_check check (updateActivate h image), ← ctxCmd_takes H]
  rfl

/-- Settles O59: the command does what its body says (`exec_updateActivate`), and its check (R406) answers in three cases: a Plat is
not ready, the manifest does not roll over from the running image, or it does. -/
theorem updateActivateChecks : Obligations.UpdateActivateChecks := by
  unfold Obligations.UpdateActivateChecks
  rintro s u h x i takes rfl - check staged armed
  rw [exec_updateActivate takes check]
  refine ⟨fun notReady => ?plat, fun ready => ⟨fun unfit => ?manifest, fun rolling epochs formats => ?starts⟩⟩
  case plat => rw [updateActivate_refused h x staged armed (activateCheck_of_not_ready i notReady) (by decide)]
  case manifest =>
    rw [updateActivate_refused h x staged armed (activateCheck_of_not_rollsOver ready (not_rollsOver unfit)) (by decide)]
  case starts =>
    rw [updateActivate_starts h x staged armed ((activateCheck_eq_zero_iff i ready).2 ⟨rolling, epochs, formats⟩)]

end Sys2Proof.Machine
end

section
/-!
The package's identity, its queue and its fuses (R398, R407, R414): which commands leave them as they are, and what the four others
do to a fuse.
-/
namespace Sys2Proof.Machine
open Sys2Proof

/-! ### The commands that change no fuse -/

theorem objectWrite_asks_fixed (s : State) (go : Bool) (x : Option Ctx) (address n : Nat) :
    (match go, x with
      | true, some x => askHost s x.port (.vf x.vf) address n
      | _, _ => s : State).fixed = s.fixed := by
  split <;> simp

theorem exec_objectWrite_fixed {h : CmdHdr} {id offset address length : Nat} {data : Option Bytes} {s t : State}
    (step : exec (.objectWrite h id offset address length data) s = .next t) : t.fixed = s.fixed := by
  obtain rfl := Host.Outcome.next.inj step
  split
  · rfl
  · exact (ctxCmd_fixed _ _ _ _ _ fun s x => by simp).trans (objectWrite_asks_fixed ..)

theorem exec_blockEnableWrite_fixed {p : Path} {b : CtrlBlock} {on : Bool} {s t : State}
    (step : exec (.blockEnableWrite p b on) s = .next t) : t.fixed = s.fixed := by
  obtain rfl := Host.Outcome.next.inj step
  cases b <;> simp [apply_ite State.fixed]

/-- Every command but four has a meaning made of operations of which the Fixed laws say that they keep the part, the queue and the
fuses. -/
theorem exec_fixed {c : Instr} {s t : State} (step : exec c s = .next t)
    (boot : ∀ a b, c ≠ .monumentBoot a b) (check : ∀ p ok n, c ≠ .platSelfCheckDone p ok n)
    (lock : c ≠ .fieldLockBurnDone) (burn : c ≠ .fuseCounterBurn) : t.fixed = s.fixed := by
  cases c
  case monumentBoot a b => exact absurd rfl (boot a b)
  case platSelfCheckDone p ok n => exact absurd rfl (check p ok n)
  case fieldLockBurnDone => exact absurd rfl lock
  case fuseCounterBurn => exact absurd rfl burn
  case objectWrite => exact exec_objectWrite_fixed step
  case blockEnableWrite => exact exec_blockEnableWrite_fixed step
  all_goals
    clear boot check lock burn
    obtain rfl := Host.Outcome.next.inj step
    simp [apply_ite State.fixed]

theorem fixed_eq_iff {s t : State} : t.fixed = s.fixed ↔ t.part = s.part ∧ t.pending = s.pending ∧ t.fuses = s.fuses :=
  Prod.ext_iff.trans (and_congr_right' Prod.ext_iff)

/-- Settles O54: what `exec_fixed` says, field by field. -/
theorem onlyFourCommandsChangeFuses : Obligations.OnlyFourCommandsChangeFuses := by
  unfold Obligations.OnlyFourCommandsChangeFuses
  intro c s t step boot check lock burn
  obtain ⟨part, queue, fuses⟩ := fixed_eq_iff.1 (exec_fixed step boot check lock burn)
  exact ⟨fuses, part, queue⟩

/-! ### What the four others do -/

/-- `t` has the part and the queue of `s`, and its fuses are those of `s` or some of them blown further (R398, R407, R414). -/
structure FusesForward (s t : State) : Prop where
  part : t.part = s.part
  queue : t.pending = s.pending
  fieldLock : s.fuses.fieldLock = true → t.fuses.fieldLock = true
  terminal : s.fuses.terminal = true → t.fuses.terminal = true
  counter : s.fuses.counter ≤ 64 → s.fuses.counter ≤ t.fuses.counter ∧ t.fuses.counter ≤ 64

theorem FusesForward.of_fixed {s t : State} (h : t.fixed = s.fixed) : FusesForward s t := by
  obtain ⟨part, queue, fuses⟩ := fixed_eq_iff.1 h
  exact ⟨part, queue, by simp [fuses], by simp [fuses], by simp [fuses]⟩

/-- What a state keeps counts from its part, its queue and its fuses alone. -/
theorem FusesForward.congr {s t u v : State} (h : FusesForward s t) (hs : u.fixed = s.fixed) (ht : v.fixed = t.fixed) :
    FusesForward u v := by
  obtain ⟨sp, sq, sf⟩ := fixed_eq_iff.1 hs
  obtain ⟨tp, tq, tf⟩ := fixed_eq_iff.1 ht
  obtain ⟨part, queue, lock, terminal, counter⟩ := h
  exact ⟨by rw [tp, sp, part], by rw [tq, sq, queue], by rwa [tf, sf], by rwa [tf, sf], by rwa [tf, sf]⟩

theorem enterTerminal_forward (s : State) (p cause code : Nat) : FusesForward s (enterTerminal s p cause code) := by
  refine FusesForward.congr (s := s) (t := { s with fuses := { s.fuses with terminal := true } })
    ⟨rfl, rfl, id, fun _ => rfl, fun h => ⟨le_rfl, h⟩⟩ rfl ?_
  unfold enterTerminal
  simp only [eventAll_fixed, tiesDown_fixed]
  rw [foldl_fixed _ endTerminal_fixed]
  exact haltLegs_fixed _

theorem fuseCounterBurn_forward (s : State) : FusesForward s (fuseCounterBurn s) := by
  unfold fuseCounterBurn
  split
  · exact .of_fixed rfl
  · split
    · exact ⟨rfl, rfl, id, id, fun h => ⟨by simp; omega, by simp⟩⟩
    · exact .of_fixed rfl

theorem fieldLockBurnDone_forward (s : State) : FusesForward s (fieldLockBurnDone s) := by
  unfold fieldLockBurnDone
  split
  · refine FusesForward.congr (s := s) (t := { s with fuses := { s.fuses with fieldLock := true } })
      ⟨rfl, rfl, fun _ => rfl, id, fun h => ⟨le_rfl, h⟩⟩ rfl ?_
    exact foldl_fixed _ (fun s e => by split <;> simp) _ _
  · exact .of_fixed rfl

theorem monumentBoot_forward (s : State) (okA okB : Bool) : FusesForward s (monumentBoot s okA okB) := by
  unfold monumentBoot
  split
  · dsimp only
    split
    · exact .of_fixed (by simp)
    · exact .of_fixed (by simp)
    · exact (enterTerminal_forward (logBoot s) 0 2 0).congr (logBoot_fixed s).symm rfl
  · exact .of_fixed rfl

theorem checkSettings_if_fixed (s : State) (i : Image) (p : Nat) : (if p = 0 then checkSettings s i else s).fixed = s.fixed := by
  split <;> simp

theorem platSelfCheckDone_forward (s : State) (p : Nat) (ok : Bool) (code : Nat) :
    FusesForward s (platSelfCheckDone s p ok code) := by
  unfold platSelfCheckDone
  dsimp only
  split <;> split
  · cases ok
    · exact enterTerminal_forward _ _ _ _
    · exact .of_fixed (by simp [checkSettings_if_fixed])
  · exact .of_fixed rfl
  · cases ok
    · exact enterTerminal_forward _ _ _ _
    · exact .of_fixed (by simp [checkSettings_if_fixed])
  · exact .of_fixed rfl

/-- Every command drives the fuses one way only. -/
theorem exec_forward {c : Instr} {s t : State} (step : exec c s = .next t) : FusesForward s t := by
  by_cases boot : ∃ a b, c = .monumentBoot a b
  · obtain ⟨a, b, rfl⟩ := boot
    obtain rfl := Host.Outcome.next.inj step
    exact monumentBoot_forward ..
  by_cases check : ∃ p ok n, c = .platSelfCheckDone p ok n
  · obtain ⟨p, ok, n, rfl⟩ := check
    obtain rfl := Host.Outcome.next.inj step
    exact platSelfCheckDone_forward ..
  by_cases lock : c = .fieldLockBurnDone
  · subst lock
    obtain rfl := Host.Outcome.next.inj step
    exact fieldLockBurnDone_forward _
  by_cases burn : c = .fuseCounterBurn
  · subst burn
    obtain rfl := Host.Outcome.next.inj step
    exact fuseCounterBurn_forward _
  exact .of_fixed (exec_fixed step (fun a b h => boot ⟨a, b, h⟩) (fun p ok n h => check ⟨p, ok, n, h⟩) lock burn)

/-! ### A step -/

/-- What the tick on an empty queue settles at the next count (log 2). -/
def ticked (s : State) : State :=
  settlePk (settleSvc (flushRecords { settleFills s with sup := { s.sup with now := s.sup.now + 1 } }))

theorem tick_of_not_running {s : State} (h : s.sup.running = false) : tick s = .next s := by
  simp [tick, h]

theorem tick_of_running {s : State} (run : s.sup.running = true) (lt : s.sup.now + 1 < 2 ^ 64) : tick s = .next (ticked s) := by
  rw [tick, if_pos run, if_pos lt]
  rfl

theorem tick_fixed {s t : State} (h : tick s = .next t) : t.fixed = s.fixed := by
  by_cases run : s.sup.running = true
  · by_cases lt : s.sup.now + 1 < 2 ^ 64
    · rw [tick_of_running run lt] at h
      obtain rfl := Host.Outcome.next.inj h
      simp only [ticked, settlePk_fixed, settleSvc_fixed, flushRecords_fixed]
      exact settleFills_fixed s
    · simp only [tick, if_pos run, if_neg lt, reduceCtorEq] at h
  · rw [tick_of_not_running (by simpa using run)] at h
    obtain rfl := Host.Outcome.next.inj h
    rfl

theorem step_nil {s : State} (h : s.pending = []) : step s = tick s := by
  simp [step, h]

theorem step_cons {s : State} {c : Instr} {r : List Instr} (h : s.pending = c :: r) : step s = exec c { s with pending := r } := by
  simp [step, h]

/-- Settles O53: a tick keeps the part, the queue and the fuses (`tick_fixed`), and a command runs on the rest of the queue and
drives the fuses forward (`exec_forward`). -/
theorem everyStepKeepsIdentityAndFuses : Obligations.EveryStepKeepsIdentityAndFuses := by
  unfold Obligations.EveryStepKeepsIdentityAndFuses
  intro s t h
  cases queue : s.pending with
  | nil =>
    rw [step_nil queue] at h
    obtain ⟨part, pending, lock, terminal, counter⟩ := FusesForward.of_fixed (tick_fixed h)
    exact ⟨part, by simp [pending, queue], lock, terminal, counter⟩
  | cons c r =>
    rw [step_cons queue] at h
    obtain ⟨part, pending, lock, terminal, counter⟩ := exec_forward h
    exact ⟨part, pending, lock, terminal, counter⟩

/-- Settles O51: a step on a non-empty queue is `step_cons`; on an empty one it is a tick. -/
theorem stepRunsFrontCommand : Obligations.StepRunsFrontCommand := by
  unfold Obligations.StepRunsFrontCommand
  refine ⟨fun s c r queue => step_cons queue, fun s queue stopped => ?_, fun s queue run lt => ?_⟩
  · rw [step_nil queue, tick_of_not_running stopped]
  · rw [step_nil queue, tick_of_running run lt]
    rfl

end Sys2Proof.Machine
end

section
/-!
The Admin commands (R57, R74, Table 2.8): what each completes with, once its port takes it.
-/
namespace Sys2Proof.Machine
open Sys2Proof Sys2Proof.Laws

/-! ### Completion of an Admin command -/

/-- An Admin command whose body does not wait writes its completion. -/
theorem adminCmd_completes {s : State} {i : Instr} {h : AdmHdr} (H : AdminTakes s i h) {body : State → CmdRes}
    {r : CmdRes} (hr : body (dropAdmin s h.port) = r) (now : r.later = false) :
    adminCmd s i h body = adminRec r.st h.port (.cq (cmdRec r.st h.tag h.flags r.trav r.status r.result)) := by
  subst hr
  rw [adminCmd_takes H, now]
  rfl

/-! ### OPEN_CONTEXT -/

/-- Plats that an OPEN_CONTEXT names by a count (R55). -/
theorem namedPlats_ready {s : State} {b : OpenBody} (h : ∀ p < nPlats s, b.perPlat = true → 0 < b.counts.getD p 0 → ready s p = true) :
    ((List.range (nPlats s)).filter fun p => b.perPlat && decide (0 < b.counts.getD p 0)).all (ready s) = true := by
  rw [List.all_eq_true]
  intro p hp
  simp only [List.mem_filter, List.mem_range, Bool.and_eq_true, decide_eq_true_eq] at hp
  obtain ⟨lt, perPlat, counted⟩ := hp
  exact h p lt perPlat counted

/-- An OPEN_CONTEXT that passes the checks of R55, has its Crew, and finds room for its Stakes opens in the lowest free slot. -/
theorem openContext_opens {s : State} (h : AdmHdr) {b : OpenBody} {c : Nat} {crew : List CrewSlot} (slot : lowestFree s.ctxs 0 64 = some c)
    (formed : openMalformed s b = false) (allowed : openAllowed s h.port b = true)
    (plats : ∀ p < nPlats s, b.perPlat = true → 0 < b.counts.getD p 0 → ready s p = true) (still : (platOf s 0).switching = false)
    (hcrew : formCrew s b = some crew) (room : stakesOn s ((crew.map (·.plat)).headD 0) + b.stakes ≤ 8192) :
    openContext h b s = openIn s h.port c b crew := by
  have checks : firstFail [need (!openMalformed s b && openAllowed s h.port b) CONFIG_REFUSED,
      need (((List.range (nPlats s)).filter fun p => b.perPlat && decide (0 < b.counts.getD p 0)).all (ready s) &&
        !(platOf s 0).switching) NOT_READY] = 0 := by
    rw [namedPlats_ready plats, formed, allowed, still]
    rfl
  simp only [openContext, slot, checks, hcrew, if_pos room]

theorem openIn_result (s : State) (p c : Nat) (b : OpenBody) (crew : List CrewSlot) :
    (openIn s p c b crew).result = c + 256 * freeVf s p + 65536 * crew.length := rfl

theorem exec_openContext {s : State} {h : AdmHdr} {b : OpenBody} {c : Nat} {crew : List CrewSlot}
    (H : AdminTakes s (.openContext h b) h) (slot : lowestFree s.ctxs 0 64 = some c) (formed : openMalformed s b = false)
    (allowed : openAllowed (dropAdmin s h.port) h.port b = true)
    (plats : ∀ p < nPlats s, b.perPlat = true → 0 < b.counts.getD p 0 → ready s p = true) (still : (platOf s 0).switching = false)
    (hcrew : formCrew (dropAdmin s h.port) b = some crew) (room : stakesOn s ((crew.map (·.plat)).headD 0) + b.stakes ≤ 8192) :
    exec (.openContext h b) s = .next (adminRec (openIn (dropAdmin s h.port) h.port c b crew).st h.port
      (.cq (cmdRec (openIn (dropAdmin s h.port) h.port c b crew).st h.tag h.flags 0xFFFF 0
        (c + 256 * freeVf s h.port + 65536 * crew.length)))) := by
  have opens := (notTerminal_takes H (openContext h b)).trans (openContext_opens h slot formed allowed plats still hcrew room)
  exact congrArg _ (adminCmd_completes H opens rfl)

/-! ### The other Admin commands -/

theorem closeContext_closes {s : State} {h : AdmHdr} {c : Nat} {x : Ctx} (hx : ctxOf s c = some x) (hc : c < 64) (port : x.port = h.port) :
    closeContext h c s = { st := closeCtx s c 1 } := by
  simp [closeContext, hx, port, Nat.not_lt.2 (Nat.le_of_lt_succ hc)]

theorem exec_closeContext {s : State} {h : AdmHdr} {c : Nat} {x : Ctx} (H : AdminTakes s (.closeContext h c) h)
    (hx : ctxOf s c = some x) (hc : c < 64) (port : x.port = h.port) :
    exec (.closeContext h c) s = .next (adminRec (closeCtx (dropAdmin s h.port) c 1) h.port
      (.cq (cmdRec (closeCtx (dropAdmin s h.port) c 1) h.tag h.flags 0xFFFF 0 0))) :=
  congrArg _ (adminCmd_completes H (closeContext_closes (s := dropAdmin s h.port) hx hc port) rfl)

theorem exec_queryContexts {s : State} {h : AdmHdr} (H : AdminTakes s (.queryContexts h) h) :
    exec (.queryContexts h) s = .next (adminRec (dropAdmin s h.port) h.port
      (.cq (cmdRec s h.tag h.flags 0xFFFF 0 (s.ctxs.length + 256 * (surveyors s).length + 65536 * freeTotal s)))) :=
  congrArg _ (adminCmd_completes H (body := queryContexts) rfl rfl)

theorem exec_unknownAdmin {s : State} {p tag flags : Nat} (H : AdminTakes s (.unknownOpcode (.admin p) tag flags) ⟨p, tag, flags⟩) :
    exec (.unknownOpcode (.admin p) tag flags) s = .next (adminRec (dropAdmin s p) p
      (.cq (cmdRec s tag flags 0xFFFF CONFIG_REFUSED 0))) :=
  congrArg _ (adminCmd_completes H (notTerminal_takes H fun s => .refuse s CONFIG_REFUSED) rfl)

theorem exec_unknownOfContext {s : State} {c tag flags : Nat} {x : Ctx}
    (H : CtxTakes s (.unknownOpcode (.context c) tag flags) ⟨c, tag, flags⟩ x) :
    exec (.unknownOpcode (.context c) tag flags) s = .next (record (dropEntry s c) c
      (.cq (cmdRec s tag flags 0xFFFF CONFIG_REFUSED 0))) :=
  congrArg _ ((ctxCmd_takes H false fun s _ => .refuse s CONFIG_REFUSED).trans (finishCmd_record _ _ _ rfl (.inl rfl)))

/-- Settles O1: one equation for each command. -/
theorem adminCommandsComplete : Obligations.AdminCommandsComplete := by
  unfold Obligations.AdminCommandsComplete
  exact ⟨fun s h b c crew H slot formed allowed plats still hcrew room =>
      ⟨_, exec_openContext H slot formed allowed plats still hcrew room, rfl⟩,
    fun s h c x H hx hc port => ⟨_, exec_closeContext H hx hc port, rfl⟩,
    fun s h H => exec_queryContexts H, fun s p tag flags H => exec_unknownAdmin H, fun s c tag flags x H => exec_unknownOfContext H⟩

end Sys2Proof.Machine
end

section
/-!
The Traverse commands (R80, R81, R91, Table 2.15): what each does in the states that allow it.
-/
namespace Sys2Proof.Machine
open Sys2Proof Sys2Proof.Laws

/-! ### Completion of a context command -/

/-- A command that its context takes finishes with what its own body says. -/
theorem exec_of_ctxCmd {s : State} {i : Instr} {h : CmdHdr} {x : Ctx} (H : CtxTakes s i h x) {quiet : Bool} {body : State → Ctx → CmdRes}
    (arm : exec i s = .next (ctxCmd s i h quiet body)) {r : CmdRes} (hr : body (dropEntry s h.ctx) x = r) :
    exec i s = .next (finishCmd h quiet r) := by
  rw [arm, ctxCmd_takes H, hr]

/-- The port's link is up, so a host read of its context does not wait (R362). -/
theorem not_hostHeld_of_linkUp {s : State} {c : Nat} {x : Ctx} (hx : ctxOf s c = some x) (up : linkUp s x.port = true) :
    hostHeld s c = false := by
  simp [hostHeld, hx, up]

/-! ### LOAD_TRAVERSE -/

theorem loadTraverse_loads {s : State} {h : CmdHdr} {x : Ctx} {length n : Nat} {b : Bytes} (slot : lowestFree s.travs (travKey h.ctx 0) 64 = some n)
    (room : s.travs.length < 4096) (checks : imageStatus s x length b = 0) :
    loadTraverse h length (some b) s x =
      { st := { s with travs := tput s.travs (travKey h.ctx n) (travOfImage h.ctx x n b) }, result := n, trav := n } := by
  simp [loadTraverse, slot, room.not_ge, checks]

theorem exec_loadTraverse {s : State} {h : CmdHdr} {x : Ctx} {length n : Nat} {b : Bytes} (H : CtxTakes s (.loadTraverse h length (some b)) h x)
    (up : linkUp s x.port = true) (slot : lowestFree s.travs (travKey h.ctx 0) 64 = some n) (room : s.travs.length < 4096)
    (checks : imageStatus (dropEntry s h.ctx) x length b = 0) :
    exec (.loadTraverse h length (some b)) s = .next (finishCmd h false
      { st := { dropEntry s h.ctx with travs := tput s.travs (travKey h.ctx n) (travOfImage h.ctx x n b) }, result := n, trav := n }) := by
  refine exec_of_ctxCmd H (congrArg _ (if_neg ?_)) (loadTraverse_loads (s := dropEntry s h.ctx) slot room checks)
  simp [not_hostHeld_of_linkUp H.1 up]

/-! ### The commands of Table 2.15 -/

section
variable {s : State} {h : CmdHdr} {t : Trav} {n : Nat} (ht : travOf s h.ctx n = some t) (hn : n < 64)
include ht hn

theorem unloadTraverse_resident (st : t.st = .resident) (x : Ctx) : unloadTraverse h n s x =
    { st := freeInbox { s with travs := tdel s.travs (travKey h.ctx n) } h.ctx n, trav := n } := by
  simp [unloadTraverse, ht, hn, st]

theorem runTraverse_starts (st : t.st = .resident) {start : Nat} (due : start ≤ s.sup.now) (deadline : Nat) (x : Ctx) :
    runTraverse h n start deadline s x = { st := startRun s h.ctx n h.tag h.flags s.sup.now deadline, trav := n } := by
  simp [runTraverse, ht, hn, st, due]

theorem runTraverse_waits (st : t.st = .resident) {start : Nat} (ahead : s.sup.now < start) (deadline : Nat) (x : Ctx) :
    runTraverse h n start deadline s x = later (modTrav s h.ctx n fun t =>
      { t with tag := h.tag, flags := h.flags, start := start, deadline := deadline }) h.ctx (.run n h.tag h.flags) := by
  simp [runTraverse, ht, hn, st, ahead.not_ge]

theorem armPeriodic_arms (st : t.st = .resident) {p b0 : Nat} (ahead : s.sup.now + 10000 ≤ b0) (lo : 100000 ≤ p) (hi : p ≤ 1000000000)
    (count : Nat) (x : Ctx) : armPeriodic h n p b0 count s x =
      { st := modTrav s h.ctx n fun t =>
          { t with st := .armed, tag := h.tag, flags := h.flags, b0 := b0, period := p, count := count, next := 0,
                   bases := takeBases s t, disarm := false, skipped := 0 }, trav := n } := by
  simp [armPeriodic, ht, hn, st, ahead, lo, hi]

theorem disarm_armed (st : t.st = .armed) (x : Ctx) :
    disarm h n s x = { st := modTrav s h.ctx n fun t => { t with st := .resident }, trav := n } := by
  simp [disarm, ht, hn.not_ge, st]

theorem cancel_armed (st : t.st = .armed) (x : Ctx) :
    cancel h n s x = { st := modTrav s h.ctx n fun t => { t with st := .resident }, trav := n } := by
  simp [cancel, ht, hn.not_ge, st]

theorem disarm_periodic (st : t.st = .periodic) (x : Ctx) :
    disarm h n s x = later (modTrav s h.ctx n fun t => { t with disarm := true }) h.ctx (.disarm n h.tag h.flags) := by
  simp [disarm, ht, hn.not_ge, st]

/-- A CANCEL of a run or period that no boundary ends yet begins its boundary actions (R97). -/
theorem cancel_active (st : t.st = .running ∨ t.st = .periodic) (run : t.run.isSome = true) (ending : t.ending = []) (x : Ctx) :
    cancel h n s x = later (boundary s h.ctx n s.sup.now true) h.ctx (.cancel n h.tag h.flags) := by
  have notStopping : stopping t = false := by simp [stopping, ending]
  rcases st with st | st <;> simp [cancel, ht, hn.not_ge, st, notStopping, Option.isNone_eq_false_iff.2 run]

end

/-- Settles O4: one equation for each command in the states that allow it. -/
theorem traverseCommandsComplete : Obligations.TraverseCommandsComplete := by
  unfold Obligations.TraverseCommandsComplete
  refine ⟨fun s h x length n b H up slot room checks => exec_loadTraverse H up slot room checks,
    fun s h x t n H ht hn st => ?unload, fun s h x t n start deadline H ht hn st due => ?runNow,
    fun s h x t n start deadline H ht hn st ahead => ?runLater, fun s h x t n p b0 count H ht hn st ahead lo hi => ?arm,
    fun s h x t n ht hn st => ⟨fun H => ?disarmArmed, fun H => ?cancelArmed⟩,
    fun s h x t n H ht hn st => ?disarmPeriodic, fun s h x t n H ht hn st run ending => ?cancelActive⟩
  all_goals replace ht : travOf (dropEntry s h.ctx) h.ctx n = some t := ht
  case unload => exact exec_of_ctxCmd H rfl (unloadTraverse_resident ht hn st x)
  case runNow => exact exec_of_ctxCmd H rfl (runTraverse_starts ht hn st due deadline x)
  case runLater => exact exec_of_ctxCmd H rfl (runTraverse_waits ht hn st ahead deadline x)
  case arm => exact exec_of_ctxCmd H rfl (armPeriodic_arms ht hn st ahead lo hi count x)
  case disarmArmed => exact exec_of_ctxCmd H rfl (disarm_armed ht hn st x)
  case cancelArmed => exact exec_of_ctxCmd H rfl (cancel_armed ht hn st x)
  case disarmPeriodic => exact exec_of_ctxCmd H rfl (disarm_periodic ht hn st x)
  case cancelActive => exact exec_of_ctxCmd H rfl (cancel_active ht hn st run ending x)

end Sys2Proof.Machine
end

section
/-!
Stake commands and Marks (R86, R88, R104, R471), and what signals and records leave as it is.
-/
namespace Sys2Proof.Machine
open Sys2Proof Sys2Proof.Laws

/-! ### Records -/

theorem finishCmd_written (h : CmdHdr) (quiet : Bool) (r : CmdRes) : Written r.st (finishCmd h quiet r) := by
  unfold finishCmd
  split
  · exact .refl _
  · split
    · exact .refl _
    · exact record_written _ _ _

/-- An event that the Fault Log takes in changes, beside the log, what its announcement to the Surveyors changes. -/
theorem logFault_written (s : State) (cls plat kind source detail : Nat) :
    ∃ f, Written { s with flt := f } (logFault s cls plat kind source detail) := by
  unfold logFault
  split
  · exact ⟨s.flt, .refl _⟩
  · dsimp only
    split
    · exact ⟨_, .refl _⟩
    · split
      · exact ⟨_, .refl _⟩
      · split
        · exact ⟨_, eventTo_written _ _ _ _ _⟩
        · exact ⟨_, .refl _⟩

/-- Settles O55: the laws of Written, and `logFault_written` for the Fault Log. -/
theorem recordsChangeRingsOnly : Obligations.RecordsChangeRingsOnly := by
  unfold Obligations.RecordsChangeRingsOnly
  refine ⟨finishCmd_written, event_written, adminRec_written, fun s a b k n d => ?_⟩
  obtain ⟨f, c, p, o, h⟩ := logFault_written s a b k n d
  exact ⟨c, p, o, f, h⟩

/-! ### Signals -/

/-- `t` is `s` but for contexts and Traverses. -/
def Signalled (s t : State) : Prop := ∃ c v, t = { s with ctxs := c, travs := v }

@[refl] theorem Signalled.refl (s : State) : Signalled s s := ⟨s.ctxs, s.travs, rfl⟩

@[trans] theorem Signalled.trans {s t u : State} (h : Signalled s t) (g : Signalled t u) : Signalled s u := by
  obtain ⟨_, _, rfl⟩ := h
  obtain ⟨c, v, rfl⟩ := g
  exact ⟨c, v, rfl⟩

theorem modCtx_signalled (s : State) (c : Nat) (f : Ctx → Ctx) : Signalled s (modCtx s c f) := ⟨_, s.travs, rfl⟩
theorem modTrav_signalled (s : State) (c h : Nat) (f : Trav → Trav) : Signalled s (modTrav s c h f) := ⟨s.ctxs, _, rfl⟩
theorem dropEntry_signalled (s : State) (c : Nat) : Signalled s (dropEntry s c) := modCtx_signalled _ _ _
theorem record_signalled (s : State) (c : Nat) (r : Rec) : Signalled s (record s c r) := modCtx_signalled _ _ _
theorem rescan_signalled (s : State) : Signalled s (rescan s) := ⟨s.ctxs, _, rfl⟩

theorem event_signalled (s : State) (c type status : Nat) (l : List Fld) : Signalled s (event s c type status l) := by
  unfold event
  split
  · exact .refl s
  · exact (modCtx_signalled _ _ _).trans (record_signalled _ _ _)

theorem finishCmd_signalled (h : CmdHdr) (quiet : Bool) (r : CmdRes) : Signalled r.st (finishCmd h quiet r) := by
  unfold finishCmd
  split
  · exact .refl _
  · split
    · exact .refl _
    · exact record_signalled _ _ _

theorem stakePut_signalled (s : State) (v : Nat) (i : StakeId) : Signalled s (stakePut s v i) := by
  cases i
  · exact modCtx_signalled _ _ _
  · exact modTrav_signalled _ _ _ _

theorem stakeAdd_signalled (s : State) (i : StakeId) (n : Nat) : Signalled s (stakeAdd s i n) := by
  unfold stakeAdd
  dsimp only
  split
  · exact (stakePut_signalled _ _ _).trans (event_signalled _ _ _ _ _)
  · exact stakePut_signalled _ _ _

theorem signalRef_signalled (s : State) (c : Nat) (h : Option Nat) (r n : Nat) : Signalled s (signalRef s c h r n) := by
  unfold signalRef
  split
  · exact .refl s
  · exact stakeAdd_signalled _ _ _

theorem foldl_signalled {β : Type} (f : State → β → State) (hf : ∀ s b, Signalled s (f s b)) (l : List β) (s : State) :
    Signalled s (l.foldl f s) := by
  induction l generalizing s with
  | nil => exact .refl s
  | cons b r ih => exact (hf s b).trans (ih (f s b))

theorem applySignals_signalled (s : State) (l : LegRef) (g : Leg) (st : Nat) (cond : Bool) :
    Signalled s (applySignals s l g st cond) :=
  (foldl_signalled _ (fun s _ => signalRef_signalled s _ _ _ _) _ _).trans (rescan_signalled _)

/-! ### The completion of a Leg (R86, R96) -/

/-- `t` is `s` but for contexts, Traverses, cameras and pairs. -/
def LegSettled (s t : State) : Prop := ∃ c v a p, t = { s with ctxs := c, travs := v, cams := a, pairs := p }

theorem Signalled.legSettled {s t : State} (h : Signalled s t) : LegSettled s t := by
  obtain ⟨c, v, rfl⟩ := h
  exact ⟨c, v, s.cams, s.pairs, rfl⟩

@[trans] theorem LegSettled.trans {s t u : State} (h : LegSettled s t) (g : LegSettled t u) : LegSettled s u := by
  obtain ⟨_, _, _, _, rfl⟩ := h
  obtain ⟨c, v, a, p, rfl⟩ := g
  exact ⟨c, v, a, p, rfl⟩

theorem foldl_legSettled {β : Type} (f : State → β → State) (hf : ∀ s b, LegSettled s (f s b)) (l : List β) (s : State) :
    LegSettled s (l.foldl f s) := by
  induction l generalizing s with
  | nil => exact (Signalled.refl s).legSettled
  | cons b r ih => exact (hf s b).trans (ih (f s b))

theorem releaseViews_legSettled (s : State) (w : Who) : LegSettled s (releaseViews s w) :=
  LegSettled.trans ⟨s.ctxs, s.travs, _, _, rfl⟩ (foldl_legSettled _ (fun s _ => ⟨s.ctxs, s.travs, _, s.pairs, rfl⟩) _ _)

theorem closeRun_legSettled (s : State) (c h : Nat) : LegSettled s (closeRun s c h) := by
  unfold closeRun
  split
  · exact (Signalled.refl s).legSettled
  · split
    · exact (Signalled.refl s).legSettled
    · split
      · exact ((record_signalled _ _ _).trans (modTrav_signalled _ _ _ _)).legSettled.trans (releaseViews_legSettled _ _)
      · exact (Signalled.refl s).legSettled

theorem recordIf_signalled (b : Bool) (s : State) (c : Nat) (r : Rec) : Signalled s (if b then record s c r else s) := by
  split
  · exact record_signalled _ _ _
  · exact .refl s

theorem completeLegAt_legSettled (s : State) (l : LegRef) (st warn : Nat) (cond : Bool) (tier stamp : Nat) :
    LegSettled s (completeLegAt s l st warn cond tier stamp) := by
  unfold completeLegAt
  split
  · split
    · dsimp only
      refine LegSettled.trans ?_ (closeRun_legSettled _ _ _)
      split
      · exact ((modTrav_signalled _ _ _ _).trans (recordIf_signalled _ _ _ _)).legSettled
      · exact (((modTrav_signalled _ _ _ _).trans (recordIf_signalled _ _ _ _)).trans (applySignals_signalled _ _ _ _ _)).legSettled
    · exact (Signalled.refl s).legSettled
  · exact (Signalled.refl s).legSettled

/-- Settles O58: the completion changes contexts, Traverses, cameras and pairs alone. -/
theorem legCompletionFrame : Obligations.LegCompletionFrame := by
  unfold Obligations.LegCompletionFrame
  rintro s t l st ret cond tier rfl
  obtain ⟨c, v, a, p, e⟩ := completeLegAt_legSettled s l st ret cond tier s.sup.now
  rw [completeLeg, e]
  exact ⟨rfl, rfl, rfl, rfl, rfl, rfl, rfl, rfl, rfl⟩

/-! ### Stake values -/

/-- Every Stake of `t` has the value that it has in `s`. -/
def StakesKept (s t : State) : Prop := ∀ i, stakeVal t i = stakeVal s i

theorem StakesKept.trans {s t u : State} (h : StakesKept s t) (g : StakesKept t u) : StakesKept s u := fun i => (g i).trans (h i)

theorem modCtx_stakesKept (s : State) (c : Nat) {f : Ctx → Ctx} (hf : ∀ x, (f x).stakes = x.stakes) : StakesKept s (modCtx s c f) := by
  intro i
  cases i with
  | loc c h n => rfl
  | ctx d n =>
    simp only [stakeVal]
    by_cases hd : d = c
    · subst hd
      rw [ctxOf_modCtx_same]
      cases ctxOf s d <;> simp [hf]
    · rw [ctxOf_modCtx_ne _ _ hd]

/-- A Traverse once the waits of its Legs have been evaluated. -/
def rescanned (s : State) (t : Trav) : Trav :=
  { t with run := t.run.map fun r => { r with legs := (t.legs.zip r.legs).map fun p => settle s t r.k p.1 p.2 } }

theorem travOf_rescan (s : State) (c h : Nat) : travOf (rescan s) c h = (travOf s c h).map (rescanned s) :=
  tget_map s.travs (rescanned s) _

theorem rescan_stakesKept (s : State) : StakesKept s (rescan s) := by
  intro i
  cases i with
  | ctx c n => rfl
  | loc c h n =>
    simp only [stakeVal, travOf_rescan]
    cases travOf s c h <;> rfl

theorem record_stakesKept (s : State) (c : Nat) (r : Rec) : StakesKept s (record s c r) := modCtx_stakesKept _ _ fun _ => rfl
theorem dropEntry_stakesKept (s : State) (c : Nat) : StakesKept s (dropEntry s c) := modCtx_stakesKept _ _ fun _ => rfl

theorem event_stakesKept (s : State) (c type status : Nat) (l : List Fld) : StakesKept s (event s c type status l) := by
  unfold event
  split
  · exact fun _ => rfl
  · refine StakesKept.trans (modCtx_stakesKept _ _ ?_) (record_stakesKept _ _ _)
    exact fun _ => rfl

theorem finishCmd_stakesKept (h : CmdHdr) (quiet : Bool) (r : CmdRes) : StakesKept r.st (finishCmd h quiet r) := by
  unfold finishCmd
  split
  · exact fun _ => rfl
  · split
    · exact fun _ => rfl
    · exact record_stakesKept _ _ _

/-- Giving a context Stake a value changes no other Stake. -/
theorem stakeVal_stakePut_ne (s : State) (v c n : Nat) {i : StakeId} (h : i ≠ .ctx c n) :
    stakeVal (stakePut s v (.ctx c n)) i = stakeVal s i := by
  cases i with
  | loc c h n => rfl
  | ctx d m =>
    simp only [stakeVal, stakePut]
    by_cases hd : d = c
    · subst hd
      have other : n ≠ m := fun e => h (e ▸ rfl)
      rw [ctxOf_modCtx_same]
      cases ctxOf s d <;> simp [List.getElem?_set_ne other]
    · rw [ctxOf_modCtx_ne _ _ hd]

theorem stakeVal_stakeAdd_ne (s : State) (c n a : Nat) {i : StakeId} (h : i ≠ .ctx c n) :
    stakeVal (stakeAdd s (.ctx c n) a) i = stakeVal s i := by
  unfold stakeAdd
  dsimp only
  split
  · exact (event_stakesKept _ _ _ _ _ i).trans (stakeVal_stakePut_ne s _ c n h)
  · exact stakeVal_stakePut_ne s _ c n h

/-- A reference of a command names a Stake of a context, never one of a Traverse (R471). -/
theorem cmdStake_ctx {s : State} {x : Ctx} {c ref : Nat} {sig : Bool} {i : StakeId} (h : cmdStake s x c ref sig = .ok i) :
    ∃ d n, i = .ctx d n := by
  simp only [cmdStake] at h
  split at h
  · next passed =>
    split at h
    · next id named =>
      obtain rfl := Except.ok.inj h
      have space : refSpace ref ≠ 1 := by
        rintro one
        simp [firstFail, refField, one] at passed
      simp only [stakeRef] at named
      split at named
      · simp at named
      · split at named
        · obtain ⟨-, e⟩ := Option.ite_none_right_eq_some.1 named
          exact ⟨_, _, (Option.some.inj e).symm⟩
        · next one => exact absurd one space
        · split at named
          · simp at named
          · obtain ⟨-, e⟩ := Option.ite_none_right_eq_some.1 named
            exact ⟨_, _, (Option.some.inj e).symm⟩
        · simp at named
    · simp at h
  · simp at h

/-! ### The Stake commands -/

theorem exec_stakeSet {s : State} {h : CmdHdr} {x : Ctx} {ref v : Nat} {i : StakeId} (H : CtxTakes s (.stakeSet h ref v) h x)
    (named : cmdStake (dropEntry s h.ctx) x h.ctx ref true = .ok i) (hv : v < 4294967296) :
    exec (.stakeSet h ref v) s = .next (finishCmd h true { st := rescan (stakePut (dropEntry s h.ctx) v i) }) :=
  exec_of_ctxCmd H rfl (by simp [stakeSet, named, Nat.mod_eq_of_lt hv])

theorem exec_stakeAdd {s : State} {h : CmdHdr} {x : Ctx} {ref n : Nat} {i : StakeId} (H : CtxTakes s (.stakeAdd h ref n) h x)
    (named : cmdStake (dropEntry s h.ctx) x h.ctx ref true = .ok i) :
    exec (.stakeAdd h ref n) s = .next (finishCmd h true { st := rescan (stakeAdd (dropEntry s h.ctx) i n) }) :=
  exec_of_ctxCmd H rfl (by simp [stakeAddCmd, named])

theorem exec_stakeRead {s : State} {h : CmdHdr} {x : Ctx} {ref : Nat} {i : StakeId} (H : CtxTakes s (.stakeRead h ref) h x)
    (named : cmdStake (dropEntry s h.ctx) x h.ctx ref false = .ok i) :
    exec (.stakeRead h ref) s = .next (finishCmd h false { st := dropEntry s h.ctx, result := stakeVal (dropEntry s h.ctx) i }) :=
  exec_of_ctxCmd H rfl (by simp [stakeRead, named])

/-- A grantee that is another open context has lost nothing with the command's entry. -/
theorem ctxOf_dropEntry_ne (s : State) {c d : Nat} (h : d ≠ c) : ctxOf (dropEntry s c) d = ctxOf s d := ctxOf_modCtx_ne _ _ h

/-- What a grantee holds once slot `i` gives it Stake `n` of context `c`, announced by STAKE_GRANTED (R88). -/
def grantStake (s : State) (c n grantee i rights : Nat) : State :=
  event (modCtx s grantee fun y => { y with grants := tput y.grants i ⟨c, n, bit rights 0, bit rights 1⟩ }) grantee 0x0003 0
    [(0x10, 1, i), (0x11, 1, c), (0x12, 1, rights % 4)]

theorem stakeGrant_new {s : State} {h : CmdHdr} {x y : Ctx} {n grantee rights slot : Nat} (hy : ctxOf s grantee = some y)
    (hn : n < x.stakes.length) (hg : grantee < 64) (other : grantee ≠ h.ctx) (anyRight : rights % 4 ≠ 0)
    (fresh : grantSlot y h.ctx n = none) (free : lowestFree y.grants 0 256 = some slot) :
    stakeGrant h n grantee rights s x = { st := rescan (grantStake s h.ctx n grantee slot rights), result := slot } := by
  have checks : ¬ (x.stakes.length ≤ n ∨ 63 < grantee ∨ grantee = h.ctx ∨ rights % 4 = 0) := by omega
  simp only [stakeGrant, hy, if_neg checks, fresh, free]
  rfl

theorem stakeRevoke_held {s : State} {h : CmdHdr} {x y : Ctx} {n grantee slot : Nat} (hy : ctxOf s grantee = some y)
    (hn : n < x.stakes.length) (hg : grantee < 64) (held : grantSlot y h.ctx n = some slot) :
    stakeRevoke h n grantee s x = { st := rescan (revokeGrant s grantee slot) } := by
  have checks : ¬ (x.stakes.length ≤ n ∨ 63 < grantee) := by omega
  simp [stakeRevoke, hy, if_neg checks, held]

/-- Settles O2: one equation for each command. -/
theorem stakeCommandsComplete : Obligations.StakeCommandsComplete := by
  unfold Obligations.StakeCommandsComplete
  refine ⟨fun s h x ref v i H named hv => exec_stakeSet H named hv, fun s h x ref n i H named => exec_stakeAdd H named,
    fun s h x ref i H named => ?read, fun s h x y n grantee rights slot H hy hn hg other anyRight fresh free => ?grant,
    fun s h x y n grantee slot H hy hn hg other held => ?revoke⟩
  case read => exact (exec_stakeRead H named).trans (congrArg _ (finishCmd_record _ _ _ rfl (.inl rfl)))
  case grant =>
    rw [← ctxOf_dropEntry_ne s other] at hy
    exact ⟨_, exec_of_ctxCmd H rfl (stakeGrant_new hy hn hg other anyRight fresh free), rfl⟩
  case revoke =>
    rw [← ctxOf_dropEntry_ne s other] at hy
    exact exec_of_ctxCmd H rfl (stakeRevoke_held hy hn hg held)

/-! ### The frame of the Stake commands -/

/-- What a Stake command may do to the package: contexts and Traverses, and the value of `named` alone. -/
def StakeFrame (named : StakeId → Prop) (s t : State) : Prop := Signalled s t ∧ ∀ i, ¬ named i → stakeVal t i = stakeVal s i

theorem StakeFrame.refl (p : StakeId → Prop) (s : State) : StakeFrame p s s := ⟨.refl s, fun _ _ => rfl⟩

theorem StakeFrame.trans {p : StakeId → Prop} {s t u : State} (h : StakeFrame p s t) (g : StakeFrame p t u) : StakeFrame p s u :=
  ⟨h.1.trans g.1, fun i hi => (g.2 i hi).trans (h.2 i hi)⟩

theorem StakesKept.frame {s t : State} (h : StakesKept s t) (g : Signalled s t) (p : StakeId → Prop) : StakeFrame p s t :=
  ⟨g, fun i _ => h i⟩

theorem finishCmd_frame (p : StakeId → Prop) (h : CmdHdr) (quiet : Bool) (r : CmdRes) : StakeFrame p r.st (finishCmd h quiet r) :=
  (finishCmd_stakesKept h quiet r).frame (finishCmd_signalled h quiet r) p

theorem rescan_frame (p : StakeId → Prop) (s : State) : StakeFrame p s (rescan s) := (rescan_stakesKept s).frame (rescan_signalled s) p

theorem event_frame (p : StakeId → Prop) (s : State) (c type status : Nat) (l : List Fld) : StakeFrame p s (event s c type status l) :=
  (event_stakesKept s c type status l).frame (event_signalled s c type status l) p

/-- A context command changes what its body changes, with the entry gone and the completion written. -/
theorem ctxCmd_frame {p : StakeId → Prop} {s : State} {h : CmdHdr} {body : State → Ctx → CmdRes}
    (hb : ∀ x, ctxOf s h.ctx = some x → StakeFrame p (dropEntry s h.ctx) (body (dropEntry s h.ctx) x).st) (i : Instr) (quiet : Bool) :
    StakeFrame p s (ctxCmd s i h quiet body) := by
  have drop := (dropEntry_stakesKept s h.ctx).frame (dropEntry_signalled s h.ctx) p
  unfold ctxCmd
  split
  · exact .refl p s
  · next x hx =>
    split
    · dsimp only
      split
      · exact drop.trans (finishCmd_frame p _ _ _)
      · exact (drop.trans (hb x hx)).trans (finishCmd_frame p _ _ _)
    · exact .refl p s

/-- The Stake that a reference of the context names for a signal. -/
def NamedStake (s : State) (h : CmdHdr) (ref : Nat) (i : StakeId) : Prop :=
  ∃ x, ctxOf s h.ctx = some x ∧ cmdStake (dropEntry s h.ctx) x h.ctx ref true = .ok i

theorem stakeSet_frame {s : State} {h : CmdHdr} {ref : Nat} {x : Ctx} (hx : ctxOf s h.ctx = some x) (v : Nat) :
    StakeFrame (NamedStake s h ref) (dropEntry s h.ctx) (stakeSet h ref v (dropEntry s h.ctx) x).st := by
  unfold stakeSet
  split
  · next i named =>
    obtain ⟨c, n, rfl⟩ := cmdStake_ctx named
    refine StakeFrame.trans ⟨stakePut_signalled _ _ _, fun i hi => stakeVal_stakePut_ne _ _ _ _ ?_⟩ (rescan_frame _ _)
    rintro rfl
    exact hi ⟨x, hx, named⟩
  · exact .refl _ _

theorem stakeAddCmd_frame {s : State} {h : CmdHdr} {ref : Nat} {x : Ctx} (hx : ctxOf s h.ctx = some x) (v : Nat) :
    StakeFrame (NamedStake s h ref) (dropEntry s h.ctx) (stakeAddCmd h ref v (dropEntry s h.ctx) x).st := by
  unfold stakeAddCmd
  split
  · next i named =>
    obtain ⟨c, n, rfl⟩ := cmdStake_ctx named
    refine StakeFrame.trans ⟨stakeAdd_signalled _ _ _, fun i hi => stakeVal_stakeAdd_ne _ _ _ _ ?_⟩ (rescan_frame _ _)
    rintro rfl
    exact hi ⟨x, hx, named⟩
  · exact .refl _ _

theorem stakeRead_frame (p : StakeId → Prop) (s : State) (h : CmdHdr) (ref : Nat) (x : Ctx) : StakeFrame p s (stakeRead h ref s x).st := by
  unfold stakeRead
  split <;> exact .refl p s

theorem grantStake_frame (p : StakeId → Prop) (s : State) (c n grantee i rights : Nat) :
    StakeFrame p s (rescan (grantStake s c n grantee i rights)) := by
  refine ((StakesKept.frame (modCtx_stakesKept s grantee ?_) (modCtx_signalled _ _ _) p).trans (event_frame p _ _ _ _ _)).trans
    (rescan_frame p _)
  exact fun _ => rfl

theorem revokeGrant_frame (p : StakeId → Prop) (s : State) (grantee slot : Nat) :
    StakeFrame p s (rescan (revokeGrant s grantee slot)) := by
  refine ((StakesKept.frame (modCtx_stakesKept s grantee ?_) (modCtx_signalled _ _ _) p).trans (event_frame p _ _ _ _ _)).trans
    (rescan_frame p _)
  exact fun _ => rfl

theorem stakeGrant_frame (p : StakeId → Prop) (s : State) (h : CmdHdr) (n grantee rights : Nat) (x : Ctx) :
    StakeFrame p s (stakeGrant h n grantee rights s x).st := by
  unfold stakeGrant
  split
  · exact .refl p s
  · split
    · exact .refl p s
    · dsimp only
      split
      · exact grantStake_frame p s _ _ _ _ _
      · split
        · exact .refl p s
        · exact grantStake_frame p s _ _ _ _ _

theorem stakeRevoke_frame (p : StakeId → Prop) (s : State) (h : CmdHdr) (n grantee : Nat) (x : Ctx) :
    StakeFrame p s (stakeRevoke h n grantee s x).st := by
  unfold stakeRevoke
  split
  · exact .refl p s
  · split
    · exact .refl p s
    · exact revokeGrant_frame p s _ _

/-- A Stake command that is no STAKE_SET and no STAKE_ADD names no Stake to change. -/
def ChangedStake (s : State) (c : Instr) (h : CmdHdr) (ref : Nat) (i : StakeId) : Prop :=
  (∃ v, c = .stakeSet h ref v ∨ c = .stakeAdd h ref v) ∧ NamedStake s h ref i

theorem stakeCommand_frame {s t : State} {c : Instr} {h : CmdHdr} {ref : Nat}
    (hc : (∃ v, c = .stakeSet h ref v ∨ c = .stakeAdd h ref v) ∨ c = .stakeRead h ref ∨
      (∃ g r, c = .stakeGrant h ref g r ∨ c = .stakeRevoke h ref g)) (step : exec c s = .next t) :
    StakeFrame (ChangedStake s c h ref) s t := by
  have onlyNamed {u v : State} (changes : ∃ v, c = .stakeSet h ref v ∨ c = .stakeAdd h ref v)
      (f : StakeFrame (NamedStake s h ref) u v) : StakeFrame (ChangedStake s c h ref) u v :=
    ⟨f.1, fun i hi => f.2 i fun named => hi ⟨changes, named⟩⟩
  rcases hc with ⟨v, rfl | rfl⟩ | rfl | ⟨g, r, rfl | rfl⟩ <;> obtain rfl := Host.Outcome.next.inj step
  · exact onlyNamed ⟨v, .inl rfl⟩ (ctxCmd_frame (fun x hx => stakeSet_frame hx v) _ _)
  · exact onlyNamed ⟨v, .inr rfl⟩ (ctxCmd_frame (fun x hx => stakeAddCmd_frame hx v) _ _)
  · exact ctxCmd_frame (fun x _ => stakeRead_frame _ _ h ref x) _ _
  · exact ctxCmd_frame (fun x _ => stakeGrant_frame _ _ h ref g r x) _ _
  · exact ctxCmd_frame (fun x _ => stakeRevoke_frame _ _ h ref g x) _ _

/-- Settles O56: a Stake command changes contexts and Traverses, and of the Stakes' values that of the Stake named alone. -/
theorem stakeCommandsFrame : Obligations.StakeCommandsFrame := by
  unfold Obligations.StakeCommandsFrame
  intro s t c h ref hc step
  obtain ⟨⟨cs, v, e⟩, values⟩ := stakeCommand_frame hc step
  have stakes : ∀ i, (∀ x v, ctxOf s h.ctx = some x → c = .stakeSet h ref v ∨ c = .stakeAdd h ref v →
      cmdStake (dropEntry s h.ctx) x h.ctx ref true ≠ .ok i) → stakeVal t i = stakeVal s i :=
    fun i unnamed => values i fun ⟨⟨v, changes⟩, x, hx, named⟩ => unnamed x v hx changes named
  subst e
  exact ⟨rfl, rfl, rfl, rfl, rfl, rfl, rfl, rfl, rfl, rfl, rfl, rfl, rfl, rfl, rfl, rfl, rfl, rfl, rfl, stakes⟩

/-! ### Marks -/

theorem markCompletion_ready {s : State} {c : Nat} {x : Ctx} {m : MarkWait} {rest : List MarkWait} (hx : ctxOf s c = some x)
    (first : x.marks = m :: rest) (command : m.leg = none) (ready : markReady s c x m = true) :
    markCompletion s c = flushRecords (record (modCtx s c fun x => { x with marks := rest }) c
      (.cq { tag := m.tag, status := 0, kind := 0, stamp := m.stamp, irq := m.irq })) := by
  simp [markCompletion, hx, first, command, ready]

theorem flushReadReturn_of_flushing {s : State} {p : Nat} (h : (portOf s p).flushing.isSome = true) (ok : Bool) :
    flushReadReturn s p ok = if ok then markScan (modPort s p fun x => { x with flushing := none })
      else emit s (.hostRead p (adbBase (portOf s p)) 16 none) := if_pos h

/-- Settles O3: the command's body, the oldest Mark that may be written, and the return of a flush read. -/
theorem marksComplete : Obligations.MarksComplete := by
  unfold Obligations.MarksComplete
  exact ⟨fun s h x H => exec_of_ctxCmd H (quiet := false) (body := mark h) rfl rfl,
    fun s c x m rest hx first command ready => congrArg _ (markCompletion_ready hx first command ready),
    fun s p flushing => ⟨congrArg _ (flushReadReturn_of_flushing flushing true), congrArg _ (flushReadReturn_of_flushing flushing false)⟩⟩

end Sys2Proof.Machine
end

section
/-!
Datum Time and the Chain Unit (chapter 3): partner time, SYNC_IN and clears, the commands on a Chain Group, Sample Blocks from commit to
processing, TAKE.
-/
namespace Sys2Proof.Machine
open Sys2Proof Sys2Proof.Laws

/-! ### PTM dialogues (R112 to R114, R358) -/

theorem ptmDialogueStart_due {s : State} {p : Nat} (on : ptmOn s p = true) (idle : (portOf s p).ptm.asked = none)
    (due : ∀ t, (portOf s p).ptm.startAt = some t → t + s.dtm.ptmInterval.inForce ≤ s.sup.now) :
    ptmDialogueStart s p = modPort (emit s (.ptmRequest p)) p fun x =>
      { x with ptm := { x.ptm with asked := some s.sup.now, startAt := some s.sup.now } } := by
  unfold ptmDialogueStart
  cases start : (portOf s p).ptm.startAt with
  | none => simp [on, idle, start]
  | some t => simp [on, idle, start, due t start]

theorem ptmResponse_inTime {s : State} {p t1 : Nat} (asked : (portOf s p).ptm.asked = some t1) (inTime : s.sup.now ≤ t1 + 10000)
    (up : linkUp s p = true) (t2 d : Nat) {held : List (Nat × Nat × Nat × Nat)}
    (hheld : held = ((t1, s.sup.now, t2, t2 + d) :: (portOf s p).ptm.held).take 16) :
    ptmResponse s p t2 d = setMapValid { modPort s p (fun x =>
      { x with ptm := { x.ptm with held := held, asked := none, okRow := (portOf s p).ptm.okRow + 1, failRow := 0,
                                   d0 := ((t1 + s.sup.now) / 2 : Nat), h0 := ((t2 + (t2 + d)) / 2 : Nat),
                                   u := ((s.sup.now : Int) - t1 - (((t2 + d : Nat) : Int) - t2)) / 2,
                                   rate := rateOf held s.free } }) with free := s.free + 1 } p
      ((portOf s p).ptm.valid || decide (4 ≤ (portOf s p).ptm.okRow + 1)) := by
  subst hheld
  simp only [ptmResponse, asked]
  exact if_pos ⟨inTime, up⟩

theorem ptmTimeout_due {s : State} {p t1 : Nat} (asked : (portOf s p).ptm.asked = some t1) (due : t1 + 10000 ≤ s.sup.now) {u : State}
    (hu : u = modPort s p (fun x => { x with ptm := { x.ptm with asked := none, okRow := 0, failRow := (portOf s p).ptm.failRow + 1 } })) :
    ptmTimeout s p = if 3 ≤ (portOf s p).ptm.failRow + 1 then setMapValid u p false else u := by
  subst hu
  simp only [ptmTimeout, asked]
  exact if_pos due

theorem timeMap_due {s : State} {p : Nat} (hp : p < nHost s) (run : s.sup.running = true) (on : s.dtm.mapInterval.inForce ≠ 0)
    (due : (portOf s p).ptm.mapAt + s.dtm.mapInterval.inForce * 1000000 ≤ s.sup.now) :
    timeMap s p = timeMapAll (modPort s p fun x => { x with ptm := { x.ptm with mapAt := s.sup.now } }) p :=
  if_pos ⟨hp, run, on, due⟩

theorem timeMapRead_answers {s : State} {p : Nat} (hp : p < nHost s) (up : inL0 s p = true) (h : CmdHdr) (x : Ctx) :
    timeMapRead h p s x = { st := event s h.ctx 0x0118 0 (timeMapPayload s p) } := by
  simp [timeMapRead, hp, up]

/-! ### SYNC_IN (R117 to R119) and clears (R148 to R150) -/

theorem Signalled.groups_eq {s t : State} (h : Signalled s t) : t.groups = s.groups := by
  obtain ⟨c, v, rfl⟩ := h
  rfl

theorem Signalled.dtm_eq {s t : State} (h : Signalled s t) : t.dtm = s.dtm := by
  obtain ⟨c, v, rfl⟩ := h
  rfl

theorem eventTo_signalled (s : State) (l : List Nat) (type status : Nat) (payload : List Fld) :
    Signalled s (eventTo s l type status payload) := foldl_signalled _ (fun s _ => event_signalled s _ _ _ _) l s

/-- The package once an edge of time `te` has been kept, counted and announced. -/
def edgeAnnounced (s : State) (te : Nat) : State :=
  (syncActions s).foldl (fun s g => eventTo s (syncCtxs s g) 0x0116 0 [(0x12, 1, g), (0x18, 8, te)])
    { s with dtm := { s.dtm with syncTe := te, lastEdge := some te, accepted := (s.dtm.accepted + 1) % 65536 } }

/-- Announcing an edge changes neither the groups nor which sync groups are enabled. -/
theorem acceptEdge_eq (s : State) (te : Nat) :
    acceptEdge s te = { edgeAnnounced s te with groups := s.groups.map fun e =>
      (e.1, if (syncActions s).contains e.2.sync then { e.2 with syncDue := e.2.syncDue ++ [te + 24] } else e.2) } := by
  have announced := foldl_signalled (fun s g => eventTo s (syncCtxs s g) 0x0116 0 [(0x12, 1, g), (0x18, 8, te)])
    (fun s _ => eventTo_signalled s _ _ _ _) (syncActions s)
    { s with dtm := { s.dtm with syncTe := te, lastEdge := some te, accepted := (s.dtm.accepted + 1) % 65536 } }
  have actions : syncActions (edgeAnnounced s te) = syncActions s := by
    unfold syncActions edgeAnnounced
    rw [announced.dtm_eq]
  have groups : (edgeAnnounced s te).groups = s.groups := announced.groups_eq
  rw [← groups, ← actions]
  rfl

theorem syncGroupClear_due {s : State} {c h tc : Nat} {g : Chain} {rest : List Nat} (hg : tget s.groups (groupKey c h) = some g)
    (first : g.syncDue = tc :: rest) (due : tc ≤ s.sup.now) :
    syncGroupClear s c h = if past g ((tc * 4294967296 : Nat) : Int) then
        event (modGroup s (groupKey c h) fun g => { g with late := true, syncDue := rest }) c 0x0117 0
          [(0x10, 2, h), (0x12, 1, g.sync), (0x18, 8, tc)]
      else modGroup s (groupKey c h) fun g => { g with clears := g.clears ++ [((tc * 4294967296 : Nat) : Int)], syncDue := rest } := by
  simp only [syncGroupClear, hg, first]
  exact if_pos due

/-- TIMED_CLEAR asks whether a member is past the clear time. -/
theorem anyPast_iff {s : State} {mine : List Nat} {t : Int} :
    (mine.any fun k => ((tget s.groups k).map fun g => past g t).getD false) = true ↔
      ∃ k ∈ mine, ∃ g, tget s.groups k = some g ∧ past g t = true := by
  rw [List.any_eq_true]
  refine exists_congr fun k => and_congr_right fun _ => ?_
  cases tget s.groups k <;> simp

theorem timedClear_gives {s : State} {h : CmdHdr} {sync tc : Nat} {t : Int} {mine : List Nat} (hs : sync ≤ 15)
    (ht : t = ((tc * 4294967296 : Nat) : Int)) (hmine : mine = (s.groups.filter fun e => e.2.ctx == h.ctx && e.2.sync == sync).map (·.1))
    (clear : ∀ k ∈ mine, ∀ g, tget s.groups k = some g → past g t = false) (x : Ctx) :
    timedClear h sync tc s x = { st := mine.foldl (fun s k => modGroup s k fun g => { g with clears := g.clears ++ [t] }) s } := by
  subst ht hmine
  refine if_neg ?_
  rw [anyPast_iff]
  rintro (far | ⟨k, hk, g, hg, isPast⟩)
  · omega
  · exact Bool.eq_false_iff.1 (clear k hk g hg) isPast

theorem timedClear_refuses {s : State} {h : CmdHdr} {sync tc k : Nat} {t : Int} {g : Chain} (ht : t = ((tc * 4294967296 : Nat) : Int))
    (hk : k ∈ (s.groups.filter fun e => e.2.ctx == h.ctx && e.2.sync == sync).map (·.1)) (hg : tget s.groups k = some g)
    (isPast : past g t = true) (x : Ctx) : timedClear h sync tc s x = .refuse s CONFIG_REFUSED := by
  subst ht
  exact if_pos (.inr (anyPast_iff.2 ⟨k, hk, g, hg, isPast⟩))

/-- Settles O5: one equation for each step. -/
theorem timeStepsComplete : Obligations.TimeStepsComplete := by
  unfold Obligations.TimeStepsComplete
  refine ⟨⟨fun s p on idle due => congrArg _ (ptmDialogueStart_due on idle due), ?response,
    fun s u p t1 asked due hu => congrArg _ (ptmTimeout_due asked due hu),
    fun s p hp run on due => congrArg _ (timeMap_due hp run on due),
    fun s h x p H hp up => exec_of_ctxCmd H rfl (timeMapRead_answers (s := dropEntry s h.ctx) hp up h x)⟩, ?edge, ?soon, ?clears, ?timed⟩
  case response =>
    rintro s u p t1 t2 d held asked inTime up hheld rfl
    exact congrArg _ (ptmResponse_inTime asked inTime up t2 d hheld)
  case edge =>
    rintro s u rising width te run on active long rfl apart rfl
    have far : ¬ s.dtm.lastEdge.any (fun l => decide (s.sup.now - 2 < l + 1000)) = true := by
      cases last : s.dtm.lastEdge with
      | none => simp
      | some l => simpa using apart l last
    exact congrArg _ ((syncInEdge_active run on active long).trans ((if_neg far).trans (acceptEdge_eq s _)))
  case soon =>
    intro s rising width l run on active long last near
    refine congrArg _ ((syncInEdge_active run on active long).trans (if_pos ?_))
    simp [last, near]
  case clears =>
    rintro s c h tc t g rest hg first due rfl
    have step := syncGroupClear_due hg first due
    exact ⟨fun no => congrArg _ (step.trans (if_neg (Bool.eq_false_iff.1 no))), fun yes => congrArg _ (step.trans (if_pos yes))⟩
  case timed =>
    intro s h x sync tc t mine H hs ht hmine
    refine ⟨fun clear => exec_of_ctxCmd H rfl (timedClear_gives (s := dropEntry s h.ctx) hs ht hmine clear x), ?_⟩
    subst hmine
    exact fun k hk g hg isPast => exec_of_ctxCmd H rfl (timedClear_refuses (s := dropEntry s h.ctx) ht hk hg isPast x)

/-! ### Commands on a Chain Group (R126 to R128, R140) -/

theorem chainBind_binds {s : State} {h : CmdHdr} {x : Ctx} {b : ChainBindBody} {d : Bytes} {n slot : Nat}
    (fields : chainBindFields s h.ctx b = true) (inService : namesOut s h.ctx b.desc = false) (hd : cmdRead s h.ctx b.desc 512 = some d)
    (checks : chainBindStatus s h.ctx x b d = 0) (hn : lowestFree s.groups (groupKey h.ctx 0) 4096 = some n)
    (hslot : lowestFree (portOf s b.port).slots 0 1024 = some slot) :
    chainBind h b s x =
      { st := modPort { s with groups := tput s.groups (groupKey h.ctx n) (chainOf h.ctx b d
                (if fld d 5 1 = 0 then [] else coeffTable ((chainCoeff s h.ctx d).getD [])) n slot) } b.port fun y =>
              { y with slots := tput y.slots slot {} }, result := n + 4096 * slot } := by
  simp [chainBind, fields, inService, hd, checks, hn, hslot]

theorem groupCmd_on {s : State} {h : CmdHdr} {n : Nat} {g : Chain} (hn : n < 4096) (hg : tget s.groups (groupKey h.ctx n) = some g)
    (f : State → Chain → State) (x : Ctx) : groupCmd h n f s x = { st := f s g } := by
  simp [groupCmd, hn, hg]

/-- Settles O7: CHAIN_BIND by `chainBind_binds`, the others by what `groupCmd_on` runs. -/
theorem chainCommandsComplete : Obligations.ChainCommandsComplete := by
  unfold Obligations.ChainCommandsComplete
  refine ⟨?bind, ?commands⟩
  case bind =>
    intro s h x b d n slot H fields inService hd checks hn hslot
    exact ⟨_, _, rfl, rfl, rfl, rfl, rfl, rfl, rfl, rfl, rfl, rfl, rfl, rfl, rfl, rfl,
      exec_of_ctxCmd H rfl (chainBind_binds (s := dropEntry s h.ctx) fields inService hd checks hn hslot)⟩
  case commands =>
    rintro s h x n g hn hg own rfl
    have hg' : tget (dropEntry s h.ctx).groups (groupKey h.ctx g.handle) = some g := hg
    refine ⟨fun H => ?_, fun H => ?_, fun H => ?_⟩
    · exact exec_of_ctxCmd H rfl ((groupCmd_on hn hg' chainStart x).trans (by rw [chainStart, own]; rfl))
    · exact exec_of_ctxCmd H rfl ((groupCmd_on hn hg' chainStop x).trans (by rw [chainStop, own]))
    · exact exec_of_ctxCmd H rfl ((groupCmd_on hn hg' endGroup x).trans (by rw [endGroup, own]; rfl))

/-! ### Sample Blocks (R120 to R125, R139, R151) -/

theorem portOf_modSlot (s : State) (p slot : Nat) (f : Slot → Slot) :
    tget (portOf (modSlot s p slot f) p).slots slot = (tget (portOf s p).slots slot).map f := by
  simp [modSlot]

/-- The bytes of a header lie where it was written, behind the payload. -/
theorem rdBytes_wrBytes (m : Mem) (a : Nat) (d : Bytes) : rdBytes (wrBytes m a d) a d.length = d := by
  refine List.ext_getElem (by simp [rdBytes]) fun i _ hi => ?_
  simp [rdBytes, rdByte_wrBytes_in d m a i hi]

/-- A header written whole into a slot without a copy under way commits its block. -/
theorem slotWrite_header {x : Slot} {hd : Bytes} (idle : x.staged = none) (whole : x.split = false) (len : hd.length = 64) :
    (slotWrite x 0x1000 hd).staged = some ((wrBytes x.bytes 0x1000 hd).filter (fun c => decide (c.1 < 0x1000)), hd) := by
  have back := rdBytes_wrBytes x.bytes 0x1000 hd
  rw [len] at back
  have all : hd.take 64 = hd := by rw [← len, List.take_length]
  simp [slotWrite, slotStore, idle, whole, len, back, all]

theorem sampleBlockCommit_writes {s : State} {p slot : Nat} {hd : Bytes} {x : Slot} (up : linkUp s p = true)
    (on : (portOf s p).ctrl.enable = true) (chain : bit (portOf s p).cfg.inForce 1 = true) (hx : tget (portOf s p).slots slot = some x)
    (len : hd.length = 64) : sampleBlockCommit s p slot hd = modSlot s p slot fun x => slotWrite x 0x1000 hd := by
  have all : hd.take 64 = hd := by rw [← len, List.take_length]
  simp [sampleBlockCommit, up, on, chain, hx, all]

/-- The slot's port when its staging copy has ended and the writes held for it are in. -/
def copyEnded (s : State) (p slot : Nat) : State := modSlot s p slot fun x =>
  x.held.foldl (fun y w => slotWrite y w.1 w.2) { x with staged := none, split := false, held := [] }

theorem stagingCopyDone_checks {s : State} {p slot k : Nat} {x : Slot} {g : Chain} {m : Mem} {hd : Bytes}
    (hx : tget (portOf s p).slots slot = some x) (staged : x.staged = some (m, hd)) (hg : slotGroup s p slot = some (k, g)) :
    stagingCopyDone s p slot = checkBlock (copyEnded s p slot) k g (!x.split) hd m := by
  simp only [stagingCopyDone, hx, hg, Option.bind_some, staged, Option.map_some, Option.getD_some]
  rfl

theorem checkBlock_discards {s : State} {k : Nat} {g : Chain} {whole : Bool} {hd : Bytes} {m : Mem}
    (h : blockReason s g whole hd m ≠ 0) : checkBlock s k g whole hd m =
      event s g.ctx 0x0113 (if blockReason s g whole hd m = 3 then INTEGRITY else CONFIG_REFUSED)
        [(0x10, 2, g.handle), (0x12, 1, blockReason s g whole hd m), (0x14, 4, fld hd 4 4)] := by
  unfold checkBlock
  split
  · next e _ => exact absurd e h
  · next e _ => exact absurd e h
  · rfl

theorem checkBlock_passes {s : State} {k : Nat} {g : Chain} {whole : Bool} {hd : Bytes} {m : Mem} {tov : Int}
    (h : blockReason s g whole hd m = 0) (ht : blockTime s g.port hd = some tov) :
    checkBlock s k g whole hd m = if g.st = .stopped then s else acceptBlock s k g hd m tov := by
  simp only [checkBlock, h, ht]

/-- The block that a group takes in. -/
def acceptedBlock (g : Chain) (hd : Bytes) (m : Mem) (tov : Int) : Block :=
  { tov := tov, interval := fld hd 0x10 8, frames := blockFrames hd m,
    restart := blockBreak g hd tov != 0 || g.again || decide (g.st = .lost), ext := extremes (fld hd 0x1A 1) }

/-- A group that has taken a block in at Datum Time `now`. -/
def blockTaken (g : Chain) (hd : Bytes) (m : Mem) (tov : Int) (now : Nat) : Chain :=
  { g with blocks := g.blocks ++ [acceptedBlock g hd m tov], lastSeq := some (fld hd 4 4),
           predict := some (tov + ((fld hd 0x18 2 * fld hd 0x10 8 : Nat) : Int)), interval := fld hd 0x10 8,
           blockNs := fld hd 0x18 2 * fld hd 0x10 8, again := false,
           starveAt := some (starvesAt g now (fld hd 0x18 2 * fld hd 0x10 8)),
           st := if g.st = .lost then startedState g else g.st, recovering := g.recovering || decide (g.st = .lost) }

/-- The package when a block has joined its group's buffer, a broken line announced. -/
def blockJoined (s : State) (k : Nat) (g : Chain) (hd : Bytes) (m : Mem) (tov : Int) : State :=
  if blockBreak g hd tov = 0 then modGroup s k fun _ => blockTaken g hd m tov s.sup.now
  else event (modGroup s k fun _ => blockTaken g hd m tov s.sup.now) g.ctx 0x0114 0 [(0x10, 2, g.handle), (0x12, 1, blockBreak g hd tov)]

theorem acceptBlock_eq (s : State) (k : Nat) (g : Chain) (hd : Bytes) (m : Mem) (tov : Int) :
    acceptBlock s k g hd m tov = signal (blockJoined s k g hd m tov) g.ctx none g.arrive 1 := rfl

theorem group_blockJoined {s : State} {k : Nat} {g : Chain} (hg : tget s.groups k = some g) (hd : Bytes) (m : Mem) (tov : Int) :
    tget (blockJoined s k g hd m tov).groups k = some (blockTaken g hd m tov s.sup.now) := by
  unfold blockJoined
  split
  · simp [hg]
  · rw [(event_signalled _ _ _ _ _).groups_eq]
    simp [hg]

theorem acceptedBlock_restart_iff (g : Chain) (hd : Bytes) (m : Mem) (tov : Int) :
    (acceptedBlock g hd m tov).restart = true ↔ blockBreak g hd tov ≠ 0 ∨ g.again = true ∨ g.st = .lost := by
  simp [acceptedBlock, or_assoc]

/-- Settles O9: what the group is once it has the block (`group_blockJoined`), and why the block restarts it. -/
theorem acceptedBlockState : Obligations.AcceptedBlockState := by
  unfold Obligations.AcceptedBlockState
  intro s k g hd m tov hg
  exact ⟨_, acceptedBlock g hd m tov, acceptBlock_eq s k g hd m tov, group_blockJoined hg hd m tov, rfl, rfl, rfl,
    acceptedBlock_restart_iff g hd m tov⟩

theorem starvationTimeout_due {s : State} {c h t : Nat} {g : Chain} (hg : tget s.groups (groupKey c h) = some g)
    (timer : g.starveAt = some t) (due : t ≤ s.sup.now) (runs : g.st = .running ∨ g.st = .suspect) :
    starvationTimeout s c h = event
      (modGroup s (groupKey c h) fun g => { restartGroup g with st := .lost, starveAt := none, blocks := [] }) c 0x0110 STREAM_LOST
      [(0x10, 2, h), (0x14, 8, tovInt g.good), (0x1C, 4, tovFrac g.good)] := by
  simp only [starvationTimeout, hg, timer]
  exact if_pos ⟨due, runs⟩

/-- A group after the samples of the block at the head of its buffer, with their effects (R125). -/
def blockPassed (s : State) (g : Chain) (b : Block) (rest : List Block) : ChainAcc :=
  (enum b.frames).foldl (fun a e => sampleStep b a e.1 e.2) { g := { g with blocks := rest }, free := s.free }

theorem chainBlockProcess_head {s : State} {c h : Nat} {g : Chain} {b : Block} {rest : List Block}
    (hg : tget s.groups (groupKey c h) = some g) (head : g.blocks = b :: rest) :
    chainBlockProcess s c h = applyFx { modGroup s (groupKey c h) (fun _ => (blockPassed s g b rest).g) with
      free := (blockPassed s g b rest).free } c g.queueObj (blockPassed s g b rest).fx.reverse := by
  simp only [chainBlockProcess, hg, head]
  rfl

/-- A TAKE that is well formed takes its entries off the queue and completes with them (R143, R144). -/
theorem take_takes {s : State} {l : LegRef} {g : Leg} {x : LegRun} {o : OpEnt} {k : Nat} {q : Chain} (run : legRuns s l = true)
    (hl : legOf s l = some g) (hx : runOf s l = some x) (kind : g.kind = 5) (sub : g.subop / 4096 = 1) (cap : g.subop % 4096 ≠ 0)
    (ho : opAt g 0 = some o) (out : isOut o = true) (hq : takeGroup s l.ctx g.desc = some (k, q))
    (room : 32 + g.subop % 4096 * entrySize q.nch ≤ opRoom s l.ctx o) :
    take s l = finishLeg (modGroup s k fun q => { q with queue := q.queue.drop (takeCount g x q), lostN := 0 }) l
      (takeOut s l g x q o) := by
  simp only [take, hl, hx, run, kind, hq, ho, decide_true, Bool.and_self, if_true]
  exact if_pos ⟨sub, cap, out, room⟩

theorem execTake_good (s : State) (l : LegRef) : exec (.take l ⟨false⟩) s = .next (onSnaps s l fun u => take u l) := rfl

/-- Settles O8: one equation for each step of a stream. -/
theorem chainStreamsComplete : Obligations.ChainStreamsComplete := by
  unfold Obligations.ChainStreamsComplete
  refine ⟨⟨?commit, ?copy, fun s c h t g hg timer due runs => congrArg _ (starvationTimeout_due hg timer due runs)⟩,
    fun s c h g b rest hg head => ⟨_, rfl, congrArg _ (chainBlockProcess_head hg head)⟩, ?take⟩
  case commit =>
    intro s p slot hd x up on chain hx idle whole len
    refine ⟨modSlot s p slot fun x => slotWrite x 0x1000 hd, slotWrite x 0x1000 hd,
      congrArg Host.Outcome.next (sampleBlockCommit_writes up on chain hx len), ?_, slotWrite_header idle whole len, rfl⟩
    rw [portOf_modSlot, hx]
    rfl
  case copy =>
    intro s p slot k x g m hd hx staged hg
    have step := stagingCopyDone_checks hx staged hg
    refine ⟨copyEnded s p slot, rfl, ?_, fun tov passes time => congrArg _ (step.trans (checkBlock_passes passes time))⟩
    rintro r rfl fails
    exact congrArg _ (step.trans (checkBlock_discards fails))
  case take =>
    rintro s u l g x o k n q rfl run hl hx kind sub cap ho out hq room rfl
    have took : exec (.take l ⟨false⟩) s = _ := congrArg (fun t => Host.Outcome.next (snapsOut s l t))
      (take_takes run hl hx kind sub cap ho out hq room)
    exact ⟨_, took, rfl, rfl, rfl, rfl, rfl⟩

end Sys2Proof.Machine
end

section
/-!
Frame intake (R156 to R173): the frame commands, writes into the Intake Aperture, the end of a frame's pass, recommendations, and the
frame's Time of Validity.
-/
namespace Sys2Proof.Machine
open Sys2Proof Sys2Proof.Laws

/-! ### Time of Validity (R162) -/

/-- Settles O11: an exposure unit is 2^31 and half a row time 2^23 units of 2^-32 ns. -/
theorem frameTovExact : Obligations.FrameTovExact := by
  unfold Obligations.FrameTovExact
  intro t r hrows
  simp only [frameTov]
  push_cast [Nat.cast_sub hrows]
  ring

/-! ### Commands (R168) -/

theorem frameBind_binds {s : State} {h : CmdHdr} {x : Ctx} {desc camera port mode n w : Nat} {d : Bytes}
    (fields : frameBindFields s port mode = true) (inService : namesOut s h.ctx desc = false) (hd : cmdRead s h.ctx desc 256 = some d)
    (checks : frameBindStatus s h.ctx x port d = 0) (hn : lowestFree s.cams (camKey h.ctx 0) 256 = some n)
    (hw : freeWindow s port = some w) :
    frameBind h desc camera port mode s x =
      { st := { s with cams := tput s.cams (camKey h.ctx n) (camOf h.ctx n w camera port mode d) }, result := n + 4096 * w } := by
  simp [frameBind, fields, inService, hd, checks, hn, hw]

theorem camCmd_on {s : State} {h : CmdHdr} {n : Nat} {c : Cam} (hn : n < 256) (hc : tget s.cams (camKey h.ctx n) = some c)
    (f : State → Nat → Cam → CmdRes) (x : Ctx) : camCmd h n f s x = f s (camKey h.ctx n) c := by
  simp [camCmd, hn, hc]

theorem exposureControl_sets {on lag : Nat} (hon : on ≤ 1) (hlag : lag ≤ 4) (s : State) (k : Nat) (c : Cam) :
    exposureControl on lag s k c = { st := modCam s k fun c => { c with loop := on == 1, lag := if lag = 0 then c.lag else lag } } :=
  if_neg (by omega)

theorem frameUnbind_free {s : State} {c : Cam} (idle : viewBusy s c.ctx c.view = false)
    (pairIdle : ∀ k p, pairOf s c = some (k, p) → viewBusy s c.ctx p.view = false) (k : Nat) :
    frameUnbind s k c = { st := endCam s k } := by
  have notBusy : ((pairOf s c).any fun p => viewBusy s c.ctx p.2.view) = false := by
    cases pair : pairOf s c with
    | none => rfl
    | some e => exact pairIdle e.1 e.2 pair
  simp [frameUnbind, idle, notBusy]

/-- Two cameras as a pair of handle `n`, before the frames they hold form its first pairs. -/
def pairMade (s : State) (c n : Nat) (b : PairBindBody) (l r : Cam) : State :=
  modCam (modCam { s with pairs := tput s.pairs (pairKey c n) (pairOfCams c n b l r) }
    (camKey c b.left) (fun x => { x with paired := some n })) (camKey c b.right) fun x => { x with paired := some n }

theorem pairBind_binds {s : State} {h : CmdHdr} {x : Ctx} {b : PairBindBody} {l r : Cam} {n : Nat}
    (hl : tget s.cams (camKey h.ctx b.left) = some l) (hr : tget s.cams (camKey h.ctx b.right) = some r)
    (checks : pairBindStatus s h.ctx x b l r = 0) (hn : lowestFree s.pairs (pairKey h.ctx 0) 128 = some n) :
    pairBind h b s x = 
      { st := formPairs (l.frames.length + r.frames.length) (pairMade s h.ctx n b l r) (pairKey h.ctx n), result := n } := by
  simp [pairBind, hl, hr, checks, hn, pairMade]

theorem pairUnbind_free {s : State} {h : CmdHdr} {n : Nat} {p : Pair} (hn : n < 128) (hp : tget s.pairs (pairKey h.ctx n) = some p)
    (idle : viewBusy s h.ctx p.view = false) (x : Ctx) : pairUnbind h n s x = { st := endPair s (pairKey h.ctx n) } := by
  simp [pairUnbind, hn, hp, idle]

/-! ### Writes into the Intake Aperture (R159, R356, R357) -/

theorem intakeApertureWrite_taken {s : State} {p : Nat} {d : Bytes} (up : linkUp s p = true) (data : d ≠ []) (on : intakeOn s p = true)
    (off : Nat) : intakeApertureWrite s p off d =
      if off < 0x800000000 then windowWrite s p (off / 0x8000000) (off % 0x8000000) d else slotsWrite s p (off - 0x800000000) d := by
  simp [intakeApertureWrite, up, data, on]

theorem frameRecordCommit_commits {s : State} {p w k : Nat} {c : Cam} {r : Bytes} (up : linkUp s p = true)
    (hw : windowCam s p w = some (k, c)) (on : intakeOn s p = true) (len : r.length = 128) :
    frameRecordCommit s p w r = pageWrite s k 0 r := by
  simp [frameRecordCommit, up, hw, on, ← len]

/-! ### The end of a frame's pass (Table 4.2, R160, R161) -/

/-- A camera whose oldest committed frame leaves the pass. -/
def frameOff (s : State) (k : Nat) (rest : List (Bytes × Bool × Fill)) : State := modCam s k fun x => { x with staged := rest }

/-- A frame without a place: its camera's pixels in buffer `i`. -/
def checkedPixels (s : State) (x : Cam) (i : Nat) : Mem :=
  framePixels s x { index := 0, seq := 0, tov := 0, buffer := i, record := [], stats := [] }

section
variable {s : State} {c h : Nat} {x : Cam} {r : Bytes} {whole : Bool} {f : Fill} {rest : List (Bytes × Bool × Fill)}
  (hx : tget s.cams (camKey c h) = some x) (head : x.staged = (r, whole, f) :: rest)
include hx head

theorem frameCheckDone_foreign (bad : whole = false ∨ fld r 0 4 ≠ x.camera) :
    frameCheckDone s c h = discardFrame (frameOff s (camKey c h) rest) (camKey c h) x r 1 := by
  simp only [frameCheckDone, hx, head]
  exact if_pos (bad.imp_left (by simp [·]))

theorem frameCheckDone_malformed (w : whole = true) (own : fld r 0 4 = x.camera) (bad : recordOk x r = false) :
    frameCheckDone s c h = discardFrame (frameOff s (camKey c h) rest) (camKey c h) x r 2 := by
  simp [frameCheckDone, hx, head, w, own, bad, frameOff]

theorem frameCheckDone_stopped (w : whole = true) (own : fld r 0 4 = x.camera) (good : recordOk x r = true) (off : x.running = false) :
    frameCheckDone s c h = discardFrame (frameOff s (camKey c h) rest) (camKey c h) x r 6 := by
  simp [frameCheckDone, hx, head, w, own, good, off, frameOff]

theorem frameCheckDone_unbuffered (w : whole = true) (own : fld r 0 4 = x.camera) (good : recordOk x r = true)
    (on : x.running = true) (no : ∀ i, f ≠ .buffer i) :
    frameCheckDone s c h = discardFrame (frameOff s (camKey c h) rest) (camKey c h) x r 5 := by
  cases f with
  | buffer i => exact absurd rfl (no i)
  | none | wait _ | sink => simp [frameCheckDone, hx, head, w, own, good, on, frameOff]

end

theorem startTime_frameOff (s : State) (k : Nat) (rest : List (Bytes × Bool × Fill)) (n p : Nat) (r : Bytes) :
    startTime { frameOff s k rest with free := n } p r = startTime s p r := rfl

section
variable {s : State} {c h : Nat} {x : Cam} {r : Bytes} {i : Nat} {rest : List (Bytes × Bool × Fill)}
  (hx : tget s.cams (camKey c h) = some x) (head : x.staged = (r, true, .buffer i) :: rest) (own : fld r 0 4 = x.camera)
  (good : recordOk x r = true) (on : x.running = true)
include hx head own good on

theorem frameCheckDone_corrupt
    (bad : crc32c (rdBytes (checkedPixels (frameOff s (camKey c h) rest) x i) 0 (fld r 0x20 4)) ≠ fld r 0x30 4) :
    frameCheckDone s c h = discardFrame (frameOff s (camKey c h) rest) (camKey c h) x r 3 := by
  simp only [checkedPixels, frameOff] at bad
  simp [frameCheckDone, hx, head, own, good, on, bad, frameOff]

theorem frameCheckDone_untimed
    (crc : crc32c (rdBytes (checkedPixels (frameOff s (camKey c h) rest) x i) 0 (fld r 0x20 4)) = fld r 0x30 4)
    (time : startTime s x.port r = none) : frameCheckDone s c h =
      discardFrame { frameOff s (camKey c h) rest with free := s.free + 2 } (camKey c h) x r 4 := by
  rw [← startTime_frameOff s (camKey c h) rest (s.free + 2)] at time
  simp only [checkedPixels, frameOff] at crc
  simp [frameOff] at time
  simp [frameCheckDone, hx, head, own, good, on, crc, time, frameOff]

theorem frameCheckDone_accepted {t : Int}
    (crc : crc32c (rdBytes (checkedPixels (frameOff s (camKey c h) rest) x i) 0 (fld r 0x20 4)) = fld r 0x30 4)
    (time : startTime s x.port r = some t) : frameCheckDone s c h =
      acceptFrame { frameOff s (camKey c h) rest with free := s.free + 2 } (camKey c h) x r i
        (measure x (checkedPixels (frameOff s (camKey c h) rest) x i) r s.free) t := by
  rw [← startTime_frameOff s (camKey c h) rest (s.free + 2)] at time
  simp only [checkedPixels, frameOff] at crc
  simp [frameOff] at time
  simp [frameCheckDone, hx, head, own, good, on, crc, time, frameOff, checkedPixels]

end

/-! ### Exposure Recommendations (R171, R173) -/

/-- A camera's recommendation has been issued as an event. -/
def recommended (s : State) (c h : Nat) (x : Cam) (e : ExpRec) : State :=
  event (modCam s (camKey c h) fun x => { x with due := none, recs := (e :: x.recs).take 16 }) c 0x0122 0
    [(0x10, 2, h), (0x14, 32, leNat (expRecBytes x.camera s.sup.now e))]

/-- The function of the camera's port through which its mailbox is reached (log 30). -/
def mailboxFn (s : State) (c : Nat) (x : Cam) : Fn :=
  match ctxOf s c with
  | some y => if y.port = x.port then .vf y.vf else .pf
  | none => .pf

theorem exposureRec_due {s : State} {c h : Nat} {x : Cam} {e : ExpRec} (hx : tget s.cams (camKey c h) = some x) (due : x.due = some e) :
    exposureRec s c h = if fld x.desc 0x28 8 = 0 then recommended s c h x e else
      postData (recommended s c h x e) x.port (mailboxFn (recommended s c h x e) c x) (fld x.desc 0x28 8)
        (expRecBytes x.camera s.sup.now e) := by
  simp only [exposureRec, hx, due]
  rfl

/-- Settles O10: one equation for each command and step. -/
theorem framesComplete : Obligations.FramesComplete := by
  unfold Obligations.FramesComplete
  refine ⟨⟨?bind, ?commands, ?pair, ?unpair⟩, fun s p off d up data on => congrArg _ (intakeApertureWrite_taken up data on off),
    fun s p w k r c up hw on len => congrArg _ (frameRecordCommit_commits up hw on len), ?check, ?recommend⟩
  case bind =>
    intro s h x desc camera port mode n w d H fields inService hd checks hn hw
    refine ⟨_, rfl, rfl, rfl, rfl, rfl, rfl, rfl, by simp [camOf, camBuffers], rfl, rfl, ?_⟩
    exact exec_of_ctxCmd H rfl (frameBind_binds (s := dropEntry s h.ctx) fields inService hd checks hn hw)
  case commands =>
    intro s h x n c hn hc
    have hc' : tget (dropEntry s h.ctx).cams (camKey h.ctx n) = some c := hc
    exact ⟨fun H => exec_of_ctxCmd H rfl (camCmd_on hn hc' frameStart x), fun H => exec_of_ctxCmd H rfl (camCmd_on hn hc' frameStop x),
      fun on lag hon hlag H => exec_of_ctxCmd H rfl ((camCmd_on hn hc' _ x).trans (exposureControl_sets hon hlag _ _ _)),
      fun idle pairIdle H => exec_of_ctxCmd H rfl ((camCmd_on hn hc' _ x).trans (frameUnbind_free idle pairIdle _))⟩
  case pair =>
    intro s h x b l r n H hl hr checks hn
    exact ⟨_, exec_of_ctxCmd H rfl (pairBind_binds (s := dropEntry s h.ctx) hl hr checks hn), rfl⟩
  case unpair =>
    intro s h x n p H hn hp idle
    exact exec_of_ctxCmd H rfl (pairUnbind_free (s := dropEntry s h.ctx) hn hp idle x)
  case check =>
    intro s c h x r whole f rest hx head
    refine ⟨frameOff s (camKey c h) rest, rfl, fun bad => congrArg _ (frameCheckDone_foreign hx head bad),
      fun w own bad => congrArg _ (frameCheckDone_malformed hx head w own bad),
      fun w own good off => congrArg _ (frameCheckDone_stopped hx head w own good off),
      fun w own good on no => congrArg _ (frameCheckDone_unbuffered hx head w own good on no), ?_⟩
    rintro i m rfl own good on rfl rfl
    exact ⟨fun bad => congrArg _ (frameCheckDone_corrupt hx head own good on bad),
      fun crc time => congrArg _ (frameCheckDone_untimed hx head own good on crc time),
      fun t crc time => congrArg _ (frameCheckDone_accepted hx head own good on crc time)⟩
  case recommend =>
    intro s c h x e hx due
    exact ⟨recommended s c h x e, congrArg Host.Outcome.next (exposureRec_due hx due), rfl⟩

end Sys2Proof.Machine
end

section
/-!
Pure functions of the engines: packed tensor elements (R193), association (R244), the projected end of a solve (R268) and the order of
merged hits (R298).
-/
namespace Sys2Proof.Machine
open Sys2Proof Sys2Proof.Laws

/-! ### Little-endian bytes as digits -/

theorem leNat_eq_ofDigits (b : Bytes) : leNat b = Nat.ofDigits 256 (b.map BitVec.toNat) := by
  induction b with
  | nil => rfl
  | cons a r ih => simp [leNat, Nat.ofDigits_cons, ih]

theorem byteDigits_lt (b : Bytes) : ∀ d ∈ b.map BitVec.toNat, d < 256 := by
  simp only [List.mem_map]
  rintro d ⟨a, -, rfl⟩
  exact a.isLt

theorem leNat_drop (b : Bytes) (k : Nat) : leNat (b.drop k) = leNat b / 256 ^ k := by
  rw [leNat_eq_ofDigits, leNat_eq_ofDigits, List.map_drop,
    Nat.ofDigits_div_pow_eq_ofDigits_drop k (by decide) _ (byteDigits_lt b)]

theorem leNat_take (b : Bytes) (k : Nat) : leNat (b.take k) = leNat b % 256 ^ k := by
  rw [leNat_eq_ofDigits, leNat_eq_ofDigits, List.map_take,
    Nat.ofDigits_mod_pow_eq_ofDigits_take k (by decide) _ (byteDigits_lt b)]

theorem fld_eq (b : Bytes) (o n : Nat) : fld b o n = leNat b / 256 ^ o % 256 ^ n := by
  rw [fld, leNat_take, leNat_drop]

theorem leNat_le (n v : Nat) : leNat (le n v) = v % 256 ^ n := by
  induction n generalizing v with
  | zero => simp [le, leNat, Nat.mod_one]
  | succ n ih => rw [le, leNat, ih, pow_succ', Nat.mod_mul]; rfl

/-! ### Packed elements (R193) -/

theorem fmtBits_range (c : Nat) : 1 < 2 ^ fmtBits c ∧ fmtBits c ≤ 32 := by
  rcases Nat.lt_or_ge c 12 with h | h
  · interval_cases c <;> decide
  · simp [fmtBits, h]

/-- The number whose digits of `n` bits are the patterns of a row. -/
theorem packRow_eq (n : Nat) (l : List Nat) : packRow n l = le (ceilDiv (n * l.length) 8) (Nat.ofDigits (2 ^ n) l) := by
  simp [packRow, Nat.ofDigits_eq_foldr]

theorem leNat_packRow {n : Nat} (hn : 1 < 2 ^ n) {l : List Nat} (small : ∀ p ∈ l, p < 2 ^ n) : leNat (packRow n l) = Nat.ofDigits (2 ^ n) l := by
  rw [packRow_eq, leNat_le, Nat.mod_eq_of_lt]
  calc Nat.ofDigits (2 ^ n) l < (2 ^ n) ^ l.length := Nat.ofDigits_lt_base_pow_length hn small
    _ = 2 ^ (n * l.length) := (pow_mul ..).symm
    _ ≤ 2 ^ (8 * ceilDiv (n * l.length) 8) := Nat.pow_le_pow_right (by decide) (by unfold ceilDiv; omega)
    _ = 256 ^ ceilDiv (n * l.length) 8 := pow_mul 2 8 _

/-- Digit `i` of a number is found by its bits alone. -/
theorem ofDigits_digit {n : Nat} {l : List Nat} (small : ∀ p ∈ l, p < 2 ^ n) {i : Nat} (hi : i < l.length) :
    Nat.ofDigits (2 ^ n) l / 2 ^ (i * n) % 2 ^ n = l[i] := by
  rw [mul_comm, pow_mul, Nat.ofDigits_div_pow_eq_ofDigits_drop i (by positivity) _ small, List.drop_eq_getElem_cons hi,
    Nat.ofDigits_cons, Nat.add_mul_mod_self_left]
  exact Nat.mod_eq_of_lt (small _ (List.getElem_mem hi))

/-- Five bytes from the byte that holds bit `b` hold the `n` bits from `b`. -/
theorem window_bits (v b : Nat) {n : Nat} (hn : n ≤ 32) : v / 256 ^ (b / 8) % 256 ^ 5 / 2 ^ (b % 8) % 2 ^ n = v / 2 ^ b % 2 ^ n := by
  have split : 2 ^ b = 256 ^ (b / 8) * 2 ^ (b % 8) := by
    rw [show 256 = 2 ^ 8 from rfl, ← pow_mul, ← pow_add, Nat.div_add_mod]
  have wide : 256 ^ 5 = 2 ^ (b % 8) * 2 ^ (40 - b % 8) := by rw [← pow_add, show b % 8 + (40 - b % 8) = 40 by omega]; rfl
  rw [split, ← Nat.div_div_eq_div_mul, wide, Nat.mod_mul_right_div_self,
    Nat.mod_mod_of_dvd _ (pow_dvd_pow 2 (by omega : n ≤ 40 - b % 8))]

/-- Settles O15: the row is a number whose digits are the patterns, and the window read holds the digit asked for. -/
theorem packedElementsReadBack : Obligations.PackedElementsReadBack := by
  unfold Obligations.PackedElementsReadBack
  rintro n i l x rfl packed small hi
  have row : x.t.rowAt 0 0 0 = 0 := by simp [TDesc.rowAt]
  rw [TData.raw, row, Nat.zero_add, fld_eq, packed, leNat_packRow (fmtBits_range _).1 small, window_bits _ _ (fmtBits_range _).2, ofDigits_digit small hi,
    List.getElem?_eq_getElem hi]

/-! ### Association (R244 step 5) -/

/-- The pair that association takes first: the nearer, or of equals the lower slot and detection. -/
def nearerPair (a : Option (Val × Nat × Nat)) (e : Val × Nat × Nat) : Option (Val × Nat × Nat) :=
  match a with
  | none => some e
  | some b => if e.1.lt b.1 || (!b.1.lt e.1 && lexLt [e.2.1, e.2.2] [b.2.1, b.2.2]) then some e else a

theorem nearerPair_or (a : Option (Val × Nat × Nat)) (e : Val × Nat × Nat) : nearerPair a e = some e ∨ nearerPair a e = a := by
  cases a with
  | none => exact .inl rfl
  | some b => exact ite_eq_or_eq ..

theorem foldl_nearerPair_mem (l : List (Val × Nat × Nat)) (a : Option (Val × Nat × Nat)) {b : Val × Nat × Nat}
    (h : l.foldl nearerPair a = some b) : a = some b ∨ b ∈ l := by
  induction l generalizing a with
  | nil => exact .inl h
  | cons e l ih =>
    rcases ih _ h with h' | h'
    · rcases nearerPair_or a e with near | near
      · exact .inr (by rw [near] at h'; cases h'; exact List.mem_cons_self)
      · exact .inl (near ▸ h')
    · exact .inr (List.mem_cons_of_mem _ h')

theorem associate_succ (n : Nat) (l : List (Val × Nat × Nat)) : associate (n + 1) l = (l.foldl nearerPair none).elim []
    fun b => b :: associate n (l.filter fun e => e.2.1 != b.2.1 && e.2.2 != b.2.2) := by
  simp only [associate]
  generalize hb : List.foldl _ none l = best
  have same : l.foldl nearerPair none = best := hb
  rw [same]
  cases best <;> rfl

theorem associate_subset (n : Nat) (l : List (Val × Nat × Nat)) : ∀ e ∈ associate n l, e ∈ l := by
  induction n generalizing l with
  | zero => simp [associate]
  | succ n ih =>
    rw [associate_succ]
    cases best : l.foldl nearerPair none with
    | none => simp
    | some b =>
      have hb : b ∈ l := (foldl_nearerPair_mem l none best).resolve_left nofun
      simp only [Option.elim_some, List.mem_cons, forall_eq_or_imp]
      exact ⟨hb, fun e he => List.mem_of_mem_filter (ih _ e he)⟩

/-- Of the pairs taken after the first, none has its slot or its detection. -/
theorem associate_apart (n : Nat) (l : List (Val × Nat × Nat)) :
    (associate n l).Pairwise fun a b => a.2.1 ≠ b.2.1 ∧ a.2.2 ≠ b.2.2 := by
  induction n generalizing l with
  | zero => simp [associate]
  | succ n ih =>
    rw [associate_succ]
    cases best : l.foldl nearerPair none with
    | none => simp
    | some b =>
      refine List.pairwise_cons.2 ⟨fun e he => ?_, ih _⟩
      have := (List.mem_filter.1 (associate_subset n _ e he)).2
      simp only [bne_iff_ne, Bool.and_eq_true] at this
      exact ⟨this.1.symm, this.2.symm⟩

/-- Settles O17: every pair taken removes the candidates of its slot and of its detection. -/
theorem associationTakesEachOnce : Obligations.AssociationTakesEachOnce := by
  unfold Obligations.AssociationTakesEachOnce
  intro n l
  exact ⟨associate_subset n l, List.pairwise_map.2 ((associate_apart n l).imp And.left),
    List.pairwise_map.2 ((associate_apart n l).imp And.right)⟩

/-! ### The projected end of a solve (R268) -/

theorem le_ceilDiv_mul (a : Nat) {b : Nat} (hb : 0 < b) : a ≤ ceilDiv a b * b := by
  have := Nat.div_add_mod (a + b - 1) b
  have := Nat.mod_lt (a + b - 1) hb
  rw [ceilDiv, mul_comm]
  omega

theorem ceilDiv_le {a b m : Nat} (hb : 0 < b) (h : a ≤ m * b) : ceilDiv a b ≤ m := by
  rw [ceilDiv, Nat.div_le_iff_le_mul_add_pred hb]
  rw [mul_comm] at h
  omega

/-- Settles O19: the projected time is the least count whose product with the pace covers the cycles. -/
theorem solveFitsBeforeEnd : Obligations.SolveFitsBeforeEnd := by
  unfold Obligations.SolveFitsBeforeEnd
  intro x g e pace
  cases e with
  | none => simp [solveFits]
  | some b =>
    simp only [solveFits, decide_eq_true_eq, Option.some.injEq]
    constructor
    · rintro fits _ rfl n - least
      have := least _ (le_ceilDiv_mul (g.cycles * 64) pace)
      omega
    · intro all
      exact all b rfl _ (le_ceilDiv_mul _ pace) fun m hm => ceilDiv_le pace hm

/-! ### The numerical order of values -/

/-- A finite value as a rational number, with the infinities at the ends. -/
def extended : Val → WithBot (WithTop ℚ)
  | .nan => ⊥
  | .inf s => if s then ⊥ else ((⊤ : WithTop ℚ) : WithBot (WithTop ℚ))
  | .num s m e => (((if s then -(m : ℚ) else m) * 2 ^ e : ℚ) : WithTop ℚ)

theorem scaled_eq (s : Bool) (m : Nat) {e u : Int} (hu : u ≤ e) :
    ((scaled s m e u : Int) : ℚ) * 2 ^ u = (if s then -(m : ℚ) else m) * 2 ^ e := by
  have shift : (2 : ℚ) ^ (e - u).toNat * 2 ^ u = 2 ^ e := by
    rw [← zpow_natCast, Int.toNat_of_nonneg (by omega), ← zpow_add₀ (by norm_num)]
    ring_nf
  cases s <;> simp [scaled, ← shift, mul_assoc]

theorem lt_iff_extended {a b : Val} (ha : a.isNan = false) (hb : b.isNan = false) : a.lt b = true ↔ extended a < extended b := by
  cases a with
  | nan => simp [Val.isNan] at ha
  | inf s =>
    cases b with
    | nan => simp [Val.isNan] at hb
    | inf t => cases s <;> cases t <;> simp [Val.lt, extended]
    | num t n d => cases s <;> simp [Val.lt, extended]
  | num s m e =>
    cases b with
    | nan => simp [Val.isNan] at hb
    | inf t =>
      cases t with
      | true => simp [Val.lt, extended]
      | false => exact iff_of_true rfl (WithBot.coe_lt_coe.2 (WithTop.coe_lt_top _))
    | num t n d =>
      have pos : (0 : ℚ) < 2 ^ min e d := by positivity
      simp only [Val.lt, decide_eq_true_eq, extended, WithBot.coe_lt_coe, WithTop.coe_lt_coe]
      rw [← scaled_eq s m (min_le_left e d), ← scaled_eq t n (min_le_right e d), mul_lt_mul_iff_left₀ pos, Int.cast_lt]

/-! ### Merged hits (R298) -/

/-- The key of a hit: its distance, then its ID. -/
def hitKey (h : Hit) : Lex (WithBot (WithTop ℚ) × Nat) := toLex (extended h.dist, h.id)

def hitLt (a b : Hit) : Bool := keyLt a.dist a.id b.dist b.id

theorem hitLt_iff {a b : Hit} (ha : a.dist.isNan = false) (hb : b.dist.isNan = false) : hitLt a b = true ↔ hitKey a < hitKey b := by
  have back : b.dist.lt a.dist = false ↔ extended a.dist ≤ extended b.dist := by
    rw [← not_lt, ← lt_iff_extended hb ha, Bool.not_eq_true]
  simp only [hitLt, keyLt, Bool.or_eq_true, Bool.and_eq_true, Bool.not_eq_true', decide_eq_true_eq, lt_iff_extended ha hb, back,
    hitKey, Prod.Lex.toLex_lt_toLex]
  rw [le_iff_lt_or_eq]
  tauto

theorem hitLt_asymm {a b : Hit} (ha : a.dist.isNan = false) (hb : b.dist.isNan = false) (h : hitLt a b = true) : hitLt b a = false := by
  rw [hitLt_iff ha hb] at h
  exact Bool.eq_false_iff.2 fun h' => lt_asymm h ((hitLt_iff hb ha).1 h')

/-- Hits in key order, with numbers for distances and distinct IDs. -/
structure HitsOk (l : List Hit) : Prop where
  numbers : ∀ h ∈ l, h.dist.isNan = false
  ids : (l.map Hit.id).Nodup
  sorted : l.Pairwise fun a b => hitLt b a = false

theorem insBy_perm {α : Type} (lt : α → α → Bool) (a : α) (l : List α) : (insBy lt a l).Perm (a :: l) := by
  induction l with
  | nil => exact .refl _
  | cons b r ih =>
    rw [insBy]
    split
    · exact .refl _
    · exact (ih.cons b).trans (.swap a b r)

theorem insBy_sorted {h : Hit} {l : List Hit} (number : h.dist.isNan = false) (numbers : ∀ x ∈ l, x.dist.isNan = false)
    (sorted : l.Pairwise fun a b => hitLt b a = false) : (insBy hitLt h l).Pairwise fun a b => hitLt b a = false := by
  induction l with
  | nil => exact List.pairwise_singleton ..
  | cons b r ih =>
    obtain ⟨hb, hr⟩ := List.forall_mem_cons.1 numbers
    obtain ⟨first, rest⟩ := List.pairwise_cons.1 sorted
    rw [insBy]
    split
    case isTrue before =>
      refine List.pairwise_cons.2 ⟨List.forall_mem_cons.2 ⟨hitLt_asymm number hb before, fun x hx => ?_⟩, sorted⟩
      have key : hitKey h < hitKey b := (hitLt_iff number hb).1 before
      have above : ¬ hitKey x < hitKey b := fun lt => by simpa [first x hx] using (hitLt_iff (hr x hx) hb).2 lt
      exact Bool.eq_false_iff.2 fun lt => above (((hitLt_iff (hr x hx) number).1 lt).trans key)
    case isFalse after =>
      refine List.pairwise_cons.2 ⟨fun x hx => ?_, ih hr rest⟩
      rcases List.mem_cons.1 ((insBy_perm ..).mem_iff.1 hx) with rfl | hx
      · exact Bool.eq_false_iff.2 after
      · exact first x hx

/-- A hit with a new ID keeps the order. -/
theorem HitsOk.insert {h : Hit} {l : List Hit} (ok : HitsOk l) (number : h.dist.isNan = false) (new : ∀ x ∈ l, x.id ≠ h.id) :
    HitsOk (insBy hitLt h l) where
  numbers x hx := (List.mem_cons.1 ((insBy_perm ..).mem_iff.1 hx)).elim (fun e => e ▸ number) (ok.numbers x)
  ids := by
    rw [((insBy_perm hitLt h l).map Hit.id).nodup_iff, List.map_cons, List.nodup_cons]
    exact ⟨fun mem => by obtain ⟨x, hx, e⟩ := List.mem_map.1 mem; exact new x hx e, ok.ids⟩
  sorted := insBy_sorted number ok.numbers ok.sorted

theorem HitsOk.sublist {l m : List Hit} (ok : HitsOk l) (sub : m.Sublist l) : HitsOk m where
  numbers x hx := ok.numbers x (sub.subset hx)
  ids := ok.ids.sublist (sub.map _)
  sorted := ok.sorted.sublist sub

theorem joinHit_ok {l : List Hit} {h : Hit} (ok : HitsOk l) (number : h.dist.isNan = false) : HitsOk (joinHit l h) := by
  unfold joinHit
  split
  case h_1 x found =>
    split
    · refine (ok.sublist List.filter_sublist).insert number fun y hy => ?_
      simpa using (List.mem_filter.1 hy).2
    · exact ok
  case h_2 new => exact ok.insert number fun x hx => by simpa using List.find?_eq_none.1 new x hx

theorem foldl_joinHit_ok {hs l : List Hit} (ok : HitsOk l) (numbers : ∀ h ∈ hs, h.dist.isNan = false) : HitsOk (hs.foldl joinHit l) := by
  induction hs generalizing l with
  | nil => exact ok
  | cons h hs ih =>
    obtain ⟨hh, rest⟩ := List.forall_mem_cons.1 numbers
    exact ih (joinHit_ok ok hh) rest

/-- Settles O22: every hit that joins keeps the list in key order with distinct IDs. -/
theorem mergedHitsDistinctAndOrdered : Obligations.MergedHitsDistinctAndOrdered := by
  unfold Obligations.MergedHitsDistinctAndOrdered
  intro ls k numbers
  have all : HitsOk ((ls.flatMap parseHits).foldl joinHit []) :=
    foldl_joinHit_ok ⟨nofun, List.nodup_nil, List.Pairwise.nil⟩ fun h hh => by
      obtain ⟨b, hb, hh⟩ := List.mem_flatMap.1 hh
      exact numbers b hb h hh
  have ok := all.sublist (List.take_sublist k _)
  exact ⟨List.length_take_le .., ok.ids, ok.sorted⟩

end Sys2Proof.Machine
end

section
/-!
The bytes of an object (R318, R320) and the map of a Cadastre (R339).
-/
namespace Sys2Proof.Machine
open Sys2Proof Sys2Proof.Laws

/-! ### Writes in pieces -/

theorem wrBytes_append (m : Mem) (a : Nat) (d e : Bytes) : wrBytes m a (d ++ e) = wrBytes (wrBytes m a d) (a + d.length) e := by
  induction d generalizing m a with
  | nil => rfl
  | cons b r ih =>
    rw [List.cons_append, wrBytes, wrBytes, ih, List.length_cons]
    congr 1
    omega

/-- The pieces of a byte string, written one after the other, are the string. -/
theorem foldl_cut (n u off : Nat) (d : Bytes) (m : Mem) : (cut n u off d).foldl (fun m w => wrBytes m w.1 w.2) m = wrBytes m off d := by
  induction n generalizing off d m with
  | zero => rfl
  | succ n ih =>
    rw [cut]
    split
    case isTrue => rfl
    case isFalse long =>
      have len : (d.take (u - off % u)).length = u - off % u := List.length_take_of_le (by omega)
      rw [List.foldl_cons, ih]
      conv_rhs => rw [← List.take_append_drop (u - off % u) d, wrBytes_append, len]

/-- What a written piece makes of an object outside the Archive tier: its bytes are `m`, and it lies where it lay. -/
def Takes (o o' : Obj) (m : Mem) : Prop := o'.mem = m ∧ o'.present = o.present

theorem putBack_keeps (o : Obj) (w : Nat × Bytes) : (putBack o w).mem = o.mem ∧ (putBack o w).present = o.present := by
  unfold putBack
  split <;> exact ⟨rfl, rfl⟩

theorem putPiece_takes (s : State) (k : Nat) {o : Obj} (w : Nat × Bytes) (out : o.present ≠ .archive) :
    Takes o (putPiece s k o w) (wrBytes o.mem w.1 w.2) := by
  unfold putPiece
  rw [if_neg fun h => out h.1]
  extract_lets above written u marked i
  have hw : Takes o written (wrBytes o.mem w.1 w.2) := by
    have still : promoting s k o = false := by simp [promoting, out]
    simp only [written, still]
    exact ⟨rfl, rfl⟩
  have hm : Takes o marked (wrBytes o.mem w.1 w.2) := by
    simp only [marked]
    split
    · exact hw
    · exact hw
  split
  · obtain ⟨mem, present⟩ := putBack_keeps written w
    exact ⟨mem.trans hw.1, present.trans hw.2⟩
  · split
    · exact hm
    · split
      · exact hm
      · exact hm

theorem foldl_putPiece_takes (s : State) (k : Nat) (l : List (Nat × Bytes)) {o : Obj} (out : o.present ≠ .archive) :
    Takes o (l.foldl (putPiece s k) o) (l.foldl (fun m w => wrBytes m w.1 w.2) o.mem) := by
  induction l generalizing o with
  | nil => exact ⟨rfl, rfl⟩
  | cons w l ih =>
    obtain ⟨mem, present⟩ := putPiece_takes s k w out
    obtain ⟨mem', present'⟩ := ih (o := putPiece s k o w) (present ▸ out)
    exact ⟨by rw [List.foldl_cons, mem', List.foldl_cons, mem], present'.trans present⟩

theorem locateUnit_keeps (s : State) (k : Nat) (t : Tier) (o : Obj) (u : Nat) :
    (locateUnit s k t o u).mem = o.mem ∧ (locateUnit s k t o u).present = o.present := by
  unfold locateUnit
  dsimp only
  split <;> exact ⟨rfl, rfl⟩

theorem foldl_locateUnit_keeps (s : State) (k : Nat) (t : Tier) (l : List Nat) (o : Obj) :
    (l.foldl (locateUnit s k t) o).mem = o.mem ∧ (l.foldl (locateUnit s k t) o).present = o.present := by
  induction l generalizing o with
  | nil => exact ⟨rfl, rfl⟩
  | cons u l ih =>
    obtain ⟨mem, present⟩ := locateUnit_keeps s k t o u
    rw [List.foldl_cons, ← mem, ← present]
    exact ih _

theorem locate_keeps (s : State) (k : Nat) (t : Tier) (off n : Nat) (o : Obj) :
    (locate s k t off n o).mem = o.mem ∧ (locate s k t off n o).present = o.present := by
  unfold locate
  split
  · exact ⟨rfl, rfl⟩
  · exact foldl_locateUnit_keeps ..

/-- The object that a write of bytes leaves. -/
def written (s : State) (k off : Nat) (o : Obj) (d : Bytes) : Obj :=
  locate s k o.present off d.length ((cut (d.length / pageSize + 1) pageSize off d).foldl (putPiece s k) o)

theorem written_takes (s : State) (k off : Nat) {o : Obj} (d : Bytes) (out : o.present ≠ .archive) :
    Takes o (written s k off o d) (wrBytes o.mem off d) := by
  obtain ⟨mem, present⟩ := foldl_putPiece_takes s k (cut (d.length / pageSize + 1) pageSize off d) out
  obtain ⟨mem', present'⟩ := locate_keeps s k o.present off d.length ((cut (d.length / pageSize + 1) pageSize off d).foldl (putPiece s k) o)
  exact ⟨by rw [written, mem', mem, foldl_cut], present'.trans present⟩

theorem objMem_of_ne_archive {s : State} {k : Nat} {o : Obj} (out : o.present ≠ .archive) : objMem s k o = o.mem :=
  if_neg fun h => out h.1

/-- Settles O26: the pieces are written one after the other into the object's own bytes. -/
theorem objectWriteStoresItsBytes : Obligations.ObjectWriteStoresItsBytes := by
  unfold Obligations.ObjectWriteStoresItsBytes
  intro s k off o d ho out
  obtain ⟨mem, present⟩ := written_takes s k off d out
  have stored (t : State) : objMem t k (written s k off o d) = wrBytes (objMem s k o) off d := by
    rw [objMem_of_ne_archive (present ▸ out), mem, objMem_of_ne_archive out]
  refine ⟨written s k off o d, ?_, fun a above below => ?_, fun a outside => ?_, fun j hj => obj_modObj_ne s _ hj, rfl⟩
  · exact (obj_modObj_same s k _).trans (by rw [ho]; rfl)
  · have := rdByte_wrBytes_in d (objMem s k o) off (a - off) (by omega)
    rw [stored, show a = off + (a - off) by omega, this]
    simp only [Nat.add_sub_cancel_left]
    exact (List.getD_eq_getElem ..).symm
  · rw [stored]
    exact rdByte_wrBytes_out _ _ _ _ outside

/-! ### What the map of a Cadastre keeps -/

/-- `d` maps every logical page as `c` does, but for the lost ones of `c`, and has lost the same pages. -/
def MapKept (c d : Cad) : Prop := d.lost = c.lost ∧ ∀ l, l ∉ c.lost → tget d.map l = tget c.map l

theorem MapKept.refl (c : Cad) : MapKept c c := ⟨rfl, fun _ _ => rfl⟩

theorem MapKept.trans {c d e : Cad} (h : MapKept c d) (g : MapKept d e) : MapKept c e :=
  ⟨g.1.trans h.1, fun l hl => (g.2 l (h.1 ▸ hl)).trans (h.2 l hl)⟩

theorem MapKept.of_eq {c d : Cad} (map : d.map = c.map) (lost : d.lost = c.lost) : MapKept c d := ⟨lost, fun _ _ => by rw [map]⟩

/-- The pages, the map and the lost pages of a Cadastre stay. -/
def SamePages (c d : Cad) : Prop := d.pages = c.pages ∧ d.map = c.map ∧ d.lost = c.lost

theorem SamePages.refl (c : Cad) : SamePages c c := ⟨rfl, rfl, rfl⟩

theorem SamePages.trans {c d e : Cad} (h : SamePages c d) (g : SamePages d e) : SamePages c e :=
  ⟨g.1.trans h.1, g.2.1.trans h.2.1, g.2.2.trans h.2.2⟩

theorem SamePages.kept {c d : Cad} (h : SamePages c d) : MapKept c d := .of_eq h.2.1 h.2.2

theorem modBlk_samePages (c : Cad) (b : Nat) (f : Blk → Blk) : SamePages c (modBlk c b f) := .refl c

theorem foldl_samePages {β : Type} (f : Cad → β → Cad) (hf : ∀ c b, SamePages c (f c b)) (l : List β) (c : Cad) :
    SamePages c (l.foldl f c) := by
  induction l generalizing c with
  | nil => exact .refl c
  | cons b l ih => exact (hf c b).trans (ih (f c b))

theorem takeBlocks_samePages (st : BlkSt) (n : Nat) (c : Cad) : SamePages c (takeBlocks st n c).1 := by
  induction n generalizing c with
  | zero => exact .refl c
  | succ n ih =>
    rw [takeBlocks]
    split
    · exact .refl c
    · exact (modBlk_samePages ..).trans (ih _)

theorem newJournal_samePages (c : Cad) : SamePages c (journalPage.newJournal c) := by
  have h := takeBlocks_samePages .journal 1 c
  unfold journalPage.newJournal
  split
  case h_1 taken => exact (taken ▸ h : SamePages c _)
  case h_2 taken => exact (taken ▸ h : SamePages c _)

theorem journalPage_samePages (c : Cad) (l : List JBody) : SamePages c (journalPage c l) := by
  unfold journalPage
  extract_lets opened last recs
  have h : SamePages c opened := by
    simp only [opened]
    split
    · split
      · exact .refl c
      · exact newJournal_samePages c
    · exact newJournal_samePages c
  exact h

theorem journalAll_samePages (n : Nat) (c : Cad) (l : List JBody) : SamePages c (journalAll n c l) := by
  induction n generalizing c l with
  | zero => exact .refl c
  | succ n ih =>
    rw [journalAll]
    split
    · exact .refl c
    · exact (journalPage_samePages ..).trans (ih _ _)

theorem journal_samePages (c : Cad) (l : List JBody) : SamePages c (journal c l) := journalAll_samePages ..

theorem reclaim_samePages (c : Cad) : SamePages c (reclaim c) :=
  (journal_samePages ..).trans (foldl_samePages _ (fun _ _ => modBlk_samePages ..) _ _)

theorem openBlock_samePages (c : Cad) : SamePages c (openBlock c) := by
  unfold openBlock
  split
  · exact .refl c
  · split <;> exact .refl c

theorem programLine_mapKept (c : Cad) (b : Nat) (g : Group) : MapKept c (programLine c b g) := by
  unfold programLine
  dsimp only
  split <;> exact .refl c

/-! ### What a program of a word line leaves in every Cadastre -/

structure MapsKept (s t : State) : Prop where
  kept : ∀ q, MapKept (cadOf s q) (cadOf t q)

theorem MapsKept.refl (s : State) : MapsKept s s := ⟨fun _ => .refl _⟩

theorem MapsKept.trans {s t u : State} (h : MapsKept s t) (g : MapsKept t u) : MapsKept s u := ⟨fun q => (h.kept q).trans (g.kept q)⟩

theorem MapsKept.of_cads {s t : State} (h : t.cads = s.cads) : MapsKept s t := ⟨fun q => by rw [cadOf, cadOf, h]; exact .refl _⟩

theorem modCad_mapsKept (s : State) (p : Nat) {f : Cad → Cad} (hf : MapKept (cadOf s p) (f (cadOf s p))) : MapsKept s (modCad s p f) := by
  refine ⟨fun q => ?_⟩
  rcases eq_or_ne q p with rfl | hq
  · rw [cadOf_modCad_same]; exact hf
  · rw [cadOf_modCad_ne _ _ hq]; exact .refl _

theorem Written.mapsKept {s t : State} (h : Written s t) : MapsKept s t := by
  obtain ⟨_, _, _, rfl⟩ := h
  exact .of_cads rfl

theorem logFault_mapsKept (s : State) (cls p kind source detail : Nat) : MapsKept s (logFault s cls p kind source detail) := by
  obtain ⟨f, h⟩ := logFault_written s cls p kind source detail
  have same : MapsKept s { s with flt := f } := .of_cads rfl
  exact same.trans h.mapsKept

theorem mediaFail_mapsKept (s : State) (p b : Nat) : MapsKept s (mediaFail s p b) :=
  (logFault_mapsKept ..).trans (logFault_mapsKept ..)

theorem checkWear_mapsKept (s : State) (p : Nat) : MapsKept s (checkWear s p) := by
  unfold checkWear
  extract_lets c low t
  have h : MapsKept s t := modCad_mapsKept s p (.refl _)
  split
  · exact h.trans (eventAll_written ..).mapsKept
  · exact h

theorem newGroup_mapsKept (s : State) (p : Nat) (pages : List GPage) (use : GroupUse) (clears took : List Nat) :
    MapsKept s (newGroup s p pages use clears took) := modCad_mapsKept s p (.refl _)

theorem tget_filter_key {α : Type} (t : Tbl α) (keep : Nat × α → Bool) {k : Nat} (h : ∀ e, e.1 = k → keep e = true) :
    tget (t.filter keep) k = tget t k := by
  induction t with
  | nil => rfl
  | cons e t ih =>
    rcases eq_or_ne e.1 k with rfl | hk
    · rw [List.filter_cons_of_pos (h e rfl), tget, tget, if_pos rfl, if_pos rfl]
    · rw [List.filter_cons]
      split
      · rw [tget, tget, if_neg hk, if_neg hk, ih]
      · rw [tget, if_neg hk, ih]

/-- A relocation takes only lost pages of its block off the map. -/
theorem relocate_mapsKept (s : State) (p b : Nat) : MapsKept s (relocate s p b) := by
  unfold relocate
  split
  · exact .refl s
  · extract_lets t c busy pages
    have h : MapsKept s t := modCad_mapsKept s p
      ⟨rfl, fun l hl => tget_filter_key _ _ fun e he => by simp [he, hl]⟩
    split
    · exact h.trans (modCad_mapsKept t p (reclaim_samePages _).kept)
    · exact h.trans (newGroup_mapsKept ..)

theorem retireBlock_mapsKept (s : State) (p b : Nat) : MapsKept s (retireBlock s p b) := by
  refine MapsKept.trans (MapsKept.trans ?_ (relocate_mapsKept ..)) (checkWear_mapsKept ..)
  exact modCad_mapsKept s p (.refl _)

theorem nandProgramDone_mapsKept (s : State) (p g : Nat) (ok : Bool) : MapsKept s (nandProgramDone s p g ok) := by
  unfold nandProgramDone
  dsimp only
  split
  · split
    · have opened : MapsKept s (modCad s p fun _ => openBlock (cadOf s p)) := modCad_mapsKept s p (openBlock_samePages _).kept
      split
      · refine (opened.trans ?_).trans (checkWear_mapsKept ..)
        exact modCad_mapsKept _ p (programLine_mapKept ..)
      · refine ((opened.trans ?_).trans (mediaFail_mapsKept ..)).trans (retireBlock_mapsKept ..)
        exact modCad_mapsKept _ p (.refl _)
    · exact .refl s
  · exact .refl s

/-! ### A group becomes durable -/

/-- The logical pages that a durable group takes off the map. -/
def trimmed (g : Group) : List Nat :=
  match g.use with
  | .trim lpns _ => lpns
  | _ => []

/-- The map with the group's pages switched. -/
def switched (c : Cad) (g : Group) : Tbl Nat := (g.pages.zip g.ppns).foldl (fun m e => tput m e.1.lpn e.2) c.map

theorem durable_eq (c : Cad) (g : Group) :
    (durable c g).pages = c.pages ∧ (durable c g).map = (trimmed g).foldl tdel (switched c g) := by
  obtain ⟨pages, map, -⟩ := journal_samePages c (commitRecs g)
  unfold durable
  extract_lets d m cut
  obtain ⟨pages', map', -⟩ := reclaim_samePages { d with
    map := cut.foldl tdel m, lost := d.lost.filter (fun l => !g.clears.contains l && !cut.contains l),
    groups := d.groups.filter (fun h => h.id != g.id), since := d.since + g.pages.length, commits := true,
    ckptDue := d.ckptDue || decide (131072 ≤ d.since + g.pages.length) }
  refine ⟨pages'.trans pages, map'.trans ?_⟩
  simp only [m, d, map, switched, cut]
  rfl

theorem tget_foldl_tdel {α : Type} (ls : List Nat) (t : Tbl α) {k : Nat} (h : k ∉ ls) : tget (ls.foldl tdel t) k = tget t k := by
  induction ls generalizing t with
  | nil => rfl
  | cons l ls ih =>
    obtain ⟨hl, hls⟩ := not_or.1 (List.mem_cons.not.1 h)
    rw [List.foldl_cons, ih _ hls, tget_tdel_ne _ hl]

theorem tget_switched_ne (l : List (GPage × Nat)) (m : Tbl Nat) {k : Nat} (h : ∀ e ∈ l, e.1.lpn ≠ k) :
    tget (l.foldl (fun m e => tput m e.1.lpn e.2) m) k = tget m k := by
  induction l generalizing m with
  | nil => rfl
  | cons e l ih =>
    obtain ⟨he, hl⟩ := List.forall_mem_cons.1 h
    rw [List.foldl_cons, ih _ hl, tget_tput_ne _ _ he.symm]

theorem tget_switched_mem {l : List (GPage × Nat)} (distinct : (l.map fun e => e.1.lpn).Nodup) (m : Tbl Nat) {e : GPage × Nat} (h : e ∈ l) :
    tget (l.foldl (fun m e => tput m e.1.lpn e.2) m) e.1.lpn = some e.2 := by
  induction l generalizing m with
  | nil => cases h
  | cons a l ih =>
    obtain ⟨ha, hl⟩ := List.nodup_cons.1 distinct
    rw [List.foldl_cons]
    rcases List.mem_cons.1 h with rfl | he
    · rw [tget_switched_ne l _ fun x hx same => ha (List.mem_map.2 ⟨x, hx, same⟩), tget_tput_same]
    · exact ih hl _ he

theorem trimmed_eq_nil {g : Group} (h : ∀ ls key, g.use ≠ .trim ls key) : trimmed g = [] := by
  unfold trimmed
  split
  case h_1 ls key use => exact absurd use (h ls key)
  case h_2 => rfl

theorem not_mem_trimmed {g : Group} {l : Nat} (h : ∀ ls key, g.use = .trim ls key → l ∉ ls) : l ∉ trimmed g := by
  unfold trimmed
  split
  case h_1 ls key use => exact h ls key use
  case h_2 => exact List.not_mem_nil

theorem zip_mem {g : Group} {i n : Nat} {x : GPage} (hx : g.pages[i]? = some x) (hn : g.ppns[i]? = some n) :
    (x, n) ∈ g.pages.zip g.ppns := List.mem_of_getElem? (List.getElem?_zip_eq_some.2 ⟨hx, hn⟩)

/-- Settles O27: `nandProgramDone_mapsKept` before a group is durable, `durable_eq` when it is. -/
theorem groupSwitchesAtOnce : Obligations.GroupSwitchesAtOnce := by
  unfold Obligations.GroupSwitchesAtOnce
  refine ⟨fun s t p g q l ok step hl => ?_, fun c g => ?_⟩
  · obtain rfl := Host.Outcome.next.inj step
    exact ((nandProgramDone_mapsKept s p g ok).kept q).2 l hl
  · obtain ⟨pages, map⟩ := durable_eq c g
    refine ⟨pages, fun l free uncut => ?_, fun i n x distinct uncut hx hn => ?_⟩
    · rw [map, tget_foldl_tdel _ _ (not_mem_trimmed uncut)]
      exact tget_switched_ne _ _ fun e he => free e.1 (List.of_mem_zip he).1
    · rw [map, trimmed_eq_nil uncut]
      have distinct' : ((g.pages.zip g.ppns).map fun e => e.1.lpn).Nodup := by
        have sub : ((g.pages.zip g.ppns).map Prod.fst).Sublist g.pages := by
          rw [List.zip_eq_zip_take_min, List.map_fst_zip (by simp)]
          exact List.take_sublist ..
        exact List.map_map (f := Prod.fst) (g := GPage.lpn) ▸ distinct.sublist (sub.map GPage.lpn)
      exact tget_switched_mem distinct' _ (zip_mem hx hn)

end Sys2Proof.Machine
end

section
/-!
The shared engines (R101, R102), the Fault Log (R441) and the frame of the set-up register writes (R450 to R465).
-/
namespace Sys2Proof.Machine
open Sys2Proof Sys2Proof.Laws

/-! ### Shared engines -/

/-- A request is served no later than another: it waited longer, or as long in a lower context. -/
def EngReq.First (r q : EngReq) : Prop := r.since < q.since ∨ r.since = q.since ∧ r.ctx ≤ q.ctx

theorem first_of_lexLt {r q : EngReq} (h : lexLt [q.since, q.ctx] [r.since, r.ctx] = true) : q.First r := by
  simp only [lexLt, Bool.or_eq_true, Bool.and_eq_true, decide_eq_true_eq, beq_iff_eq] at h
  unfold EngReq.First
  omega

theorem first_of_not_lexLt {r q : EngReq} (h : ¬ lexLt [q.since, q.ctx] [r.since, r.ctx] = true) : r.First q := by
  simp only [lexLt, Bool.or_eq_true, Bool.and_eq_true, decide_eq_true_eq, beq_iff_eq] at h
  unfold EngReq.First
  omega

theorem EngReq.First.trans {r q p : EngReq} (h : r.First q) (g : q.First p) : r.First p := by
  unfold EngReq.First at *
  omega

theorem nextReq_first {l : List EngReq} {r : EngReq} (h : nextReq l = some r) : r ∈ l ∧ ∀ q ∈ l, r.First q := by
  induction l generalizing r with
  | nil => cases h
  | cons a l ih =>
    have self (r : EngReq) : r.First r := .inr ⟨rfl, le_rfl⟩
    rw [nextReq] at h
    cases next : nextReq l with
    | none =>
      simp only [next] at h
      cases h
      cases l with
      | nil => exact ⟨List.mem_cons_self, by simpa using self a⟩
      | cons b l =>
        rw [nextReq] at next
        split at next
        · cases next
        · split at next <;> cases next
    | some q =>
      obtain ⟨hq, all⟩ := ih next
      simp only [next] at h
      split at h
      case isTrue before =>
        cases h
        exact ⟨List.mem_cons_of_mem _ hq, List.forall_mem_cons.2 ⟨first_of_lexLt before, all⟩⟩
      case isFalse after =>
        cases h
        exact ⟨List.mem_cons_self, List.forall_mem_cons.2 ⟨self a, fun p hp => (first_of_not_lexLt after).trans (all p hp)⟩⟩

theorem nextReq_isSome {l : List EngReq} (h : l ≠ []) : (nextReq l).isSome = true := by
  cases l with
  | nil => exact absurd rfl h
  | cons a l =>
    rw [nextReq]
    split
    · rfl
    · split <;> rfl

theorem serveNext_cur (l : List EngReq) : (serveNext l).cur = nextReq l := by
  unfold serveNext
  split
  case h_1 none => exact none.symm
  case h_2 some => exact some.symm

theorem sharedEngineChunkDone_goesOn {s : State} {e : SharedEngine} {r : EngReq} (cur : (engineOf s e).cur = some r)
    (more : 4096 < r.todo.length) : sharedEngineChunkDone s e = setEngine s e (serveNext ((engineOf s e).wait ++
      [{ r with todo := r.todo.drop 4096, work := r.work.next (r.todo.take 4096), since := s.sup.now }])) := by
  simp [sharedEngineChunkDone, cur, more]

theorem sharedEngineChunkDone_ends {s : State} {e : SharedEngine} {r : EngReq} (cur : (engineOf s e).cur = some r)
    (last : r.todo.length ≤ 4096) (u : State) (hu : u = setEngine s e (serveNext (engineOf s e).wait)) :
    sharedEngineChunkDone s e = if e = .gcm then parcelDone u r.ctx (r.work.next (r.todo.take 4096)).tag else u := by
  subst hu
  cases e <;> simp [sharedEngineChunkDone, cur, last.not_gt]

/-- Settles O34: an equation for each way a chunk ends, and what `nextReq` finds. -/
theorem sharedEngineChunks : Obligations.SharedEngineChunks := by
  unfold Obligations.SharedEngineChunks
  refine ⟨fun s e r cur => ⟨fun more => congrArg _ (sharedEngineChunkDone_goesOn cur more), fun last => ?_⟩, fun l r cur => ?_,
    fun l hl => ?_⟩
  · have ends := sharedEngineChunkDone_ends cur last _ rfl
    cases e with
    | gcm => exact congrArg _ (ends.trans (if_pos rfl))
    | hash => exact congrArg _ (ends.trans (if_neg nofun))
  · exact nextReq_first ((serveNext_cur l).symm.trans cur)
  · rw [serveNext_cur]
    exact nextReq_isSome hl

/-! ### The Fault Log -/

/-- An entry of the log takes an event in. -/
def Merges (cls plat source now : Nat) (e : LogEntry) : Prop :=
  e.cls = cls ∧ e.plat = plat ∧ e.source = source ∧ now ≤ e.first + 1000000

theorem mergeLog_firsts {cls plat source now : Nat} {l l' : List LogEntry} (h : mergeLog cls plat source now l = some l') :
    l'.map (·.first) = l.map (·.first) := by
  induction l generalizing l' with
  | nil => cases h
  | cons e l ih =>
    rw [mergeLog] at h
    split at h
    · cases h; rfl
    · obtain ⟨r, hr, rfl⟩ := Option.map_eq_some_iff.1 h
      rw [List.map_cons, ih hr, List.map_cons]

theorem mergeLog_eq_none_iff {cls plat source now : Nat} {l : List LogEntry} :
    mergeLog cls plat source now l = none ↔ ∀ e ∈ l, ¬ Merges cls plat source now e := by
  induction l with
  | nil => simp [mergeLog]
  | cons e l ih =>
    rw [mergeLog, List.forall_mem_cons]
    split
    case isTrue merges => exact iff_of_false nofun fun h => h.1 merges
    case isFalse apart => rw [Option.map_eq_none_iff, ih]; exact (and_iff_right apart).symm

theorem Written.flt_eq {s t : State} (h : Written s t) : t.flt = s.flt := by
  obtain ⟨_, _, _, rfl⟩ := h
  rfl

/-- The Fault Log once the class's total counts an event. -/
def counted (s : State) (cls : Nat) : State :=
  { s with flt := { s.flt with totals := tput s.flt.totals cls (satAdd 0xFFFFFFFFFFFFFFFF (tgetD s.flt.totals cls 0) 1) } }

section
variable {s : State} {cls p : Nat} {kind source detail : Nat} (live : s.sup.tripped = false)
include live

theorem logFault_merged {l : List LogEntry} (merge : mergeLog cls p source s.sup.now s.flt.log = some l) :
    logFault s cls p kind source detail = { counted s cls with flt := { (counted s cls).flt with log := l } } := by
  simp [logFault, live, merge, counted]

theorem logFault_added (new : mergeLog cls p source s.sup.now s.flt.log = none) (room : s.flt.log.length < 4096) :
    logFault s cls p kind source detail = { counted s cls with flt := { (counted s cls).flt with
      log := s.flt.log ++ [⟨cls, p, kind, source, s.sup.now, s.sup.now, 1, s.flt.eseq, detail⟩], eseq := wrap32 (s.flt.eseq + 1) } } := by
  simp [logFault, live, new, room, counted]

/-- A dropped event changes only the class's total, its losses and the classes reported. -/
theorem logFault_dropped (new : mergeLog cls p source s.sup.now s.flt.log = none) (full : 4096 ≤ s.flt.log.length) :
    ∃ reported, (logFault s cls p kind source detail).flt = { (counted s cls).flt with
      losses := tput s.flt.losses cls (satAdd max32 (tgetD s.flt.losses cls 0) 1), reported := reported } := by
  by_cases known : s.flt.reported.contains cls = true
  · exact ⟨s.flt.reported, by simp only [logFault, live, new, full.not_gt, known]; rfl⟩
  · refine ⟨s.flt.reported ++ [cls], ?_⟩
    simp only [logFault, live, new, full.not_gt, known]
    exact (eventTo_written ..).flt_eq

end

/-- Settles O47: the event is merged, added or dropped as `mergeLog` and the log's length say. -/
theorem faultLogMerges : Obligations.FaultLogMerges := by
  unfold Obligations.FaultLogMerges
  intro s cls p kind source detail live
  refine ⟨_, rfl, ?_⟩
  cases merge : mergeLog cls p source s.sup.now s.flt.log with
  | some l =>
    have hit : ¬ ∀ e ∈ s.flt.log, ¬ Merges cls p source s.sup.now e := by
      rw [← mergeLog_eq_none_iff, merge]
      nofun
    rw [logFault_merged live merge]
    refine ⟨tgetD_tput_same .., fun _ => ⟨mergeLog_firsts merge, rfl⟩, fun apart => absurd (fun e he => ?_) hit⟩
    rintro ⟨c, pl, so, soon⟩
    have := apart e he c pl so
    omega
  | none =>
    have apart := mergeLog_eq_none_iff.1 merge
    refine ⟨?total, fun ⟨e, he, same⟩ => absurd same (apart e he), fun _ => ⟨fun room => ?_, fun full => ?_⟩⟩
    case total =>
      rcases Nat.lt_or_ge s.flt.log.length 4096 with room | full
      · rw [logFault_added live merge room]
        exact tgetD_tput_same ..
      · obtain ⟨reported, flt⟩ := logFault_dropped (kind := kind) (detail := detail) live merge full
        rw [flt]
        exact tgetD_tput_same ..
    · rw [logFault_added live merge room]
    · obtain ⟨reported, flt⟩ := logFault_dropped (kind := kind) (detail := detail) live merge full
      rw [flt]
      exact ⟨rfl, tgetD_tput_same ..⟩

/-! ### The frame of the set-up writes -/

/-- The package with other set-up values: settings, GLB, the CTRL of DTM and FLT, ports, links, contexts, the common registers of TPT but
the routes. -/
def setUp (s : State) (g : Glb) (st : Tbl Setting) (d fc : Ctrl) (ps : Tbl Port) (tp : Tpt) (ti : Tbl TiePort) (cs : Tbl Ctx) : State :=
  { s with glb := g, settings := st, dtm := { s.dtm with ctrl := d }, flt := { s.flt with ctrl := fc }, ports := ps,
           tpt := { tp with routes := s.tpt.routes }, ties := ti, ctxs := cs }

/-- `t` is `s` but for set-up values. -/
def SetupWritten (s t : State) : Prop := ∃ g st d fc ps tp ti cs, t = setUp s g st d fc ps tp ti cs

theorem SetupWritten.refl (s : State) : SetupWritten s s := ⟨_, _, _, _, _, s.tpt, _, _, rfl⟩

theorem SetupWritten.trans {s t u : State} (h : SetupWritten s t) (g : SetupWritten t u) : SetupWritten s u := by
  obtain ⟨_, _, _, _, _, _, _, _, rfl⟩ := h
  obtain ⟨_, _, _, _, _, tp, _, _, rfl⟩ := g
  exact ⟨_, _, _, _, _, tp, _, _, rfl⟩

theorem storeSetting_setupWritten (s : State) (key v : Nat) : SetupWritten s (storeSetting s key v) := ⟨_, _, _, _, _, s.tpt, _, _, rfl⟩

theorem modPort_setupWritten (s : State) (p : Nat) (f : Port → Port) : SetupWritten s (modPort s p f) := ⟨_, _, _, _, _, s.tpt, _, _, rfl⟩

theorem countGlb_setupWritten (s : State) : SetupWritten s (countGlb s) := ⟨_, _, _, _, _, s.tpt, _, _, rfl⟩

theorem countDenied_setupWritten (s : State) : SetupWritten s (countDenied s) := ⟨_, _, _, _, _, s.tpt, _, _, rfl⟩

theorem countIgnored_setupWritten (s : State) (b : RegBlock) : SetupWritten s (countIgnored s b) := by
  cases b with
  | none => exact .refl s
  | tptCommon o => exact ⟨_, _, _, _, _, { s.tpt with ignored := satAdd max32 s.tpt.ignored 1 }, _, _, rfl⟩
  | _ => exact ⟨_, _, _, _, _, s.tpt, _, _, rfl⟩

theorem noteRwe_setupWritten (s : State) (b : RegBlock) : SetupWritten s (noteRwe s b) := by
  cases b <;> exact ⟨_, _, _, _, _, s.tpt, _, _, rfl⟩

theorem wrRw_setupWritten {s : State} (b : RegBlock) (ok : Bool) {f : State → State} (hf : SetupWritten s (f s)) :
    SetupWritten s (wrRw s b ok f) := by
  unfold wrRw
  split
  · exact hf
  · exact countIgnored_setupWritten s b

theorem wrRwe_setupWritten {s : State} (b : RegBlock) (ok : Bool) {f : State → State} (hf : SetupWritten s (f s)) :
    SetupWritten s (wrRwe s b ok f) := by
  unfold wrRwe
  split
  · exact (countIgnored_setupWritten s b).trans (noteRwe_setupWritten ..)
  · exact wrRw_setupWritten b ok hf

/-- A value of GLB is set and stored. -/
theorem storeGlb_setupWritten (s : State) (g : Glb) (key v : Nat) : SetupWritten s (storeSetting { s with glb := g } key v) :=
  ⟨_, _, _, _, _, s.tpt, _, _, rfl⟩

theorem tpt_setupWritten {s : State} {tp : Tpt} (routes : tp.routes = s.tpt.routes) : SetupWritten s { s with tpt := tp } :=
  ⟨s.glb, s.settings, s.dtm.ctrl, s.flt.ctrl, s.ports, tp, s.ties, s.ctxs, by rw [setUp, ← routes]⟩

/-- Values of the common TPT registers but the routes are set and stored. -/
theorem storeTpt_setupWritten (s : State) (tp : Tpt) (routes : tp.routes = s.tpt.routes) (key v : Nat) :
    SetupWritten s (storeSetting { s with tpt := tp } key v) :=
  (tpt_setupWritten routes).trans (storeSetting_setupWritten ..)

theorem wrGlb_setupWritten (s : State) (o v : Nat) : SetupWritten s (wrGlb s o v) := by
  unfold wrGlb
  split
  · exact wrRw_setupWritten _ _ (storeGlb_setupWritten ..)
  · split
    · dsimp only
      split
      · exact countDenied_setupWritten s
      · exact storeGlb_setupWritten ..
    · split
      · exact storeGlb_setupWritten ..
      · exact .refl s

theorem wrTptCommon_setupWritten (s : State) (o v : Nat) : SetupWritten s (wrTptCommon s o v) := by
  unfold wrTptCommon
  split
  · exact wrRwe_setupWritten _ _ (storeTpt_setupWritten s _ (by rfl) _ _)
  · split
    · exact wrRw_setupWritten _ _ (storeTpt_setupWritten s _ (by rfl) _ _)
    · exact .refl s

theorem wrCtx_setupWritten (s : State) (p : Path) (c o v : Nat) : SetupWritten s (wrCtx s p c o v) := by
  unfold wrCtx
  split
  · exact .refl s
  · extract_lets own
    split
    · exact countIgnored_setupWritten ..
    · split
      · exact wrRw_setupWritten _ _ ⟨_, _, _, _, _, s.tpt, _, _, rfl⟩
      · exact .refl s

theorem wrHpt_sweep (s : State) (n v : Nat) : wrHpt s n 8 v =
    wrRw s (.hpt n 8) (decide (1 ≤ v % 256 ∧ v % 256 ≤ 128)) fun s => storeSetting
      (modPort s n fun x => { x with sweepNew := some (v % 256, sweepFrom s.sup.now (v % 256)) }) (hptAt n + 8) (v % 256) := rfl

theorem wrHpt_grace (s : State) (n v : Nat) : wrHpt s n 0xC v =
    wrRw s (.hpt n 0xC) (decide (v % 16384 ≤ 10000)) fun s =>
      storeSetting (modPort s n fun x => { x with graceMs := v % 16384 }) (hptAt n + 0xC) (v % 16384) := rfl

/-- HPT_SWEEP and HPT_GRACE. -/
theorem wrHpt_setupWritten (s : State) (n v : Nat) {o : Nat} (ho : o = 8 ∨ o = 0xC) : SetupWritten s (wrHpt s n o v) := by
  rcases ho with rfl | rfl
  · rw [wrHpt_sweep]
    refine wrRw_setupWritten _ _ ?_
    exact (modPort_setupWritten ..).trans (storeSetting_setupWritten ..)
  · rw [wrHpt_grace]
    refine wrRw_setupWritten _ _ ?_
    exact (modPort_setupWritten ..).trans (storeSetting_setupWritten ..)

/-- The blocks and offsets that the set-up writes reach. -/
def IsSetup : RegBlock → Prop
  | .glb _ | .tptCommon _ | .ctx _ _ | .none => True
  | .hpt _ o => o = 8 ∨ o = 0xC
  | _ => False

theorem wrReg_setupWritten (s : State) (p : Path) (a v : Nat) (h : IsSetup (blockAt s a)) : SetupWritten s (wrReg s p a v) := by
  unfold wrReg
  dsimp only
  split
  · exact countDenied_setupWritten s
  · cases b : blockAt s a with
    | glb o => exact wrGlb_setupWritten ..
    | hpt n o => exact wrHpt_setupWritten s n v (b ▸ h : IsSetup (.hpt n o))
    | tptCommon o => exact wrTptCommon_setupWritten ..
    | ctx c o => exact wrCtx_setupWritten ..
    | none => exact .refl s
    | _ => exact absurd (b ▸ h : IsSetup _) id

theorem barWrite_setupWritten (s : State) (p : Path) (a v : Nat) (h : IsSetup (blockAt s a)) : SetupWritten s (barWrite s p a v) := by
  have reg := wrReg_setupWritten s p a v h
  unfold barWrite
  split
  · split
    · split
      · exact .refl s
      · split
        · exact reg
        · exact .refl s
    · exact reg
    · exact reg
    · exact .refl s
    · exact .refl s
  · exact .refl s

theorem blockAt_hpt (s : State) {n o : Nat} (hn : n < 4) (ho : o < 0x2000) :
    blockAt s (hptAt n + o) = if n < nHost s then .hpt n o else .none := by
  have inBlock : (hptAt n + o - 0x10000) / 0x2000 = n ∧ (hptAt n + o - 0x10000) % 0x2000 = o := by unfold hptAt; omega
  unfold blockAt
  rw [if_neg (by unfold hptAt; omega), if_neg (by unfold hptAt; omega), if_neg (by unfold hptAt; omega), if_pos (by unfold hptAt; omega)]
  simp only [inBlock]

theorem blockAt_ctx (s : State) {c o : Nat} (hc : c < 64) (ho : o < 0x100) : blockAt s (ctxAt c + o) = .ctx c o := by
  have inBlock : (ctxAt c + o - 0x20000) / 0x100 = c ∧ (ctxAt c + o - 0x20000) % 0x100 = o := by unfold ctxAt; omega
  have range : 0x20000 ≤ ctxAt c + o ∧ ctxAt c + o < 0x24000 := by unfold ctxAt; omega
  unfold blockAt
  rw [if_neg (by omega), if_neg (by omega), if_neg (by omega), if_neg (by omega), if_neg (by omega), if_neg (by omega), if_neg (by omega),
    if_pos (by omega), inBlock.1, inBlock.2]

theorem hpt_setupWritten (s : State) (p : Path) (n v : Nat) {o : Nat} (ho : o = 8 ∨ o = 0xC) :
    SetupWritten s (if n < 4 then barWrite s p (hptAt n + o) v else s) := by
  split
  case isTrue hn =>
    refine barWrite_setupWritten _ _ _ _ ?_
    rw [blockAt_hpt s hn (by omega)]
    split
    · exact ho
    · trivial
  case isFalse => exact .refl s

/-- Settles O57: every write is one whole write of a set-up register. -/
theorem registerWritesFrame : Obligations.RegisterWritesFrame := by
  unfold Obligations.RegisterWritesFrame
  intro s t c p n k v r hc step
  have written : SetupWritten s t := by
    simp only [List.mem_cons, List.not_mem_nil, or_false] at hc
    rcases hc with rfl | rfl | rfl | rfl | rfl | rfl | rfl | rfl <;> obtain rfl := Host.Outcome.next.inj step
    · exact barWrite_setupWritten _ _ _ _ trivial
    · exact barWrite_setupWritten _ _ _ _ trivial
    · exact barWrite_setupWritten _ _ _ _ trivial
    · exact hpt_setupWritten s p n v (.inl rfl)
    · exact hpt_setupWritten s p n v (.inr rfl)
    · exact barWrite_setupWritten _ _ _ _ trivial
    · exact barWrite_setupWritten _ _ _ _ trivial
    · split
      case isTrue hk =>
        refine barWrite_setupWritten _ _ _ _ ?_
        cases r with
        | completion => rw [blockAt_ctx s hk (by decide)]; trivial
        | event => rw [blockAt_ctx s hk (by decide)]; trivial
      case isFalse => exact .refl s
  obtain ⟨_, _, _, _, _, _, _, _, rfl⟩ := written
  exact ⟨rfl, rfl, rfl, rfl, rfl, rfl, rfl, rfl, rfl, rfl, rfl, rfl, rfl, rfl, rfl, rfl, rfl, rfl, rfl⟩

/-! ### Writes that are denied or ignored -/

/-- Only the CTRL of the port that a count lies in changes. -/
theorem portOf_noteRwe_hpt (s : State) (n o m : Nat) :
    { portOf (noteRwe (countIgnored s (.hpt n o)) (.hpt n o)) m with ctrl := (portOf s m).ctrl } = portOf s m := by
  rcases eq_or_ne m n with rfl | hm
  · simp [noteRwe, countIgnored]
  · simp only [noteRwe, countIgnored, portOf_modPort_ne _ _ hm]

/-- Settles O49: the branches of `wrRw` and `wrRwe`, and what a count leaves, block by block. -/
theorem ignoredWritesChangeOnlyCounts : Obligations.IgnoredWritesChangeOnlyCounts := by
  unfold Obligations.IgnoredWritesChangeOnlyCounts
  refine ⟨?_, ?_, ?_⟩
  · rintro s p a v up ⟨n, rfl⟩ denied
    simp [barWrite, up, wrReg, denied, countDenied]
  · intro s b ok f
    exact ⟨fun h => by simp [wrRw, h], fun h => by simp [wrRw, h], fun h => by simp [wrRwe, h], fun h => by simp [wrRwe, h]⟩
  · intro s b
    cases b with
    | hpt n o =>
      exact ⟨_, rfl, rfl, rfl, rfl, rfl, rfl, rfl, rfl, rfl, rfl, rfl, rfl, rfl, rfl, rfl, rfl, rfl, rfl, rfl, rfl, fun m => portOf_noteRwe_hpt s n o m⟩
    | _ => exact ⟨_, rfl, rfl, rfl, rfl, rfl, rfl, rfl, rfl, rfl, rfl, rfl, rfl, rfl, rfl, rfl, rfl, rfl, rfl, rfl, rfl, fun m => rfl⟩

end Sys2Proof.Machine
end

section
/-!
What the Monument answers over SPDM, IDE_KM, TDISP and DOE (R391 to R396).
-/
namespace Sys2Proof.Machine
open Sys2Proof Sys2Proof.Laws

/-! ### Requests of Table 11.3 -/

section
variable {s : State} {a : Asker} (takes : answers s a.who = true) (row : Nat) (body : State → State × SpdmResp)
include takes

theorem spdmReply_answered (h : rowAnswered s a.who row = true) :
    spdmReply s a.who row body = emit (body s).1 (.spdm a.who (body s).2) := by
  simp [spdmReply, takes, h]

theorem spdmReply_unsupported (h : rowAnswered s a.who row = false) :
    spdmReply s a.who row body = emit s (.spdm a.who (.error unsupportedRequest)) := by
  simp [spdmReply, takes, h]

theorem spdmAsk_answered (h : rowAnswered s a.who row = true) (version : a.version = 0x12 ∨ a.version = 0x13) :
    spdmAsk s a row body = emit (body s).1 (.spdm a.who (body s).2) := by
  rw [spdmAsk, spdmReply_answered takes row _ h]
  rcases version with v | v <;> simp [spdmVersions, v]

theorem spdmAsk_mismatch (h : rowAnswered s a.who row = true) (v2 : a.version ≠ 0x12) (v3 : a.version ≠ 0x13) :
    spdmAsk s a row body = emit s (.spdm a.who (.error versionMismatch)) := by
  rw [spdmAsk, spdmReply_answered takes row _ h]
  simp [spdmVersions, v2, v3]

end

theorem rowAnswered_low (s : State) (r : Responder) {row : Nat} (h : row ≤ 2) : rowAnswered s r row = true := by
  simp [rowAnswered, h]

/-- The function of a port as one that asks by DOE. -/
theorem doeDiscovery_answered {s : State} {p : Nat} {f : Fn} (index : Nat)
    (h : answers s (match f with | .pf => .doePf p | .vf v => .doeVf p v) = true) :
    doeDiscovery s p f index = emit s (.doe p f (discovery index)) := if_pos h

theorem spdmExchange_answered {s : State} {h : CmdHdr} {x : Ctx} {cap a : Nat} {b : Bytes} (long : 4 ≤ b.length) (short : b.length ≤ 4096)
    (room : cap ≤ 65536) (r : State × SpdmResp) (hr : r = ringAnswer b (askHash s h.ctx b)) :
    spdmExchange h cap a (some b) s x =
      if (Config.spdmBytes r.1.free).length ≤ cap then
        { st := postData (emit { r.1 with free := r.1.free + 1 } (.spdm (.ring h.ctx) r.2)) x.port (.vf x.vf) a (Config.spdmBytes r.1.free),
          result := (Config.spdmBytes r.1.free).length }
      else { st := { r.1 with free := r.1.free + 1 }, status := CONFIG_REFUSED } := by
  subst hr
  simp only [spdmExchange, long.not_gt, short.not_gt, room.not_gt, or_self, if_false]
  rw [← ite_not]
  simp only [not_lt, CmdRes.refuse]

/-- Settles O36: `spdmAsk` answers each request of a row with its own body. -/
theorem spdmRequestsComplete : Obligations.SpdmRequestsComplete := by
  unfold Obligations.SpdmRequestsComplete
  refine ⟨fun s a takes => ⟨?version, fun ok => ?answered, fun v2 v3 => ?mismatch, fun low m n okk => ?unsupported⟩,
    fun s p index f takes => congrArg _ (doeDiscovery_answered index takes), ?exchange⟩
  case version => exact congrArg _ (spdmReply_answered takes 1 _ (rowAnswered_low s _ (by decide)))
  case answered =>
    have one (body) : spdmAsk s a 1 body = _ := spdmAsk_answered takes 1 body (rowAnswered_low s _ (by decide)) ok
    have two (body) : spdmAsk s a 2 body = _ := spdmAsk_answered takes 2 body (rowAnswered_low s _ (by decide)) ok
    refine ⟨congrArg _ (one _), fun o => congrArg _ (one _), congrArg _ (two _), fun _ _ _ => congrArg _ (two _), fun _ => congrArg _ (two _),
      fun _ _ => congrArg _ (two _), fun _ => congrArg _ (one _), fun row => ?_⟩
    have three (body) : spdmAsk s a 3 body = _ := spdmAsk_answered takes 3 body row ok
    exact ⟨fun _ => congrArg _ (three _), fun _ _ => congrArg _ (three _), fun _ => congrArg _ (three _), fun _ => congrArg _ (three _),
      fun _ => congrArg _ (three _)⟩
  case mismatch =>
    exact ⟨congrArg _ (spdmAsk_mismatch takes 1 _ (rowAnswered_low s _ (by decide)) v2 v3),
      congrArg _ (spdmAsk_mismatch takes 2 _ (rowAnswered_low s _ (by decide)) v2 v3)⟩
  case unsupported =>
    exact ⟨congrArg _ (spdmReply_unsupported takes 3 _ low), congrArg _ (spdmReply_unsupported takes 3 _ low)⟩
  case exchange =>
    rintro s _ h x cap a b hx ready front settled up rfl long short room
    refine ⟨_, _, _, rfl, rfl, rfl, ?_⟩
    have body := spdmExchange_answered (s := dropEntry s h.ctx) (h := h) (x := x) (a := a) long short room _ rfl
    rw [← body]
    have arm : exec (.spdmExchange h cap a (some b)) s =
        .next (ctxCmdAlways s (.spdmExchange h cap a (some b)) h (spdmExchange h cap a (some b))) :=
      congrArg _ (if_neg (by simp [settled, up]))
    rw [arm, ctxCmdAlways, hx]
    simp only [ready, front, Bool.and_self, if_true]

/-! ### Sessions and locked interfaces -/

theorem keyExchange_full {s : State} {r : Asker} (full : sessionLimit r.who ≤ (sessionsOf s r.who).length) :
    keyExchange r true s = (s, .error spdmBusy) := by
  simp [keyExchange, full]

/-- Sessions after one more of `w`. -/
theorem sessionsOf_append {s t : State} {x : Session} (h : t.mon.sessions = s.mon.sessions ++ [x]) (q : Responder) :
    sessionsOf t q = sessionsOf s q ++ if x.resp = q then [x] else [] := by
  simp only [sessionsOf, h, List.filter_append]
  split <;> simp_all

theorem askPk_sessions (s : State) (l : List PkOp) : (askPk s l).mon.sessions = s.mon.sessions := by
  simp only [askPk]
  split
  · unfold startPk
    split <;> rfl
  · rfl

theorem keyExchange_opens {s : State} {r : Asker} (room : (sessionsOf s r.who).length < sessionLimit r.who) :
    ∃ x sig, x.resp = r.who ∧ (keyExchange r true s).1.mon.sessions = s.mon.sessions ++ [x] ∧
      (keyExchange r true s).2 = .keyExchange s.mon.nextSess sig := by
  simp only [keyExchange, Bool.not_true, Bool.false_eq_true, if_false, room.not_ge]
  refine ⟨{ id := s.mon.nextSess, resp := r.who, version := r.version, keys := (freeBytes (askPk s [.agree]) 88).1 }, _, rfl, ?_, rfl⟩
  rw [aliasSign, askPk_sessions]
  exact congrArg (· ++ _) (askPk_sessions s _)

theorem lockInterface_cases (s : State) (p n vf : Nat) : lockInterface p n vf s = (s, .tdispError) ∨
    ∃ c x k e, vfCtx s p vf = some (c, x) ∧ x.surveyor = false ∧ (k, e) ∈ (portOf s p).ide ∧ e.selective = some (.vf vf) ∧
      lockInterface p n vf s = (setTdi s c .locked (some k) n, .tdisp 3 []) := by
  unfold lockInterface
  split
  case h_1 c x k e ctx stream =>
    split
    case isTrue => exact .inl rfl
    case isFalse free =>
      have sel := List.find?_some stream
      simp only [Bool.or_eq_true, not_or, Bool.not_eq_true, beq_iff_eq] at free sel
      exact .inr ⟨c, x, k, e, ctx, free.1, List.mem_of_find?_eq_some stream, sel, rfl⟩
  case h_2 => exact .inl rfl

/-- Settles O37: the two outcomes of KEY_EXCHANGE at the limit, and the one way in which LOCK_INTERFACE_REQUEST locks. -/
theorem sessionAndLockConditions : Obligations.SessionAndLockConditions := by
  unfold Obligations.SessionAndLockConditions
  refine ⟨fun s t r a answer => ⟨fun room => ?_, fun full => ?_⟩, fun s t p n vf a answer => ?_⟩
  · obtain ⟨x, sig, own, sessions, resp⟩ := keyExchange_opens room
    rw [answer] at sessions resp
    refine ⟨⟨sig, resp⟩, ?_, fun q hq => ?_⟩
    · rw [sessionsOf_append sessions, if_pos own, List.length_append]
      rfl
    · rw [sessionsOf_append sessions, if_neg (own ▸ hq.symm), List.append_nil]
  · rw [keyExchange_full full] at answer
    cases answer
    exact ⟨rfl, rfl⟩
  · rcases lockInterface_cases s p n vf with refused | ⟨c, x, k, e, ctx, host, stream, sel, locked⟩
    · rw [refused] at answer
      cases answer
      exact ⟨nofun, fun _ => ⟨rfl, rfl⟩⟩
    · rw [locked] at answer
      cases answer
      exact ⟨fun _ => ⟨c, x, k, ctx, host, ⟨(k, e), stream, rfl, sel⟩, rfl⟩, fun ne => absurd rfl ne⟩

/-! ### IDE_KM and TDISP -/

section
variable {s : State} {p n : Nat} (takes : answers s (.doePf p) = true) (live : terminal s = false) (held : hasSession s (.doePf p) n true = true)
include takes live held

theorem vendorAsk_held (outside : SpdmResp) (body : State → State × SpdmResp) :
    vendorAsk s p n outside body = emit (body s).1 (.spdm (.doePf p) (body s).2) := by
  simp [vendorAsk, spdmReply, takes, rowAnswered, live, held]

theorem tdispAsk_held {vf : Nat} (h : vf < 64) (body : State → State × SpdmResp) :
    tdispAsk s p n vf body = emit (body s).1 (.spdm (.doePf p) (body s).2) := by
  rw [tdispAsk, vendorAsk_held takes live held]
  simp [h]

end

theorem ideFailure_secure {s : State} {p k : Nat} {e : IdeStream} (stream : tget (portOf s p).ide k = some e) (port : p < nHost s)
    (secure : e.secure = true) (v u : State) (hv : v = modPort s p fun x => { x with ide := tput x.ide k { e with secure := false } })
    (hu : u = logFault v 0x0C (hostPlat v p) 0 p 0) :
    ideFailure s p k = ((u.ctxs.filter fun c => c.2.port == p && c.2.stream == some k && tdiHeld c.2).map (·.1)).foldl
      (fun s c => closeCtx s c 4) u := by
  subst hv hu
  simp [ideFailure, stream, port, secure]

/-- Settles O38: `vendorAsk_held` and `tdispAsk_held` for the requests in a session, `ideFailure_secure` for a failure. -/
theorem ideAndTdispComplete : Obligations.IdeAndTdispComplete := by
  unfold Obligations.IdeAndTdispComplete
  refine ⟨fun s p n takes live held => ?_, fun s p k e stream port secure => ⟨_, _, rfl, rfl, ?_⟩⟩
  · have ide (outside body) : vendorAsk s p n outside body = _ := vendorAsk_held takes live held outside body
    refine ⟨fun _ _ _ => congrArg _ (ide _ _), fun _ => congrArg _ (ide _ _), fun _ => congrArg _ (ide _ _),
      fun _ => congrArg _ (ide _ _), fun vf hvf => ?_⟩
    have tdi (body) : tdispAsk s p n vf body = _ := tdispAsk_held takes live held hvf body
    exact ⟨congrArg _ (tdi _), congrArg _ (tdi _), congrArg _ (tdi _), congrArg _ (tdi _), congrArg _ (tdi _), congrArg _ (tdi _)⟩
  · exact congrArg Host.Outcome.next (ideFailure_secure stream port secure _ _ rfl rfl)

end Sys2Proof.Machine
end

section
/-!
The Tie Ports (R301 to R306, R369 to R377, R394, R426): frames taken, the messages they bring, the steps of a link, landings and outlets.
-/
namespace Sys2Proof.Machine
open Sys2Proof Sys2Proof.Laws

/-! ### Taking a frame (R370 to R372) -/

section
variable {s : State} {t : Nat} {h : TieHdr} (ht : t < nTie s) (act : (tieOf s t).st = .active)
include ht act

theorem takeFrame_badCrc (cls len : Nat) (crc : h.crcOk = false) :
    takeFrame s t h cls len = (sendControl (countNak s t) t 0x02 [(0x14, 4, (tieOf s t).rxSeq)] [], false) := by
  simp [takeFrame, ht, act, crc]

theorem takeFrame_outOfSequence (cls len : Nat) (crc : h.crcOk = true) (seq : h.lseq ≠ (tieOf s t).rxSeq) : takeFrame s t h cls len =
    (if 2147483648 ≤ sub32 h.lseq (tieOf s t).rxSeq then sendControl s t 0x01 [] [] else s, false) := by
  simp [takeFrame, ht, act, crc, seq]

theorem takeFrame_badTag (cls len : Nat) (crc : h.crcOk = true) (seq : h.lseq = (tieOf s t).rxSeq) (tag : h.tagOk = false) (u : State)
    (hu : u = modTie s t fun x => { x with tagFails := satAdd max32 x.tagFails 1 }) :
    takeFrame s t h cls len = (tieLinkDown (logFault u 0x0C (tiePlat u t) 0 t 0) t none, false) := by
  subst hu
  simp [takeFrame, ht, act, crc, seq, tag]

theorem takeFrame_taken (cls len : Nat) (crc : h.crcOk = true) (seq : h.lseq = (tieOf s t).rxSeq) (tag : h.tagOk = true) (u : State)
    (hu : u = modTie s t fun x =>
      { x with rxSeq := wrap32 (x.rxSeq + 1), owed := setAt x.owed cls (· + ceilDiv (32 + len + 16 + 4) 64) }) :
    takeFrame s t h cls len = (sendControl (gotHeader u t h) t 0x01 [] [], true) := by
  subst hu
  simp [takeFrame, ht, act, crc, seq, tag]

end

/-- Settles O28: `takeFrame` judges the CRC, then the sequence, then the tag. -/
theorem tieFrameTaken : Obligations.TieFrameTaken := by
  unfold Obligations.TieFrameTaken
  intro s t h cls len ht act
  exact ⟨fun crc seq tag => ⟨_, rfl, takeFrame_taken ht act cls len crc seq tag _ rfl⟩,
    fun crc seq tag => ⟨_, rfl, takeFrame_badTag ht act cls len crc seq tag _ rfl⟩,
    fun crc seq => takeFrame_outOfSequence ht act cls len crc seq, fun crc => takeFrame_badCrc ht act cls len crc⟩

/-! ### Messages of taken frames -/

/-- The state that a bulk write's bytes leave, with the transfers other than its own. -/
def landed (s : State) (n : Landing) (off : Nat) (d : Bytes) (src l tag : Nat) (more : List Xfer) : State :=
  { wrObj s (objKey n.ctx n.obj) off d with
    xfers := ((wrObj s (objKey n.ctx n.obj) off d).xfers.filter fun y => !isXfer src l tag y) ++ more }

section
variable {s u : State} {t : Nat} {h : TieHdr}

theorem landingFails_fits {l off len : Nat} {n : Landing} {o : Obj} (hl : tget s.landings l = some n) (ho : objOf s n.ctx n.obj = some o)
    (home : ready s o.home = true) (above : inArchive o = false) (fits : off + len ≤ o.length) : landingFails s l off len false = 0 := by
  simp [landingFails, hl, ho, home, above, fits]

theorem bulkWrite_first {l tag off : Nat} {d : Bytes} {n : Landing} {o : Obj} (us : forUs s h = true)
    (taken : takeFrame s t h 1 d.length = (u, true)) (hl : tget u.landings l = some n) (ho : objOf u n.ctx n.obj = some o)
    (home : ready u o.home = true) (above : inArchive o = false) (fits : off + d.length ≤ o.length) (last : Bool) (x : Xfer)
    (hx : x = { src := h.src, landing := l, tag := tag, bytes := d.length, fail := 0, first := off, ranges := [(off, d.length)] }) :
    bulkWrite s t h l true last tag off d false =
      if last then endTransfer (landed u n off d h.src l tag []) x else landed u n off d h.src l tag [x] := by
  subst hx
  simp [bulkWrite, us, taken, hl, landingFails_fits hl ho home above fits, landed]

theorem bulkAck_taken {l tag : Nat} (us : forUs s h = true) (taken : takeFrame s t h 3 0 = (u, true)) :
    bulkAck s t h l tag = transferDone u h.src l tag 0 := by
  simp [bulkAck, us, taken]

theorem lateFault_taken {l reason tag : Nat} (us : forUs s h = true) (taken : takeFrame s t h 3 0 = (u, true)) :
    lateFault s t h l reason tag = transferDone u h.src l tag reason := by
  simp [lateFault, us, taken]

theorem query_whole {v tag budget : Nat} {d : Bytes} (us : forUs s h = true) (taken : takeFrame s t h 2 d.length = (u, true)) :
    query s t h v true true tag budget d = queryArrives
      (modTie u t fun x => { x with parts := tdel x.parts (h.src * 4294967296 + tag) }) h.src v tag budget d := by
  simp [query, us, taken]

/-- A fan-out's slot is filled: it is no longer missing. -/
def slotFilled (s : State) (f : Fan) (tag : Nat) (d : Bytes) : State :=
  { s with fans := s.fans.map fun x =>
      if x.id = tag / 256 then { x with missing := x.missing.filter (· != tag % 256), parts := tdel x.parts (tag % 256),
                                        part := x.part || slotPartial f.listLen d }
      else x }

theorem replyReceived_whole {tag off : Nat} {d : Bytes} {f : Fan} (us : forUs s h = true) (taken : takeFrame s t h 3 d.length = (u, true))
    (waits : u.fans.find? (fun f => f.id == tag / 256 && fanWaits u f && f.missing.contains (tag % 256) &&
      f.nodes.contains (tag % 256, h.src)) = some f) :
    replyReceived s t h true true tag off d = slotFilled
      (onSnaps u f.leg fun v => wrOp v f.leg.ctx ⟨f.obj, f.off, 0⟩ (tag % 256 * f.slotLen) (d.take f.slotLen)) f tag d := by
  simp only [replyReceived, us, taken, waits]
  simp [slotFilled]

theorem tieFrameForward_unknown {type : Nat} {msg d : Bytes} (noClass : typeClass type = none) (unknown : typeKnown type = false) :
    tieFrameForward s t h type msg d = unknownFrame s t h d.length := by
  simp [tieFrameForward, noClass, unknown]

theorem tieFrameForward_onward {type cls : Nat} {msg d : Bytes} (us : forUs s h = false) (one : h.dst ≠ 0xFF)
    (hc : typeClass type = some cls) (taken : takeFrame s t h cls d.length = (u, true)) :
    tieFrameForward s t h type msg d = if h.hops = 0 then badFrame u else sendTo u h.dst
      [{ type := type, cls := cls, dst := h.dst, src := h.src, hops := h.hops - 1, msg := [(0x14, 12, leNat msg)], payload := d }] := by
  simp [tieFrameForward, hc, us, one, taken]

end

/-- Settles O29: an equation for each message of a taken frame, and for a frame that goes on. -/
theorem tieMessagesComplete : Obligations.TieMessagesComplete := by
  unfold Obligations.TieMessagesComplete
  intro s u t h
  refine ⟨?bulk, fun _ _ _ us taken => congrArg _ (bulkAck_taken us taken), fun _ _ _ _ us taken => congrArg _ (lateFault_taken us taken),
    fun _ _ _ _ us taken => congrArg _ (query_whole us taken),
    fun tag off d f us taken waits => ⟨_, rfl, congrArg _ (replyReceived_whole us taken waits)⟩, ?unknown,
    fun _ _ _ _ us one hc taken => congrArg _ (tieFrameForward_onward us one hc taken)⟩
  case bulk =>
    rintro l tag off d n o _ us taken hl ho home above fits rfl
    have first (last) := bulkWrite_first (tag := tag) us taken hl ho home above fits last _ rfl
    refine ⟨congrArg _ ((first true).trans ?_), congrArg _ ((first false).trans rfl)⟩
    simp [landed]
  case unknown =>
    rintro type _ msg d noClass unknown rfl
    exact congrArg _ (tieFrameForward_unknown noClass unknown)

/-! ### Steps of a link (R371 to R373, R394, R426) -/

section
variable {s : State} {t : Nat} {h : TieHdr} (ht : t < nTie s) (crc : h.crcOk = true)
include ht crc

theorem takeControl_active (act : (tieOf s t).st = .active) : takeControl s t h = true := by
  simp [takeControl, ht, crc, act]

theorem idleCredit_taken (act : (tieOf s t).st = .active) : idleCredit s t h = gotControl s t h 0 :=
  if_pos (takeControl_active ht crc act)

theorem nak_taken (act : (tieOf s t).st = .active) (n : Nat) :
    nak s t h n = resend (countNak (gotControl s t { h with lack := n } 0) t) t := if_pos (takeControl_active ht crc act)

/-- A record kept of a node is older than one numbered `r`. -/
theorem topology_newer (act : (tieOf s t).st = .active) {u : State} {origin n0 n1 r : Nat} (hu : u = gotControl s t h 16)
    (other : origin ≠ ownNode u) (newer : ∀ x, tget u.tpt.records origin = some x → x.rseq ≠ r ∧ sub32 r x.rseq < 2147483648) :
    topology s t h origin n0 n1 r = reroute (sendRecord
      { u with tpt := { u.tpt with records := tput u.tpt.records origin ⟨n0, n1, r⟩ } } origin ⟨n0, n1, r⟩ (some t)) := by
  subst hu
  simp only [topology, takeControl_active ht crc act, if_true]
  refine if_pos ⟨?_, other⟩
  cases held : tget (gotControl s t h 16).tpt.records origin with
  | none => rfl
  | some x =>
    obtain ⟨apart, ahead⟩ := newer x held
    simp [apart, ahead]

theorem hello_received {u : State} {node variant epoch : Nat} {g : List Nat} (st : (tieOf s t).st = .hello)
    (hu : u = modTie (modTie s t fun x => { x with variant := variant }) t fun x =>
      { x with peerNode := node, peerEpoch := epoch, credits := g.take 4 }) :
    hello (modTie s t fun x => { x with variant := variant }) t h node epoch g =
      if node = ownNode s then tieRefuse u t 1 node epoch
      else if tieEpoch s + 1 < epoch ∨ epoch + 1 < tieEpoch s then tieRefuse u t 2 node epoch
      else beginAuth (modTie u t fun x => { x with st := .auth }) t := by
  subst hu
  refine if_pos ⟨ht, crc, ?_⟩
  rw [tieOf_modTie_same]
  exact st

theorem exec_hello {u : State} {node variant epoch : Nat} {g : List Nat} (st : (tieOf s t).st = .hello)
    (hu : u = modTie (modTie s t fun x => { x with variant := variant }) t fun x =>
      { x with peerNode := node, peerEpoch := epoch, credits := g.take 4 }) :
    exec (.hello t h node variant epoch g) s = .next (
      if node = ownNode s then tieRefuse u t 1 node epoch
      else if tieEpoch s + 1 < epoch ∨ epoch + 1 < tieEpoch s then tieRefuse u t 2 node epoch
      else beginAuth (modTie u t fun x => { x with st := .auth }) t) := by
  rw [← hello_received ht crc st hu]
  exact congrArg (fun v => Host.Outcome.next (hello v t h node epoch g)) (if_pos ⟨ht, crc, st⟩)

theorem auth_ends (st : (tieOf s t).st = .auth) (settled : (platOf s 0).switching = false) (run : s.mon.running = true) (a : PeerAuth) :
    auth s t h (some a) = endAuth s t (authHolds s a) := by
  simp [auth, ht, crc, st, settled, run]

end

theorem authHolds_of_all {s : State} {a : PeerAuth} (root : a.root = true) (session : a.session = true)
    (lock : s.fuses.fieldLock = true → a.locked = true) : authHolds s a = true := by
  cases field : s.fuses.fieldLock with
  | false => simp [authHolds, root, session, field]
  | true => simp [authHolds, root, session, lock field]

theorem authHolds_of_any_fails {s : State} {a : PeerAuth}
    (fails : a.root = false ∨ a.session = false ∨ s.fuses.fieldLock = true ∧ a.locked = false) : authHolds s a = false := by
  rcases fails with root | session | ⟨field, unlocked⟩
  · simp [authHolds, root]
  · simp [authHolds, session]
  · simp [authHolds, field, unlocked]

/-! ### Timed steps (R372, R373, R377, R426) -/

theorem ackTimeout_outlet {s : State} {c o tag : Nat} {x : Outlet} {w : Sent} (hx : tget s.outlets (outletKey c o) = some x)
    (notLoose : ∀ y ∈ s.loose, y.outlet ≠ outletKey c o ∨ y.sent.tag ≠ tag) (hw : x.unacked.find? (fun w => w.tag == tag) = some w)
    (due : w.limit ≤ s.sup.now) :
    ackTimeout s c o tag = releaseOutlet (writeFailed (dropSent s (outletKey c o) tag) w 5 x.node) (outletKey c o) := by
  have none : s.loose.find? (fun y => y.outlet == outletKey c o && y.sent.tag == tag) = none := by
    simp only [List.find?_eq_none, Bool.and_eq_true, beq_iff_eq]
    exact fun y hy same => (notLoose y hy).elim (· same.1) (· same.2)
  simp [ackTimeout, none, hx, hw, due]

theorem ackTimeout_loose {s : State} {c o tag : Nat} {y : Loose}
    (hy : s.loose.find? (fun y => y.outlet == outletKey c o && y.sent.tag == tag) = some y) (due : y.sent.limit ≤ s.sup.now) :
    ackTimeout s c o tag = writeFailed { s with loose := s.loose.erase y } y.sent 5 y.node := by
  simp [ackTimeout, hy, due]

theorem retryDue_of_le {s : State} {t n : Nat} (retry : (tieOf s t).retryAt = some n) (due : n ≤ s.sup.now) : retryDue s t = true := by
  simp [retryDue, retry, due]

theorem tieReplayTimeout_due {s : State} {t : Nat} (act : (tieOf s t).st = .active) (held : (tieOf s t).replay ≠ [])
    (due : (tieOf s t).lackAt + 20000 ≤ s.sup.now) : tieReplayTimeout s t = resend s t := by
  simp [tieReplayTimeout, act, held, due]

theorem tieLightDetect_starts {s : State} {t n : Nat} (allowed : tieAllowed s t = true) (down : (tieOf s t).st = .down)
    (idle : (tieOf s t).retryAt = none) (lanes : 2 ≤ n) : tieLightDetect s t n = modTie s t fun x => { x with st := .levelRun } := by
  simp [tieLightDetect, allowed, down, idle, lanes]

/-- Settles O30: an equation for each control frame and timed step. -/
theorem tieLinkStepsComplete : Obligations.TieLinkStepsComplete := by
  unfold Obligations.TieLinkStepsComplete
  refine ⟨⟨fun s t h ht crc act => ⟨congrArg _ (idleCredit_taken ht crc act), fun n => congrArg _ (nak_taken ht crc act n),
      fun u origin n0 n1 r hu other newer => congrArg _ (topology_newer ht crc act hu other newer)⟩,
      fun s u t node variant epoch h g ht crc st hu => exec_hello ht crc st hu, ?authentication⟩,
    fun s c o tag x w hx notLoose hw due => congrArg _ (ackTimeout_outlet hx notLoose hw due),
    fun s c o tag y hy due => congrArg _ (ackTimeout_loose hy due), fun s run due => congrArg _ (if_pos ⟨run, due⟩),
    fun s t act held due => congrArg _ (tieReplayTimeout_due act held due),
    fun s t n allowed down idle lanes => congrArg _ (tieLightDetect_starts allowed down idle lanes),
    fun s t ht up => congrArg _ (if_pos ⟨ht, up⟩),
    fun s t n refused retry due => congrArg _ (if_pos ⟨refused, retryDue_of_le retry due⟩),
    fun s t n allowed down retry due => congrArg _ (if_pos ⟨allowed, down, retryDue_of_le retry due⟩)⟩
  intro s t h a ht crc st settled run
  refine ⟨fun root session lock => ?_, fun fails => ⟨_, rfl, ?_⟩⟩
  · refine congrArg _ ((auth_ends ht crc st settled run a).trans ?_)
    rw [authHolds_of_all root session lock]
    rfl
  · refine congrArg _ ((auth_ends ht crc st settled run a).trans ?_)
    rw [authHolds_of_any_fails fails]
    rfl

/-! ### Landings and outlets (R374) -/

section
variable {s : State} {h : CmdHdr} {x : Ctx}

theorem landingBind_binds {n obj arrive : Nat} {o : Obj} (hn : n < 256) (free : tget s.landings n = none) (ho : ownAbove s h.ctx obj = some o)
    (field : refField x arrive = 0) (right : refRight x arrive true = 0) :
    landingBind h n obj arrive s x = { st := { s with landings := tput s.landings n ⟨h.ctx, obj, arrive⟩ } } := by
  simp [landingBind, hn, free, ho, field, right, firstFail, need]

theorem landingUnbind_own {n : Nat} {l : Landing} (hl : tget s.landings n = some l) (own : l.ctx = h.ctx) :
    landingUnbind h n s x = { st := { s with landings := tdel s.landings n } } := by
  simp [landingUnbind, hl, own]

theorem outletBind_binds {obj node landing off n : Nat} {o : Obj} (ho : ownAbove s h.ctx obj = some o) (hnode : node ≤ 63)
    (hland : landing ≤ 255) (hoff : off < 2 ^ 48) (hn : lowestFree s.outlets (outletKey h.ctx 0) 64 = some n) :
    outletBind h obj node landing off s x =
      { st := { s with outlets := tput s.outlets (outletKey h.ctx n)
                         { ctx := h.ctx, obj := obj, node := node, landing := landing, offset := off } },
        result := n } := by
  simp only [outletBind, ho, hn]
  refine if_neg ?_
  simp only [Option.isNone_some, Bool.false_eq_true, false_or]
  omega

end

/-- Settles O31: an equation for each command. -/
theorem landingAndOutletCommandsComplete : Obligations.LandingAndOutletCommandsComplete := by
  unfold Obligations.LandingAndOutletCommandsComplete
  rintro s _ h x rfl
  exact ⟨fun n obj arrive o H hn free ho field right => exec_of_ctxCmd H rfl (landingBind_binds hn free ho field right),
    fun n l H hl own => exec_of_ctxCmd H rfl (landingUnbind_own hl own),
    fun obj node landing off n o H ho hnode hland hoff hn => exec_of_ctxCmd H rfl (outletBind_binds ho hnode hland hoff hn),
    fun n H hn held => exec_of_ctxCmd H rfl (if_pos ⟨hn, held⟩)⟩

end Sys2Proof.Machine
end

section
/-!
Steps of the Host and Tie Ports: Level Runs, links, resets, power states, configuration and failed reads (R352 to R362, R366 to R368).
-/
namespace Sys2Proof.Machine
open Sys2Proof Sys2Proof.Laws

/-! ### Links of a Host Port -/

section
variable {s : State} {p : Nat} (hp : p < nHost s)
include hp

theorem levelRun_short (failed : (portOf s p).link = 4) : levelRun s (.host p) true = emit s (.levelRun (.host p) true) := by
  simp [levelRun, hp, failed]

theorem levelRunDone_host {rx : List LaneRx} {good : List Nat} {u : State} (run : (portOf s p).link = 1 ∨ (portOf s p).link = 4)
    (hgood : good = goodLanes (.host p) ((portOf s p).link == 4) rx) (hu : u = emit s (.laneWords (.host p)
      ((physLanes (.host p)).map fun i => laneWord (portKind (.host p)) i (rxGood (.host p) ((portOf s p).link == 4) rx)))) :
    levelRunDone s (.host p) rx = if good.length < 2 then hostDown u p
      else modPort (hostLanes u p good) p fun x => { x with link := if x.link = 1 then 2 else 3 } := by
  subst hgood hu
  exact if_pos (by simp [levelling, hp, run])

theorem laneFault_host {lane : Nat} (up : (portOf s p).link = 3) (good : lane ∈ (portOf s p).good) : laneFault s (.host p) lane =
    modPort s p fun x => { x with link := 4, good := x.good.filter (· != lane) } := by
  simp [laneFault, hp, up, good]

theorem portResumed_up {d : Down} {u : Nat} (down : (portOf s p).down = some d) (back : d.up = some u) (up : linkUp s p = true) (v : State)
    (hv : v = modPort s p fun x => { x with down := none, downDrops := 0, firstDrop := 0, lastDrop := 0 }) :
    portResumed s p = eventTo v (ctxsOn v p) 0x0420 0 [(0x10, 1, p), (0x14, 4, (portOf s p).downDrops),
      (0x18, 8, (portOf s p).firstDrop), (0x20, 8, (portOf s p).lastDrop), (0x28, 8, d.at_), (0x30, 8, u)] := by
  obtain ⟨t, g, w⟩ := d
  cases back
  subst hv
  simp [portResumed, down, hp, up]

theorem linkGraceExpire_over {d : Down} (down : (portOf s p).down = some d) (still : d.up = none)
    (expired : d.at_ + d.graceMs * 1000000 ≤ s.sup.now) : linkGraceExpire s p = markScan (modPort (resetPf s p 3) p fun x =>
      { x with down := none, downDrops := 0, firstDrop := 0, lastDrop := 0, ide := [] }) := by
  obtain ⟨t, g, w⟩ := d
  cases still
  simp only [linkGraceExpire, down]
  exact if_pos ⟨hp, expired⟩

theorem flrVf_open {v c : Nat} {x : Ctx} (hv : v < 64) (up : linkUp s p = true) (hx : vfCtx s p v = some (c, x)) :
    flrVf s p v = modPort (closeCtx s c 2) p fun x => { x with fns := tdel x.fns (fnKey (.vf v)) } := by
  simp [flrVf, hp, hv, up, hx]

theorem flrVf_closed {v : Nat} (hv : v < 64) (up : linkUp s p = true) (hx : vfCtx s p v = none) :
    flrVf s p v = modPort s p fun x => { x with fns := tdel x.fns (fnKey (.vf v)) } := by
  simp [flrVf, hp, hv, up, hx]

theorem flrPf_up (up : linkUp s p = true) (hot : Bool) :
    flrPf s p hot = markScan (if hot then modPort (resetPf s p 2) p fun x => { x with ide := [] } else resetPf s p 2) := if_pos ⟨hp, up⟩

theorem powerStateChange_up {f : Fn} (up : linkUp s p = true) (hf : fnExists f = true) (d3 : Bool) : powerStateChange s p f d3 =
    markScan (if d3 then modFn s p f fun x => { x with d3 := true }
      else sendAllPending (modFn s p f fun x => { x with d3 := false }) p) := by
  cases d3 <;> exact if_pos ⟨hp, up, hf⟩

/-! ### Configuration and failed reads -/

theorem msixUnmask_up {f : Fn} {v : Nat} (up : linkUp s p = true) : msixUnmask s p f v = maskVector s p f v false := if_pos ⟨hp, up⟩

/-- What a configuration access that reaches its function does. -/
theorem configurationWrite_reads {f : Fn} (up : linkUp s p = true) (hf : fnExists f = true) (i : CfgItem) :
    configurationWrite s p f (.read i) = emit s (.config p f i (configValue s p f i)) := if_pos ⟨hp, up, hf⟩

end

theorem maskVector_unmasks {s : State} {f : Fn} {v : Nat} (hv : v < vectors f) (hf : fnExists f = true) (p : Nat) (u : State)
    (hu : u = modFn s p f fun x => { x with unmasked := if x.unmasked.contains v then x.unmasked else x.unmasked ++ [v] }) :
    maskVector s p f v false = sendPending u p f := by
  subst hu
  exact if_pos ⟨hv, hf⟩

theorem maskVector_masks {s : State} {f : Fn} {v : Nat} (hv : v < vectors f) (hf : fnExists f = true) (p : Nat) :
    maskVector s p f v true = modFn s p f fun x => { x with unmasked := x.unmasked.filter (· != v) } := if_pos ⟨hv, hf⟩

theorem hostReadFailure_sweep {s : State} {r : RingId} {p : Nat} (on : swept s r = true) (port : ringPort s r = p) :
    hostReadFailure s p (.sweep r) = sweepFail (modRing s r fun g => { g with swps := g.swps - 1 }) p := by
  simp [hostReadFailure, on, port]

theorem hostReadFailure_fetch {s : State} {r : RingId} {p : Nat} (on : swept s r = true) (port : ringPort s r = p) :
    hostReadFailure s p (.fetch r) = sweepFail (modRing s r fun g => { g with asked := 0 }) p := by
  simp [hostReadFailure, on, port]

/-! ### Links of a Tie Port -/

section
variable {s : State} {t : Nat} (ht : t < nTie s)
include ht

theorem levelRun_tie (short : Bool) (st : (tieOf s t).st = if short then .recovery else .levelRun) :
    levelRun s (.tie t) short = emit s (.levelRun (.tie t) short) := by
  cases short <;> simp_all [levelRun]

theorem levelRunDone_tie {rx : List LaneRx} {short : Bool} {good : List Nat} {u v : State}
    (st : (tieOf s t).st = .levelRun ∨ (tieOf s t).st = .recovery) (hshort : short = decide ((tieOf s t).st = .recovery))
    (hgood : good = goodLanes (.tie t) short rx) (hu : u = emit s (.laneWords (.tie t)
      ((physLanes (.tie t)).map fun i => laneWord (portKind (.tie t)) i (rxGood (.tie t) short rx))))
    (hv : v = tieLevelDone (modTie u t fun x => { x with spareLane := decide (good.length = 3) }) t good) :
    levelRunDone s (.tie t) rx = if (tieOf s t).spareLane = true ∧ good.length ≠ 3 then tellLane v (.tie t) else v := by
  subst hshort hgood hu hv
  refine (if_pos (by simp [levelling, ht, st])).trans ?_
  exact if_congr (by simp only [Bool.and_eq_true, Bool.not_eq_true', decide_eq_false_iff_not, ne_eq]; exact Iff.rfl) rfl rfl

theorem laneFault_tie {lane : Nat} (act : (tieOf s t).st = .active) (good : lane ∈ (tieOf s t).good) : laneFault s (.tie t) lane =
    modTie s t fun x => { x with st := .recovery, good := x.good.filter (· != lane) } := by
  simp [laneFault, ht, act, good]

end

/-- Settles O32: an equation for each step of a port. -/
theorem portStepsComplete : Obligations.PortStepsComplete := by
  unfold Obligations.PortStepsComplete
  refine ⟨fun s p hp => ?links, fun s p f hp up hf => ?config, fun s t ht => ?tie⟩
  case links =>
    exact ⟨fun allowed down => congrArg _ (if_pos ⟨allowed, down⟩), fun failed => congrArg _ (levelRun_short hp failed),
      fun rx good u run hgood hu => congrArg _ (levelRunDone_host hp run hgood hu),
      fun allowed st due => congrArg _ (if_pos ⟨allowed, st, due⟩),
      fun w fast allowed st hw => ⟨_, rfl, congrArg _ (if_pos ⟨allowed, st, hw⟩)⟩,
      fun lane link good => congrArg _ (laneFault_host hp link good), fun link => congrArg _ (if_pos ⟨hp, link⟩),
      fun d u down back up => ⟨_, rfl, congrArg _ (portResumed_up hp down back up _ rfl)⟩,
      fun d down still expired => congrArg _ (linkGraceExpire_over hp down still expired),
      fun v c x hv up hx => congrArg _ (flrVf_open hp hv up hx),
      fun up => ⟨congrArg _ (flrPf_up hp up false), congrArg _ (flrPf_up hp up true)⟩,
      fun v hv up hx => congrArg _ (flrVf_closed hp hv up hx),
      fun f up hf => ⟨congrArg _ (powerStateChange_up hp up hf true), congrArg _ (powerStateChange_up hp up hf false)⟩⟩
  case config =>
    refine ⟨fun v hv => ⟨_, rfl, congrArg _ ((msixUnmask_up hp up).trans (maskVector_unmasks hv hf p _ rfl)),
        congrArg _ ((if_pos ⟨hp, up, hf⟩).trans (maskVector_unmasks hv hf p _ rfl)),
        congrArg _ ((if_pos ⟨hp, up, hf⟩).trans (maskVector_masks hv hf p))⟩,
      fun i => congrArg _ (configurationWrite_reads hp up hf i), fun n hn => ?payload, fun n hn => ?request, fun n on hn pf => ?vfs,
      fun on => congrArg _ (if_pos ⟨hp, up, hf⟩), fun on => congrArg _ (if_pos ⟨hp, up, hf⟩), fun o v => congrArg _ (if_pos ⟨hp, up, hf⟩),
      fun r on port => ⟨congrArg _ (hostReadFailure_sweep on port), congrArg _ (hostReadFailure_fetch on port)⟩, congrArg _ (if_pos hp), rfl⟩
    case payload =>
      have code : sizeCode 512 n = true := by rcases hn with rfl | rfl | rfl <;> rfl
      exact congrArg _ ((if_pos ⟨hp, up, hf⟩).trans (if_pos code))
    case request =>
      have code : sizeCode 4096 n = true := by rcases hn with rfl | rfl | rfl | rfl | rfl | rfl <;> rfl
      exact congrArg _ ((if_pos ⟨hp, up, hf⟩).trans (if_pos code))
    case vfs => exact congrArg _ ((if_pos ⟨hp, up, hf⟩).trans (if_pos ⟨pf, hn⟩))
  case tie =>
    exact ⟨fun st => congrArg _ (levelRun_tie ht false st), fun st => congrArg _ (levelRun_tie ht true st),
      fun rx short good u v st hshort hgood hu hv => congrArg _ (levelRunDone_tie ht st hshort hgood hu hv),
      fun lane act good => congrArg _ (laneFault_tie ht act good)⟩

end Sys2Proof.Machine
end

section
/-!
The Monument's commands: Holdings (R334, R390), firmware update (R399 to R406), the Update Reset and the fuses (R398, R407 to R410).
-/
namespace Sys2Proof.Machine
open Sys2Proof Sys2Proof.Laws

/-! ### Holdings -/

section
variable {s : State} {c name k : Nat} {d : Holding} (named : s.mon.holdings.find? (fun e => e.2.name == name) = some (k, d))
include named

theorem attachExisting_attaches {v : Bytes} {e : Holding} (open_ : d.fails < 16) (mac : d.mac = authMac s v) (free : d.ctx = none)
    (he : e = { d with fails := 0, ctx := some c, keys := unwrapKey s.mon.keys.storage d.wrapped }) :
    attachExisting s c name (some v) =
      { st := sendKeys { s with mon := { s.mon with holdings := tput s.mon.holdings k e } }, result := k } := by
  subst he
  simp [attachExisting, named, open_.not_ge, mac, free, attach]

theorem attachExisting_wrong {o : Option Bytes} {e : Holding} (open_ : d.fails < 16) (wrong : ∀ v, o = some v → authMac s v ≠ d.mac)
    (he : e = { d with fails := d.fails + 1 }) : attachExisting s c name o =
      { st := { s with mon := { s.mon with holdings := tput s.mon.holdings k e } }, status := ACCESS_DENIED } := by
  subst he
  have differs : ¬ o.map (authMac s) = some d.mac := by
    rw [Option.map_eq_some_iff]
    rintro ⟨v, hv, mac⟩
    exact wrong v hv mac
  simp only [attachExisting, named, open_.not_ge, differs, if_false]
  rfl

theorem attachExisting_closed (o : Option Bytes) (closed : 16 ≤ d.fails) :
    attachExisting s c name o = { st := s, status := ACCESS_DENIED } := by
  simp [attachExisting, named, closed, CmdRes.refuse]

end

theorem attachNew_makes {s : State} {c name k : Nat} {v : Bytes} {d : Bytes × State} (new : ∀ e ∈ s.mon.holdings, e.2.name ≠ name)
    (hk : lowestFree s.mon.holdings 0 256 = some k) (hd : d = drawKey s 128) : attachNew s c name v =
      { st := sendKeys { d.2 with mon := { d.2.mon with
                keyCount := d.2.mon.keyCount + 1
                holdings := tput d.2.mon.holdings k
                  { name := name, mac := authMac d.2 v, wrapped := wrapKey d.2.mon.keys.storage d.1, fails := 0, ctx := some c,
                    keys := unwrapKey d.2.mon.keys.storage (wrapKey d.2.mon.keys.storage d.1) } } },
        result := k } := by
  have none : (s.mon.holdings.any fun e => e.2.name == name) = false := by simpa using new
  simp [attachNew, none, hk, ← hd, attach]

section
variable {s : State} {h : CmdHdr} {x : Ctx} (settled : (platOf s 0).switching = false) (ready : mounted s 0 = true)
include settled ready

/-- An attachment that its context takes does what the Holding, or its absence, asks for. -/
theorem exec_holdingAttach {name auth : Nat} {create : Bool} (H : CtxTakes s (.holdingAttach h name auth create) h x) {r : CmdRes}
    (hr : (if create then (authValue (dropEntry s h.ctx) h.ctx auth name).elim (.refuse (dropEntry s h.ctx) ACCESS_DENIED)
        (attachNew (dropEntry s h.ctx) h.ctx name)
      else attachExisting (dropEntry s h.ctx) h.ctx name (authValue (dropEntry s h.ctx) h.ctx auth name)) = r) :
    exec (.holdingAttach h name auth create) s = .next (finishCmd h false r) := by
  refine exec_of_ctxCmd H (congrArg _ (if_neg (by simp [settled]))) (Eq.trans ?_ hr)
  have mounted' : mounted (dropEntry s h.ctx) 0 = true := ready
  simp [holdingAttach, mounted']

end

/-! ### Update commands (R399 to R406) -/

/-- A command of the update that its context takes and the shared checks pass does what its own body says. -/
theorem exec_updateCmd {s : State} {i : Instr} {h : CmdHdr} {x : Ctx} (H : CtxTakes s i h x) {quiet : Bool} {body : State → Ctx → CmdRes}
    (arm : exec i s = .next (ctxCmd s i h quiet (updateCmd body))) (check : updateCheck (dropEntry s h.ctx) x = 0) {r : CmdRes}
    (hr : body (dropEntry s h.ctx) x = r) : exec i s = .next (finishCmd h quiet r) :=
  exec_of_ctxCmd H arm ((updateCmd_of_check check body).trans hr)

/-- What a manifest must give before its signatures are looked at (Table 11.10). -/
structure ManifestFits (s : State) (b : Bytes) (i : Image) : Prop where
  notArmed : s.mon.upd ≠ .armed
  notActivating : s.mon.upd ≠ .activating
  magic : fld b 0 4 = 0x54534E4D
  some_ : 1 ≤ i.parcels
  many : i.parcels ≤ 768
  last : 1 ≤ i.lastLen
  short : i.lastLen ≤ 65536
  svn : i.svn ≤ 64
  formats : ∀ e ∈ i.formats, e.1 ≤ 4
  known : Config.manifestKnown s.mon.image.id (fld b 4 2) = true

theorem beginFields_fits {s : State} {b : Bytes} {i : Image} (fits : ManifestFits s b i) : beginFields s b i = 0 := by
  obtain ⟨notArmed, notActivating, magic, some_, many, last, short, svn, formats, known⟩ := fits
  have all : (i.formats.all fun e => decide (e.1 ≤ 4)) = true := by simpa using formats
  simp only [beginFields, ne_eq, notArmed, notActivating, magic, some_, many, last, short, svn, all, known]
  rfl

section
variable {s : State} {h : CmdHdr} {replace signed : Bool} {b secret : Bytes} {v : State} {i : Image} (x : Ctx)
  (hi : i = manifestImage b secret) (fits : ManifestFits s b i)
  (hv : v = askPk (askHash s h.ctx (b.take 2048)) [.verify, .verifyPq, .agree, .decapsulate])
include hi fits hv

theorem updateBegin_accepts (sig : signed = true) (key : (b.drop 0x90).take 48 = sha384 s.mon.keys.deviceId)
    (secretOk : (imageKey b secret).isSome = true) (svn : s.fuses.counter ≤ i.svn)
    (target : bit i.target (targetBit s.part.variant) = true)
    (staged : ∀ y, s.mon.staged = some y → if y.id = i.id then s.mon.upd ≠ .complete else replace = true) :
    updateBegin h replace (some b) ⟨signed, secret⟩ s x =
      stage v h (.manifest i (decide ((s.mon.staged.map (·.id)) = some i.id))) := by
  subst hi hv
  have fields := beginFields_fits fits
  have free : (s.mon.staged.all fun y => if y.id = (manifestImage b secret).id then decide (s.mon.upd ≠ .complete) else replace) = true := by
    cases held : s.mon.staged with
    | none => rfl
    | some y =>
      have ok := staged y held
      rw [Option.all_some]
      split at ok <;> simp_all
  have check : beginCheck s replace b ⟨signed, secret⟩ = 0 := by
    simp only [beginCheck, fields, sig, key, secretOk, svn, target, free]
    rfl
  simp [updateBegin, check, fields]

theorem updateBegin_unsigned (sig : signed = false) :
    updateBegin h replace (some b) ⟨signed, secret⟩ s x = { st := v, status := INTEGRITY } := by
  subst hi hv
  have fields := beginFields_fits fits
  have check : beginCheck s replace b ⟨signed, secret⟩ = INTEGRITY := by
    simp only [beginCheck, fields, sig]
    rfl
  simp [updateBegin, check, fields, CmdRes.refuse]

end

/-- A Parcel's record names the staged image and its own place and size in it. -/
structure ParcelFits (i : Image) (b : Bytes) (len : Nat) : Prop where
  magic : fld b 0 4 = 0x4C435250
  place : fld b 4 4 < i.parcels
  image : fld b 8 8 = i.id
  size : fld b 0x10 4 = parcelLen i (fld b 4 4)
  len : len = 80 + fld b 0x10 4

section
variable {s : State} {h : CmdHdr} {len : Nat} {b : Bytes} {i : Image} (x : Ctx) (staged : s.mon.staged = some i)
  (receiving : s.mon.upd = .receiving) (fits : ParcelFits i b len)
include staged receiving fits

theorem updateParcel_held (held : (tget s.mon.parcels (fld b 4 4)).isSome = true) : updateParcel h len (some b) s x = { st := s } := by
  obtain ⟨magic, place, image, size, rfl⟩ := fits
  simp [updateParcel, staged, receiving, magic, place.not_ge, image, ← size, held]

theorem updateParcel_new (new : tget s.mon.parcels (fld b 4 4) = none) : updateParcel h len (some b) s x =
    later (askGcm { s with mon := { s.mon with keys := { s.mon.keys with image := some i.key } } } h.ctx i.key (parcelNonce i.id (fld b 4 4))
        (b.take 64) ((b.drop 64).take (fld b 0x10 4))) h.ctx
      (.parcel (fld b 4 4) ((b.drop 64).take (fld b 0x10 4 + 16)) h.tag h.flags) := by
  obtain ⟨magic, place, image, size, rfl⟩ := fits
  simp [updateParcel, staged, receiving, magic, place.not_ge, image, ← size, new]

end

theorem updateArm_armed {s : State} {i : Image} (h : CmdHdr) (x : Ctx) (staged : s.mon.staged = some i) (done : s.mon.upd = .complete)
    (svn : s.fuses.counter ≤ i.svn) (readBack : Bool) : updateArm h i.id readBack s x = if readBack then stage s h .arm else
      { st := eventTo s (surveyors s) 0x0301 INTEGRITY [(0x10, 8, i.id), (0x18, 1, 2)], status := INTEGRITY } := by
  simp [updateArm, staged, done, svn.not_gt, CmdRes.refuse]

theorem updateAbandon_staged {s : State} {i : Image} (h : CmdHdr) (x : Ctx) (staged : s.mon.staged = some i)
    (st : s.mon.upd = .receiving ∨ s.mon.upd = .complete ∨ s.mon.upd = .armed) : updateAbandon h i.id s x = stage s h .abandon := by
  refine if_neg ?_
  rcases st with st | st | st <;> simp [st, stagedIs, staged]

theorem imageVerifyDone_pass {s : State} {i : Image} (staged : s.mon.staged = some i) (receiving : s.mon.upd = .receiving)
    (all : s.mon.parcels.length = i.parcels) (digest : sha384 (imagePlain s i) = i.digest) : imageVerifyDone s true =
      eventTo { s with mon := { s.mon with upd := .complete } } (surveyors s) 0x0300 0 [(0x10, 8, i.id), (0x18, 2, i.parcels)] := by
  simp [imageVerifyDone, staged, receiving, all, digest]

theorem imageVerifyDone_fail {s : State} {i : Image} (staged : s.mon.staged = some i) (receiving : s.mon.upd = .receiving)
    (all : s.mon.parcels.length = i.parcels) {readOk : Bool} (fails : readOk = false ∨ sha384 (imagePlain s i) ≠ i.digest) :
    imageVerifyDone s readOk = eventTo
      { s with mon := { s.mon with upd := .empty, staged := none, parcels := [], keys := { s.mon.keys with image := none } } }
      (surveyors s) 0x0301 INTEGRITY [(0x10, 8, i.id), (0x18, 1, 1)] := by
  simp only [imageVerifyDone, staged]
  refine (if_pos ⟨receiving, all⟩).trans (if_neg ?_)
  rcases fails with unread | differs
  · simp [unread]
  · simp [differs]

/-- Settles O33: an equation for each command and for the full-image pass. -/
theorem holdingAndUpdateCommandsComplete : Obligations.HoldingAndUpdateCommandsComplete := by
  unfold Obligations.HoldingAndUpdateCommandsComplete
  refine ⟨?holdings, ?update, fun s i staged receiving all => ⟨fun digest => congrArg _ (imageVerifyDone_pass staged receiving all digest),
    fun readOk fails => congrArg _ (imageVerifyDone_fail staged receiving all fails)⟩⟩
  case holdings =>
    rintro s _ h x rfl settled ready
    refine ⟨fun name auth k d H named => ⟨fun v e open_ value mac free he => ?_, fun e open_ wrong he => ?_, fun closed => ?_⟩,
      fun name auth k v d H value new hk hd => ?_, fun k H held => ?_⟩
    · refine exec_holdingAttach settled ready H ((if_neg Bool.false_ne_true).trans ?_)
      rw [value]
      exact attachExisting_attaches named open_ mac free he
    · exact exec_holdingAttach settled ready H ((if_neg Bool.false_ne_true).trans (attachExisting_wrong named open_ wrong he))
    · exact exec_holdingAttach settled ready H ((if_neg Bool.false_ne_true).trans (attachExisting_closed named _ closed))
    · refine exec_holdingAttach settled ready H ((if_pos rfl).trans ?_)
      rw [value]
      exact attachNew_makes new hk hd
    · exact exec_of_ctxCmd H rfl (if_neg (by simp [held]))
  case update =>
    rintro s _ h x rfl check
    refine ⟨?begins, ?parcel, fun H => exec_updateCmd H rfl check rfl, fun i staged => ⟨fun done svn => ?_, fun st H => ?_, fun armed ok H => ?_⟩⟩
    case begins =>
      intro replace signed b secret i v H up hi a1 a2 a3 a4 a5 a6 a7 a8 a9 a10 hv
      have fits : ManifestFits (dropEntry s h.ctx) b i := ⟨a1, a2, a3, a4, a5, a6, a7, a8, a9, a10⟩
      have arm : exec (.updateBegin h replace (some b) ⟨signed, secret⟩) s = .next (ctxCmd s (.updateBegin h replace (some b) ⟨signed, secret⟩) h true
        (updateCmd (updateBegin h replace (some b) ⟨signed, secret⟩))) := congrArg _ (if_neg (by simp [up]))
      exact ⟨fun sig key secretOk svn target free => exec_updateCmd H arm check (updateBegin_accepts x hi fits hv sig key secretOk svn target free),
        fun sig => exec_updateCmd H arm check (updateBegin_unsigned x hi fits hv sig)⟩
    case parcel =>
      rintro _ len a _ b i H up staged receiving rfl rfl magic place image size hlen
      have fits : ParcelFits i b len := ⟨magic, place, image, size, hlen⟩
      have arm : exec (.updateParcel h len a (some b)) s = .next (ctxCmd s (.updateParcel h len a (some b)) h true
        (updateCmd (updateParcel h len (some b)))) := congrArg _ (if_neg (by simp [up]))
      exact ⟨fun held => exec_updateCmd H arm check (updateParcel_held x staged receiving fits held),
        fun new => exec_updateCmd H arm check (updateParcel_new x staged receiving fits new)⟩
    · exact ⟨fun H => exec_updateCmd H rfl check (updateArm_armed h x staged done svn true),
        fun H => exec_updateCmd H rfl check (updateArm_armed h x staged done svn false)⟩
    · exact exec_updateCmd H rfl check (updateAbandon_staged h x staged st)
    · exact exec_updateCmd H rfl check (updateActivate_starts h x staged armed ok)

/-! ### The Update Reset and the fuses (R398, R407 to R410) -/

theorem platSwitchBegin_idle {s : State} {p : Nat} (reached : activating s = some p) (held : (platOf s p).switching = false)
    (idle : platRuns s p = false) (u : State) (hu : u = modPlat s p fun x => { x with switching := true, checked := false }) :
    platSwitchBegin s p = if p = 0 then endSessions { u with mon := { u.mon with udsLocked := false } } else u := by
  subst hu
  exact if_pos ⟨reached, by simp [held], by simp [idle]⟩

theorem platActivated_checked {s : State} {p : Nat} {i : Image} (armed : otherSlot s.mon = some i) (reached : activating s = some p)
    (switching : (platOf s p).switching = true) (passed : (platOf s p).checked = true) (u v : State)
    (hu : u = modPlat s p fun x => { x with hold := false, switching := false, checked := false, epoch := i.epoch, imageId := i.id })
    (hv : v = if p = 0 then newMonument u i else u) :
    platActivated s p = nextHold (eventAll v 0x0303 0 [(0x10, 1, p), (0x12, 2, i.epoch), (0x18, 8, v.sup.now)]) p i := by
  subst hu hv
  simp only [platActivated, armed]
  exact if_pos ⟨reached, switching, passed⟩

theorem fuseCounterBurn_due {s : State} {n : Nat} (target : s.mon.fuseTo = some n)
    (due : ∀ t, s.mon.lastBurn = some t → t + 1000000 ≤ s.sup.now) : fuseCounterBurn s =
      { s with fuses := { s.fuses with counter := min 64 (s.fuses.counter + 1) },
               mon := { s.mon with lastBurn := some s.sup.now,
                                   fuseTo := if n ≤ min 64 (s.fuses.counter + 1) then none else some n } } := by
  simp only [fuseCounterBurn, target]
  refine if_pos ?_
  cases last : s.mon.lastBurn with
  | none => rfl
  | some t => simpa using due t last

/-- Settles O35: an equation for each step of an activation. -/
theorem activationComplete : Obligations.ActivationComplete := by
  unfold Obligations.ActivationComplete
  refine ⟨fun s p reached held idle => ⟨_, rfl, congrArg _ (platSwitchBegin_idle reached held idle _ rfl)⟩,
    fun s p i armed reached switching passed => ⟨_, _, rfl, rfl, congrArg _ (platActivated_checked armed reached switching passed _ _ rfl rfl)⟩,
    fun s n target due => congrArg _ (fuseCounterBurn_due target due), ?lock, fun s burn => ⟨_, rfl, congrArg _ (if_pos burn)⟩⟩
  rintro s _ h x H settled surveyor rfl
  exact exec_of_ctxCmd H (congrArg _ (if_neg (by simp [settled]))) (if_neg (by simp [surveyor]))

end Sys2Proof.Machine
end

section
/-!
The Scheduler (R82 to R97) and the rings (R66 to R72, R359): what each step does in the states that let it act.
-/
namespace Sys2Proof.Machine
open Sys2Proof Sys2Proof.Laws

/-! ### Dispatch (R45, R84, R90, R164) -/

section
variable {s : State} {l : LegRef} {t : Trav} {g : Leg} {x : LegRun} {r : Run} {since : Nat} {k : CrewSlot}
  (ht : travOf s l.ctx l.handle = some t) (hg : legOf s l = some g) (hx : runOf s l = some x) (hr : t.run = some r)
  (ready_ : x.st = .ready since) (hk : crewSlot s l.ctx g.stn = some k) (on : dispatchOn s l.ctx = true) (time : inTime s l = true)
include ht hg hx hr ready_ hk on time

theorem legDispatch_unmapped (unmapped : k.stn = none) : legDispatch s l = completeLeg s l DROPPED_FAULT 0 false 0 := by
  simp [legDispatch, ht, hg, hx, hr, readySince, ready_, hk, on, time, unmapped]

variable {stn : Nat} (mapped : k.stn = some stn) (plat : ready s k.plat = true) (notHeld : (platOf s k.plat).hold = false)
  (free : stationHeld s k.plat stn = false) (idle : engineBusy s l g = false) (first : firstReady s l g since = true)
include mapped plat notHeld free idle first

theorem legDispatch_starts {u : State} (pass : accessTest s (whoOf s l) g = 0) (views : bindViews s (whoOf s l) g = some u) :
    legDispatch s l = startLeg u l t r g (whoOf s l) := by
  simp [legDispatch, ht, hg, hx, hr, readySince, ready_, hk, on, time, mapped, plat, notHeld, free, idle, first, pass, views]

theorem legDispatch_noView (pass : accessTest s (whoOf s l) g = 0) (views : bindViews s (whoOf s l) g = none) :
    legDispatch s l = completeLeg s l ACCESS_DENIED 0 false 0 := by
  simp [legDispatch, ht, hg, hx, hr, readySince, ready_, hk, on, time, mapped, plat, notHeld, free, idle, first, pass, views]

theorem legDispatch_denied (fails : accessTest s (whoOf s l) g ≠ 0) :
    legDispatch s l = completeLeg s l (accessTest s (whoOf s l) g) 0 false 0 := by
  simp [legDispatch, ht, hg, hx, hr, readySince, ready_, hk, on, time, mapped, plat, notHeld, free, idle, first]

end

/-! ### Legs that stop (R83, R94, R95) -/

theorem legAbortDone_aborting {v w u : State} {l : LegRef} {t : Trav} {g : Leg} {a b : List Ending} {e : Ending} {x : LegRun} {who : Who}
    {n : Nat} (ht : travOf v l.ctx l.handle = some t) (hg : legOf v l = some g) (split : splitEnding l.leg t.ending = some (a, e, b))
    (hx : e.run.legs[l.leg]? = some x) (hwho : who = ⟨l.ctx, l.handle, e.run.k, e.run.began⟩)
    (hw : w = spoil (settleCommit v who l g x (some e.at_)) who g) (hn : n = subWarn v l.ctx g ABORTED_BOUNDARY 0)
    (hu : u = modTrav w l.ctx l.handle (fun t => { t with ending := a ++ { e with run :=
      { e.run with legs := setAt e.run.legs l.leg fun x => { x with st := .done ABORTED_BOUNDARY, warn := n } } } :: b })) :
    legAbortDone v l = record u l.ctx (.cq (legRec u t e.run.k l g ABORTED_BOUNDARY n 0 (min u.sup.now (e.at_ + 1000)))) := by
  subst hwho hw hn hu
  simp [legAbortDone, ht, hg, split, hx]

theorem legWatchdogStop_eq {s : State} {l : LegRef} {g : Leg} (hg : legOf s l = some g) : legWatchdogStop s l =
    finishLeg { spoilAll s (whoOf s l) g with fans := s.fans.filter fun f => f.leg != l } l { status := INTEGRITY } := by
  simp [legWatchdogStop, hg]

theorem watchdogStop_over {u v : State} {l : LegRef} {g : Leg} {x : LegRun} (hg : legOf u l = some g) (hx : runOf u l = some x)
    (runs : legRuns u l = true) (kind : g.kind ≤ 5) (much : 128 * g.cycles < issuedFor u l g x)
    (hv : v = finishLeg { spoilAll u (whoOf u l) g with fans := u.fans.filter fun f => f.leg != l } l { status := INTEGRITY }) :
    watchdogStop u l = (legStation u l g).elim v fun e => faultEvent v ⟨e.1, 4, .station e.2, false, false, false, .none, 0⟩ := by
  subst hv
  simp [watchdogStop, hg, hx, overIssued, runs, kind, much, legWatchdogStop_eq hg]

theorem nullLeg_completes {s : State} {l : LegRef} {g : Leg} (hg : legOf s l = some g) (runs : legRuns s l = true) (kind : g.kind = 7) :
    nullLeg s l = completeLeg s l 0 0 false 0 := by
  simp [nullLeg, hg, runs, kind]

/-- Settles O39: an equation for each way a Leg is dispatched or stopped. -/
theorem schedulingComplete : Obligations.SchedulingComplete := by
  unfold Obligations.SchedulingComplete
  refine ⟨fun s p hp => congrArg _ (if_pos hp), ?dispatch, fun s l g hg runs kind => congrArg _ (nullLeg_completes hg runs kind), ?watchdog,
    ?abort⟩
  case dispatch =>
    intro s u l t g x r since stn k ht hg hx hr st hk on time
    refine ⟨fun unmapped => congrArg _ (legDispatch_unmapped ht hg hx hr st hk on time unmapped), fun mapped plat notHeld free idle first =>
      ⟨fun pass views => congrArg Host.Outcome.next ?_, fun pass views => congrArg Host.Outcome.next ?_, fun fails => congrArg Host.Outcome.next ?_⟩⟩
    · exact legDispatch_starts ht hg hx hr st hk on time mapped plat notHeld free idle first pass views
    · exact legDispatch_noView ht hg hx hr st hk on time mapped plat notHeld free idle first pass views
    · exact legDispatch_denied ht hg hx hr st hk on time mapped plat notHeld free idle first fails
  case watchdog =>
    rintro s _ v l g x rfl hg hx runs kind much hv
    have stop := watchdogStop_over hg hx runs kind much hv
    refine ⟨fun nowhere => ?_, fun p q station => ?_⟩
    · exact congrArg (fun w => Host.Outcome.next (snapsOut s l w)) (stop.trans (by rw [nowhere]; rfl))
    · exact congrArg (fun w => Host.Outcome.next (snapsOut s l w)) (stop.trans (by rw [station]; rfl))
  case abort =>
    rintro s _ w u l t g a b e x who n rfl ht hg split hx hwho hw hn hu
    exact congrArg (fun w => Host.Outcome.next (snapsOut s l w)) (legAbortDone_aborting ht hg split hx hwho hw hn hu)

/-! ### Runs and periods (R91 to R97, R175) -/

section
variable {s : State} {c h : Nat} {t : Trav} (ht : travOf s c h = some t)
include ht

theorem runStart_due {tag flags : Nat} (busy : (ctxOf s c).bind (·.busy) = some (.run h tag flags)) (st : t.st = .resident)
    (due : t.start ≤ s.sup.now) (room : ctxStalled s c = false) :
    runStart s c h = finishBusy (startRun s c h tag flags t.start t.deadline) c tag flags h 0 0 := by
  simp [runStart, busy, ht, st, due, room]

theorem runDeadline_reached (st : t.st = .running) (run : t.run.isSome = true) (some_ : t.deadline ≠ 0) (due : t.deadline ≤ s.sup.now) :
    runDeadline s c h = boundary s c h t.deadline true := by
  simp [runDeadline, ht, st, run, some_, due]

theorem periodBegin_reached (st : t.st = .armed) (due : t.b0 ≤ s.sup.now) : periodBegin s c h =
    nextPeriod (modTrav (emptyFlags s t) c h fun t => { t with st := .periodic }) c h t.b0 := by
  simp [periodBegin, ht, st, due]

/-- No period follows the boundary that is reached: the count is exhausted, or a DISARM pends. -/
def lastBoundary (t : Trav) : Bool := t.disarm || (t.count != 0 && decide (t.count ≤ t.next))

omit ht in
theorem lastBoundary_iff (t : Trav) : lastBoundary t = true ↔ t.disarm = true ∨ t.count ≠ 0 ∧ t.count ≤ t.next := by
  simp [lastBoundary]

omit ht in
theorem not_lastBoundary {t : Trav} (on : t.disarm = false) (more : t.count = 0 ∨ t.next < t.count) : lastBoundary t = false := by
  rw [Bool.eq_false_iff, Ne, lastBoundary_iff, on]
  rintro (pending | ⟨bounded, exhausted⟩)
  · cases pending
  · omega

theorem periodBoundary_reached {b : Nat} {v : State} (st : t.st = .periodic) (goes : stopping t = false) (hb : b = t.b0 + t.next * t.period)
    (due : b ≤ s.sup.now) (hv : v = emptyFlags s t) : periodBoundary s c h =
      if t.run.isSome then (if lastBoundary t then boundary v c h b (lastBoundary t) else nextPeriod (boundary v c h b (lastBoundary t)) c h b)
      else if lastBoundary t then
        if t.ending.isEmpty then endBusy (modTrav v c h fun t => { t with st := .resident, disarm := false }) c h
        else modTrav v c h fun t => { t with ending := t.ending.map fun e => { e with stop := true } }
      else nextPeriod v c h b := by
  subst hb hv
  simp only [periodBoundary, ht]
  exact if_pos ⟨st, by simp [goes], due⟩

theorem periodSummary_due {e : Ending} {rest : List Ending} {u : State} (ending : t.ending = e :: rest) (due : e.at_ + 1000 ≤ s.sup.now)
    (done : e.run.legs.all isDone = true)
    (hu : u = record s c (.cq (summary t e.run (if t.st = .periodic then 2 else 3) (e.at_ + 1000)))) : periodSummary s c h =
      if e.stop then endBusy (releaseViews
          (modTrav u c h fun t => { t with ending := rest, st := .resident, disarm := false }) ⟨c, h, e.run.k, e.run.began⟩) c h
      else releaseViews (modTrav u c h fun t => { t with ending := rest }) ⟨c, h, e.run.k, e.run.began⟩ := by
  subst hu
  simp only [periodSummary, ht, ending]
  refine (if_pos ⟨due, done⟩).trans ?_
  cases e.stop <;> rfl

end

/-- Settles O40: an equation for each step of a run or period. -/
theorem runsAndPeriodsComplete : Obligations.RunsAndPeriodsComplete := by
  unfold Obligations.RunsAndPeriodsComplete
  intro s c h t ht
  refine ⟨fun tag flags busy st due room => congrArg _ (runStart_due ht busy st due room),
    fun st run some_ due => congrArg _ (runDeadline_reached ht st run some_ due), fun st due => congrArg _ (periodBegin_reached ht st due),
    fun b v st goes hb due hv => ?boundary, fun e rest u ending due done hu => ?summary⟩
  case boundary =>
    have reached := periodBoundary_reached ht st goes hb due hv
    refine ⟨fun run => ⟨fun last => congrArg _ (reached.trans ?_), fun on more => congrArg _ (reached.trans ?_)⟩,
      fun none => ⟨fun on more => congrArg _ (reached.trans ?_), fun last => ⟨fun quiet => congrArg _ (reached.trans ?_),
        fun busy => congrArg _ (reached.trans ?_)⟩⟩⟩
    · simp [run, (lastBoundary_iff t).2 last]
    · simp [run, not_lastBoundary on more]
    · simp [none, not_lastBoundary on more]
    · simp [none, (lastBoundary_iff t).2 last, quiet]
    · simp [none, (lastBoundary_iff t).2 last, busy]
  case summary =>
    have ends := periodSummary_due ht ending due done hu
    exact ⟨fun goes => congrArg _ (ends.trans (if_neg (by simp [goes]))), fun stops => congrArg _ (ends.trans (if_pos stops))⟩

/-! ### Rings (R66 to R72, R359) -/

theorem adoptSweep_cases (s : State) (p : Nat) :
    adoptSweep s p = s ∨ ∃ n, adoptSweep s p = modPort s p fun x => { x with sweep := n, sweepNew := none } := by
  unfold adoptSweep
  split
  · split
    · exact .inr ⟨_, rfl⟩
    · exact .inl rfl
  · exact .inl rfl

/-- What lets a port sweep does not depend on its period. -/
theorem sweep_allowed {s : State} {p : Nat} (hp : p < nHost s) (run : s.sup.running = true) (begun : sweeps s p = true)
    (enable : (portOf s p).ctrl.enable = true) (up : linkUp s p = true) (u : State) (hu : u = adoptSweep s p) :
    p < nHost u ∧ u.sup.running = true ∧ u.sup.now = s.sup.now ∧ sweeps u p = true ∧ (portOf u p).ctrl.enable = true ∧
      linkUp u p = true := by
  rcases adoptSweep_cases s p with same | ⟨n, changed⟩
  · rw [hu, same]
    exact ⟨hp, run, rfl, begun, enable, up⟩
  · rw [hu, changed]
    refine ⟨hp, run, rfl, begun, ?_, ?_⟩
    · rw [portOf_modPort_same]; exact enable
    · rw [linkUp, portOf_modPort_same]; exact up

theorem doorbellSweep_due {s u v : State} {p : Nat} (hp : p < nHost s) (run : s.sup.running = true) (hu : u = adoptSweep s p)
    (begun : sweeps s p = true) (enable : (portOf s p).ctrl.enable = true) (up : linkUp s p = true)
    (due : s.sup.now % (500 * (portOf u p).sweep) = 0)
    (hv : v = (portRings u p).foldl (fun w r => writeHalf w (500 * (portOf u p).sweep) r) u) : doorbellSweep s p =
      if (portOf u p).rtt = 0 then v else ((portRings v p).filter (swept v)).foldl (fun w r => sweepPage w p r) v := by
  obtain ⟨hp', run', now, begun', enable', up'⟩ := sweep_allowed hp run begun enable up u hu
  rw [← now] at due
  simp only [doorbellSweep, ← hu, ← hv]
  exact if_pos ⟨hp', run', due, begun', enable', up'⟩

theorem ringPort_modRing (s : State) (r : RingId) {f : Ring → Ring} : ringPort (modRing s r f) r = ringPort s r := by
  cases r with
  | admin q => rfl
  | context c =>
    simp only [ringPort, modRing, ctxOf_modCtx_same, Option.map_map]
    rfl

theorem ringOf_modRing (s : State) (r : RingId) (f : Ring → Ring) : ringOf (modRing s r f) r = (ringOf s r).map f := by
  cases r with
  | admin q => simp [ringOf, modRing, portOf_modPort_same]
  | context c =>
    simp only [ringOf, modRing, ctxOf_modCtx_same, Option.map_map]
    rfl

section
variable {s v w : State} {r : RingId} {p : Nat} (on : swept s r = true) (hp : p = ringPort s r)
include on hp

theorem sweepReadReturn_failed (hv : v = modRing s r fun g => { g with swps := g.swps - 1 }) (n : Nat) :
    sweepReadReturn s r n none = sweepFail v p := by
  subst hp hv
  simp only [sweepReadReturn, if_pos on, ringPort_modRing]

theorem sweepReadReturn_context {c : Nat} (hr : r = .context c) (hv : v = modRing s r fun g => { g with swps := g.swps - 1 }) (n : Nat)
    (d : SweepData) : sweepReadReturn s r n (some d) =
      newTail (newHeads (modPort v p fun x => { x with lats := (n :: x.lats).take 16 }) c d.cqHead d.eqHead) r d.sqTail := by
  subst hp hv hr
  simp only [sweepReadReturn, if_pos on, ringPort_modRing]

theorem sweepReadReturn_admin {u : State} (hr : r = .admin p) (hv : v = modRing s r fun g => { g with swps := g.swps - 1 }) (n : Nat)
    (d : SweepData) (hu : u = modPort (modPort v p fun x => { x with lats := (n :: x.lats).take 16 }) p fun x =>
      { x with ring := { x.ring with cqHead := d.cqHead } }) :
    sweepReadReturn s r n (some d) = newTail (drainAdmin (portOf u p).aheld.length u p) r d.sqTail := by
  subst hu hv hr
  simp only [sweepReadReturn, if_pos on, ringPort_modRing, ← hp]

theorem entryFetchReturn_failed (hw : w = modRing s r fun g => { g with asked := 0 }) : entryFetchReturn s r none = sweepFail w p := by
  subst hp hw
  simp only [entryFetchReturn, if_pos on, ringPort_modRing]

omit hp in
theorem entryFetchReturn_fetched (hw : w = modRing s r fun g => { g with asked := 0 }) {l : List Bytes} {g : Ring}
    (hg : ringOf s r = some g) (some_ : l ≠ []) (fits : l.length ≤ sub32 g.sqTail g.sqHead) :
    entryFetchReturn s r (some l) = modRing w r fun g =>
      { g with sqHead := wrap32 (g.sqHead + l.length), stamp := g.readAt, fetched := g.fetched ++ l, dirty := true } := by
  subst hw
  simp [entryFetchReturn, on, ringOf_modRing, hg, List.take_of_length_le fits, some_]

end

section
variable {s : State} {c t : Nat} {x : Ctx} (hx : ctxOf s c = some x) (due : t ≤ s.sup.now)
include hx due

theorem msixTimeThreshold_completion (at_ : x.cqMod.due = some t) : msixTimeThreshold s c .completion = raiseMsix
    (modCtx s c fun x => { x with cqMod := { x.cqMod with since := 0, due := none } }) x.port (.vf x.vf) x.cqVec := by
  simp [msixTimeThreshold, hx, at_, due]

theorem msixTimeThreshold_event (at_ : x.eqMod.due = some t) : msixTimeThreshold s c .event = raiseMsix
    (modCtx s c fun x => { x with eqMod := { x.eqMod with since := 0, due := none } }) x.port (.vf x.vf) x.eqVec := by
  simp [msixTimeThreshold, hx, at_, due]

end

section
variable {s : State} {p : Nat} (ready : rttReady s p = true) (l : List (Option Nat))
include ready

theorem rttMeasure_first (unknown : (portOf s p).rtt = 0) (first : (portOf s p).rttRetryAt = none) : rttMeasure s p l = measureRtt s p l := by
  simp [rttMeasure, ready, unknown, first]

theorem rttRetry_due {t : Nat} (again : (portOf s p).rttRetryAt = some t) (due : t ≤ s.sup.now) : rttRetry s p l = measureRtt s p l := by
  simp [rttRetry, again, ready, due]

end

/-- Settles O41: an equation for each step of the rings. -/
theorem ringsComplete : Obligations.RingsComplete := by
  unfold Obligations.RingsComplete
  refine ⟨fun s u v p hp run hu begun enable up due hv => congrArg _ (doorbellSweep_due hp run hu begun enable up due hv), ?rings,
    fun s c t x hx due => ⟨fun at_ => congrArg _ (msixTimeThreshold_completion hx due at_), fun at_ => congrArg _ (msixTimeThreshold_event hx due at_)⟩,
    fun s p l => ⟨fun ready unknown first => congrArg Host.Outcome.next (rttMeasure_first ready l unknown first),
      fun t ready again due => congrArg Host.Outcome.next (rttRetry_due ready l again due), fun hp known lats due => congrArg Host.Outcome.next (if_pos ⟨hp, known, lats, due⟩)⟩⟩
  intro s v w r p on hp hv hw
  exact ⟨fun n => congrArg _ (sweepReadReturn_failed on hp hv n), congrArg _ (entryFetchReturn_failed on hp hw),
    fun c n d hr => ⟨_, rfl, congrArg Host.Outcome.next (sweepReadReturn_context on hp hr hv n d)⟩,
    fun n d hr => ⟨_, rfl, congrArg Host.Outcome.next (sweepReadReturn_admin on hp hr hv n d rfl)⟩,
    fun l g hg some_ fits => congrArg _ (entryFetchReturn_fetched on hw hg some_ fits)⟩

end Sys2Proof.Machine
end

section
/-! Power, thermal control, bring-up, reset values and faults (chapters 1, 10, 12 and 13). -/
namespace Sys2Proof.Machine
open Sys2Proof Sys2Proof.Laws

/-! ### Power and thermal control (R48, R443 to R446) -/

/-- A package at Datum Time 1 whose Plat 0 has a thermal ratio due. -/
def ratioDue : State := { sup := { running := true, now := 1 }, plats := [(0, { thermal := { due := some (48, 1) } })] }

theorem thermalRatioApply_issuedAt {s : State} {p r t : Nat} (due : (platOf s p).thermal.due = some (r, t)) (reached : t ≤ s.sup.now) :
    (platOf (thermalRatioApply s p) p).issuedAt = s.sup.now := by
  simp [thermalRatioApply, due, reached, settlePace]

/-- Refutes O42: a thermal ratio that takes effect first brings the Plat's issue count up to now (R49, R83), which the clause of
THERMAL_RATIO_APPLY leaves as it was. At Datum Time 1 the count then stands at 1, and the clause says 0. -/
theorem not_powerAndThermalStepsComplete : ¬ Obligations.PowerAndThermalStepsComplete := by
  unfold Obligations.PowerAndThermalStepsComplete
  rintro ⟨⟨-, -, -, ratio⟩, -, -⟩
  have settled : (platOf (thermalRatioApply ratioDue 0) 0).issuedAt = 1 := thermalRatioApply_issuedAt rfl (Nat.le_refl 1)
  rw [Host.Outcome.next.inj (ratio ratioDue 0 48 1 rfl (Nat.le_refl 1)), platOf_modPlat_same] at settled
  exact absurd settled (by decide)

/-! ### Supplies and boot (R109, R378 to R381, R386, R404) -/

theorem powerLoss_deep {s : State} {mv ns : Nat} (up : s.sup.vmain = true) (low : mv < 10800) (long : 1000 < ns) : powerLoss s mv ns =
    { packageReset s with sup := { (packageReset s).sup with vmain := false, lossSeen := true },
                          mon := { (packageReset s).mon with burn := false } } :=
  if_pos ⟨up, low, long⟩

theorem datumTimeStart_starts {s : State} {n : Nat} (vstby : s.sup.vstby = true) (vmain : s.sup.vmain = true) (released : s.sup.resetN = true)
    (stopped : s.sup.running = false) (soon : n ≤ 5000000) : datumTimeStart s n =
      modPlat { s with sup := { s.sup with running := true, now := 0, startNs := n } } 0 fun x => { x with st := .measuring } :=
  if_pos ⟨vstby, vmain, released, by simp [stopped], soon⟩

section
variable {s u : State} {okA okB b1 : Bool} {first other : Option Image} (run : s.sup.running = true) (cool : s.sup.tripped = false)
  (off : s.mon.running = false) (st : (platOf s 0).st = .measuring) (hu : u = logBoot s) (hb : b1 = (u.mon.activeB != u.mon.armed))
  (hf : first = if b1 then slotPasses u u.mon.slotB okB else slotPasses u u.mon.slotA okA)
  (ho : other = if b1 then slotPasses u u.mon.slotA okA else slotPasses u u.mon.slotB okB)
include run cool off st hu hb hf ho

theorem monumentBoot_first {i : Image} (passes : first = some i) : monumentBoot s okA okB = bootImage u i u.mon.armed := by
  subst hu hb
  simp only [monumentBoot, ← hf, ← ho, passes]
  exact if_pos ⟨run, by simp [cool], by simp [off], st⟩

theorem monumentBoot_other {i : Image} (fails : first = none) (passes : other = some i) : monumentBoot s okA okB =
    eventAll (bootImage u i false) 0x0307 0 [(0x10, 1, b2n (!b1)), (0x18, 8, i.id)] := by
  subst hu hb
  simp only [monumentBoot, ← hf, ← ho, passes, fails]
  exact if_pos ⟨run, by simp [cool], by simp [off], st⟩

theorem monumentBoot_terminal (fails : first = none) (failsToo : other = none) : monumentBoot s okA okB = enterTerminal u 0 2 0 := by
  subst hu hb
  simp only [monumentBoot, ← hf, ← ho, failsToo, fails]
  exact if_pos ⟨run, by simp [cool], by simp [off], st⟩

end

/-! ### Plats become ready (R387, R408, R418 to R421) -/

section
variable {s : State} {p : Nat} (notFirst : 1 ≤ p) (hp : p < nPlats s) (run : s.sup.running = true) (on : s.mon.running = true)
  (cool : s.sup.tripped = false) (st : (platOf s p).st = .unreleased) (unproven : (platOf s p).unproven = false)
  (ready0 : (platOf s 0).st = .ready) (before : (List.range p).all (releasedBefore s) = true)
  (later : p = 1 ∨ (platOf s (p - 1)).releasedAt + 20000000 ≤ s.sup.now)
include notFirst hp run on cool st unproven ready0 before later

theorem platRelease_judged (proof : Option Bytes) : platRelease s p proof =
    if platProven s p proof then openChannel (modPlat s p fun x => { x with st := .measuring, releasedAt := s.sup.now }) p
    else tryEnd (modPlat s p fun x => { x with unproven := true, releasedAt := s.sup.now }) :=
  if_pos ⟨notFirst, hp, run, on, by simp [cool], st, by simp [unproven], ready0, before, later⟩

end

section
variable {s : State} {p : Nat} {m : Measurement} (hp : p < nPlats s) (st : (platOf s p).st = .measuring)
  (first : (platOf s p).measured = false) (run : s.sup.running = true) (cool : s.sup.tripped = false)
include hp st first run cool

theorem platMeasurementDone_passes (ok : m.ok = true) : platMeasurementDone s p m =
    readyOrCheck (logMeasured (modPlat s p fun x => measuredPlat x m) p m) p :=
  (if_pos ⟨hp, st, by simp [first], run, by simp [cool]⟩).trans (if_pos ok)

theorem platMeasurementDone_fails {u : State} (ok : m.ok = false)
    (hu : u = portsDown (logFault (modPlat s p fun x => { x with st := .out, cause := 4 }) 0x0A p 0 0 4) p) : platMeasurementDone s p m =
      if p = 0 then u else tryEnd (eventAll u 0x0401 INTEGRITY [(0x10, 1, p), (0x11, 1, 4)]) := by
  subst hu
  exact (if_pos ⟨hp, st, by simp [first], run, by simp [cool]⟩).trans (if_neg (by simp [ok]))

end

theorem platSelfCheckDone_reset {s : State} {p code : Nat} {ok : Bool} (idle : activating s = none) (hp : p < nPlats s)
    (reset : activatingReset s = true) (on : s.mon.running = true) (st : (platOf s p).st = .measuring) (measured : (platOf s p).measured = true) :
    platSelfCheckDone s p ok code =
      if ok then tryEnd (if p = 0 then checkSettings (becomeReady s p) s.mon.image else becomeReady s p) else enterTerminal s p 1 code := by
  simp only [platSelfCheckDone, idle]
  exact if_pos ⟨hp, reset, on, st, measured⟩

theorem platSelfCheckDone_switch {s : State} {p code : Nat} {i : Image} {ok : Bool} (turn : activating s = some p)
    (slot : otherSlot s.mon = some i) (switching : (platOf s p).switching = true) (unchecked : (platOf s p).checked = false) :
    platSelfCheckDone s p ok code =
      if ok then (if p = 0 then checkSettings (modPlat s p fun x => { x with checked := true }) i
        else modPlat s p fun x => { x with checked := true })
      else enterTerminal s p 1 code := by
  simp only [platSelfCheckDone, turn, slot]
  exact if_pos ⟨trivial, switching, by simp [unchecked]⟩

theorem stationZeroingDone_zeroed {s : State} {p n : Nat} (hp : p < nPlats s) (zeroing : n ∈ (platOf s p).zeroing) :
    stationZeroingDone s p n = modPlat s p fun x => { x with zeroing := x.zeroing.filter (· != n), flags := tdel x.flags n } :=
  if_pos ⟨hp, List.contains_iff_mem.2 zeroing⟩

theorem settingDurable_written {s : State} {k d v : Nat} (waits : tget s.settings k = some ⟨d, some v⟩) (mounted : (cadOf s 0).st = 2) :
    settingDurable s k = { s with settings := tput s.settings k { durable := v } } := by
  simp [settingDurable, waits, mounted]

/-- Settles O44: an equation for each step of bring-up. -/
theorem bringUpComplete : Obligations.BringUpComplete := by
  unfold Obligations.BringUpComplete
  refine ⟨fun s => ⟨rfl, fun vstby => congrArg _ (if_pos vstby), rfl, fun high => congrArg _ (if_pos high),
      fun mv ns up low long => ⟨_, rfl, congrArg Host.Outcome.next (powerLoss_deep up low long)⟩, ⟨_, rfl, rfl⟩,
      fun n vstby vmain released stopped soon => congrArg _ (datumTimeStart_starts vstby vmain released stopped soon)⟩,
    ?boot, ?release, ?measured, ?check, ?switch, fun s p n hp zeroing => congrArg _ (stationZeroingDone_zeroed hp zeroing),
    fun s k d v waits mounted => congrArg _ (settingDurable_written waits mounted)⟩
  case boot =>
    intro s u okA okB b1 first other run cool off st hu hb hf ho
    exact ⟨fun i passes => congrArg _ (monumentBoot_first run cool off st hu hb hf ho passes),
      fun i fails passes => congrArg _ (monumentBoot_other run cool off st hu hb hf ho fails passes),
      fun fails failsToo => congrArg _ (monumentBoot_terminal run cool off st hu hb hf ho fails failsToo)⟩
  case release =>
    intro s p notFirst hp run on cool st unproven ready0 before later
    have judged := platRelease_judged notFirst hp run on cool st unproven ready0 before later
    exact ⟨fun k d fused proof => congrArg _ ((judged (some k)).trans (if_pos (by simp [platProven, fused, proof]))),
      fun proof d fused fails => congrArg _ ((judged proof).trans (if_neg (by simpa [platProven, fused] using fails)))⟩
  case measured =>
    intro s u p m hp st first run cool
    exact ⟨fun ok => congrArg _ (platMeasurementDone_passes hp st first run cool ok),
      fun ok hu => congrArg _ (platMeasurementDone_fails hp st first run cool ok hu)⟩
  case check =>
    intro s p code idle hp reset on st measured
    refine ⟨congrArg _ (platSelfCheckDone_reset (ok := false) idle hp reset on st measured),
      congrArg Host.Outcome.next ((platSelfCheckDone_reset (ok := true) idle hp reset on st measured).trans ?_)⟩
    by_cases zero : p = 0
    · subst zero; rfl
    · simp [zero]
  case switch =>
    rintro s _ p code i turn slot switching unchecked rfl
    exact ⟨congrArg _ (platSelfCheckDone_switch (ok := true) turn slot switching unchecked),
      congrArg _ (platSelfCheckDone_switch (ok := false) turn slot switching unchecked)⟩

/-- Settles O52: the reset state is a closed term, and each register is read from it. -/
theorem resetValues : Obligations.ResetValues := by
  unfold Obligations.ResetValues
  refine ⟨_, rfl, ?_⟩
  decide +kernel

/-! ### Faults (R429 to R435, R440 to R442) -/

theorem faultEvent_counted {s u : State} {e : FaultEv} (hp : e.plat < nPlats s) (run : s.sup.running = true)
    (released : (platOf s e.plat).st ≠ .unreleased) (cool : s.sup.tripped = false) (hu : u = logRes s e.cls e.plat e.resource e.detail) :
    ∃ v, v = (if (e.lasting || (e.again && !e.unc && inMemory e.resource) || lasting u e.plat e.resource) && (track u e.plat e.resource).flt.ctrl.enable
        then startRepair (logRes (track u e.plat e.resource) 0x07 e.plat e.resource 0) e.plat e.resource
        else track u e.plat e.resource) ∧
      faultEvent s e = match e.loss with
        | .none => v
        | .ringLink => ringLinkDown v e.plat
        | .logic => platOut v e.plat 2
        | .hbm => platOut v e.plat 3 := by
  subst hu
  exact ⟨_, rfl, if_pos ⟨hp, run, released, by simp [cool]⟩⟩

theorem patrolScrub_passes {s : State} {p : Nat} {o : Scrub} (hp : p < nPlats s) (st : (platOf s p).st = .ready) (pass : o.pass = true) :
    patrolScrub s p o = modPlat s p fun x => { x with scrubs := satAdd max32 x.scrubs 1 } :=
  if_pos ⟨hp, st, pass⟩

theorem patrolScrub_fails {s : State} {p : Nat} {o : Scrub} (fails : o.pass = false) : patrolScrub s p o = s :=
  if_neg fun h => by simp [fails] at h

section
variable {s : State} {p at_ : Nat} {r : Resource} {l : List Repair} (may : repairing s p = true)
include may

theorem repairDone_ends (first : (platOf s p).repairs = ⟨r, at_, none⟩ :: l) : repairDone s p =
    beginHead (logRes (modPlat s p fun x => { useSpare x r with repairs := l }) 0x08 p r 0) p := by
  simp [repairDone, first, may]

variable {n : Nat} {u : State} (first : (platOf s p).repairs = ⟨r, at_, some n⟩ :: l)
  (hu : u = modPlat s p fun x => { x with repairs := l })
include first hu

theorem stationSubstitutionDone_spare {q : Nat} {sp : List Nat} (spare : (platOf s p).spares = q :: sp) : stationSubstitutionDone s p =
    beginHead (rerun (logRes (remap u p n q) 0x08 p r q) p n) p := by
  subst hu
  simp [stationSubstitutionDone, first, may, spare]

theorem stationSubstitutionDone_lost {phys : Nat} (spare : (platOf s p).spares = []) (mapped : (platOf s p).map.getD n none = some phys) :
    stationSubstitutionDone s p = beginHead (loseStation u p n phys) p := by
  subst hu
  simp only [stationSubstitutionDone, first, may, if_true, platOf_modPlat_same, spare, mapped, Option.getD_some]

end

section
variable {s u : State} {p phys : Nat} (hp : p < nPlats s) (st : (platOf s p).st = .ready)
  (hu : u = modPlat (logRes (logRes s 0x05 p (.station phys) 0) 0x07 p (.station phys) 0) p fun x =>
    { x with repairs := x.repairs.filter fun r => r.res != .station phys })
include hp st hu

theorem stationLost_spare (serves : logicalOf (platOf s p) phys = none) (spare : phys ∈ (platOf s p).spares) : stationLost s p phys =
    checkSpares (modPlat u p fun x => { x with spares := x.spares.filter (· != phys) }) p := by
  subst hu
  simp only [stationLost, serves]
  exact if_pos ⟨hp, st, .inl (List.contains_iff_mem.2 spare)⟩

theorem stationLost_without {n : Nat} (serves : logicalOf (platOf s p) phys = some n) (spares : (platOf s p).spares = []) :
    stationLost s p phys = beginHead (loseStation u p n phys) p := by
  subst hu
  simp only [stationLost, serves, spares]
  exact if_pos ⟨hp, st, .inr rfl⟩

section
variable {v : State} {n q : Nat} {l : List Nat} (serves : logicalOf (platOf s p) phys = some n) (spares : (platOf s p).spares = q :: l)
  (hv : v = modPlat (remap u p n q) p fun x => { x with flags := tdel x.flags n })
include serves spares hv

theorem stationLost_unowned (owner : crewIndex v p n = none) : stationLost s p phys = beginHead (logRes v 0x08 p (.station phys) q) p := by
  subst hu hv
  simp only [stationLost, serves, spares, owner]
  exact if_pos ⟨hp, st, .inr rfl⟩

theorem stationLost_owned {c i : Nat} (owner : crewIndex v p n = some (c, i)) : stationLost s p phys =
    beginHead (logRes (loseQueues (zeroNear (failLegs v c i INTEGRITY) c i) c i) 0x08 p (.station phys) q) p := by
  subst hu hv
  simp only [stationLost, serves, spares, owner]
  exact if_pos ⟨hp, st, .inr rfl⟩

end
end

section
variable {s v : State} {x : Ctx} {h : CmdHdr} {a n : Nat} (surveyor : x.surveyor = true) (some_ : 1 ≤ n) (fits : n ≤ 4096)
  (hv : v = { s with flt := { s.flt with log := s.flt.log.drop n, reported := [] } })
include surveyor some_ fits hv

theorem faultLogTake_entries (entries : s.flt.log ≠ []) : faultLogTake h a n s x =
    { st := postData v x.port (.vf x.vf) a ((s.flt.log.take n).flatMap logBytes), result := (s.flt.log.take n).length } := by
  have taken : (s.flt.log.take n).isEmpty = false := by
    rw [List.isEmpty_eq_false_iff, ne_eq, List.take_eq_nil_iff]
    rintro (none | none)
    · omega
    · exact entries none
  subst hv
  refine (if_neg (by simp [surveyor])).trans ((if_neg (by omega)).trans ?_)
  simp only [taken, Bool.false_eq_true, if_false]

theorem faultLogTake_empty (empty : s.flt.log = []) : faultLogTake h a n s x = { st := v, result := 0 } := by
  subst hv
  refine (if_neg (by simp [surveyor])).trans ((if_neg (by omega)).trans ?_)
  simp only [empty, List.take_nil, List.isEmpty_nil, if_true, List.length_nil]

end

/-- Settles O46: an equation for each step of a fault and its repair. -/
theorem faultsComplete : Obligations.FaultsComplete := by
  unfold Obligations.FaultsComplete
  refine ⟨?event, fun s p r => rfl, fun s p o hp st pass => congrArg _ (patrolScrub_passes hp st pass),
    fun s p o fails => congrArg _ (patrolScrub_fails fails), ?repair, ?lost, ?take⟩
  case event =>
    intro s u e hp run released cool hu
    obtain ⟨v, hv, counted⟩ := faultEvent_counted hp run released cool hu
    exact ⟨v, hv, congrArg Host.Outcome.next counted⟩
  case repair =>
    intro s p at_ r l may
    exact ⟨fun first => congrArg _ (repairDone_ends may first),
      fun n q sp u first spare hu => congrArg _ (stationSubstitutionDone_spare may first hu spare),
      fun n phys u first spare mapped hu => congrArg _ (stationSubstitutionDone_lost may first hu spare mapped)⟩
  case lost =>
    intro s u p phys hp st hu
    exact ⟨fun serves spare => congrArg Host.Outcome.next (stationLost_spare hp st hu serves spare),
      fun n serves spares => congrArg Host.Outcome.next (stationLost_without hp st hu serves spares),
      fun n q l v serves spares hv owner => congrArg Host.Outcome.next (stationLost_unowned hp st hu serves spares hv owner),
      fun n q l c i serves spares owner => congrArg Host.Outcome.next (stationLost_owned hp st hu serves spares rfl owner)⟩
  case take =>
    rintro s _ v h x a n H rfl surveyor some_ fits hv
    exact ⟨fun entries => exec_of_ctxCmd H rfl (faultLogTake_entries surveyor some_ fits hv entries),
      fun empty => exec_of_ctxCmd H rfl (faultLogTake_empty surveyor some_ fits hv empty)⟩

end Sys2Proof.Machine
end

section
/-! Register reads, the bits of the bit-wise window, the Intake Aperture and the service port (R357, R380, R448, R454, R457). -/
namespace Sys2Proof.Machine
open Sys2Proof Sys2Proof.Laws

/-! ### Words of a read (R448) -/

theorem wordsRead_one {s : State} {p : Path} {a n : Nat} (aligned : a % 4 = 0) (some_ : 1 ≤ n) (word : n ≤ 4) :
    wordsRead s p a n = ((wordRead s p a).1, (le 4 (wordRead s p a).2).take n) := by
  have count : (a + n - 1) / 4 + 1 - a / 4 = 1 := by omega
  have first : (a / 4 + 0) * 4 = a := by omega
  simp only [wordsRead, count, List.range_one, List.foldl_cons, List.foldl_nil, first, aligned, List.drop_zero, List.nil_append]

theorem wordsRead_two {s : State} {p : Path} {a : Nat} (aligned : a % 4 = 0) : wordsRead s p a 8 =
    ((wordRead (wordRead s p a).1 p (a + 4)).1, le 4 (wordRead s p a).2 ++ le 4 (wordRead (wordRead s p a).1 p (a + 4)).2) := by
  have count : (a + 8 - 1) / 4 + 1 - a / 4 = 2 := by omega
  have first : (a / 4 + 0) * 4 = a := by omega
  have second : (a / 4 + 1) * 4 = a + 4 := by omega
  have range : List.range 2 = [0, 1] := rfl
  simp only [wordsRead, count, range, List.foldl_cons, List.foldl_nil, first, second, aligned, List.drop_zero, List.nil_append]
  rw [List.take_of_length_le (by simp [le_length])]

section
variable {s : State} {p : Path} (up : pathUp s p = true) (bar : ∃ m, p = .pf m ∨ ∃ w, p = .vf m w)
include bar

theorem wordRead_register {a b : Nat} (names : pathOffset s p a = some b) : wordRead s p a = pathRead s p b := by
  obtain ⟨m, rfl | ⟨w, rfl⟩⟩ := bar <;> simp only [wordRead, names]

theorem wordRead_vectors {a : Nat} (names : pathOffset s p a = none) : wordRead s p a = (s, rdVectors s p a) := by
  obtain ⟨m, rfl | ⟨w, rfl⟩⟩ := bar <;> simp only [wordRead, names]

include up in
theorem lolRead_bar (a n : Nat) : lolRead s p a n = emit (wordsRead s p a n).1 (.register p a (wordsRead s p a n).2) := by
  obtain ⟨m, rfl | ⟨w, rfl⟩⟩ := bar <;> simp [lolRead, up]

end

theorem lolRead_alias {s : State} {m : Nat} (up : pathUp s (.bitAlias m) = true) (a n : Nat) : lolRead s (.bitAlias m) a n =
    emit (wordsRead s (.bitAlias m) a n).1 (.register (.bitAlias m) a (wordsRead s (.bitAlias m) a n).2) := by
  simp [lolRead, up]

/-- A bit below 32 of a word is a bit of its low 32 bits. -/
theorem bit_mod {v b : Nat} (hb : b < 32) : bit (v % 4294967296) b = bit v b := by
  simp only [bit, ← Nat.toNat_testBit]
  rw [show 4294967296 = 2 ^ 32 from rfl, Nat.testBit_mod_two_pow]
  simp [hb]

theorem wordRead_alias {s : State} {m r b : Nat} (aligned : r % 4 = 0) (low : r < 0x80000) (hb : b < 32) :
    wordRead s (.bitAlias m) (r * 32 + b * 4) = (s, b2n (bit (rdReg s r) b)) := by
  have register : (r * 32 + b * 4) / 128 * 4 = r := by omega
  have position : (r * 32 + b * 4) % 128 / 4 = b := by omega
  simp only [wordRead, register, position, if_pos low, Prod.mk.injEq, true_and]
  congr 1
  unfold rdReg
  cases wide s r with
  | some v => rfl
  | none =>
    cases (if 4 ≤ r then wide s (r - 4) else none) with
    | some v => exact (bit_mod hb).symm
    | none => rfl

/-! ### Shadows of 64-bit values (R454) -/

theorem wide_setShadow (s : State) (p : Path) (a v b : Nat) : wide (setShadow s p a v) b = wide s b := rfl

theorem pathOffset_setShadow (s : State) (p q : Path) (a v b : Nat) : pathOffset (setShadow s p a v) q b = pathOffset s q b := rfl

theorem shadowOf_setShadow_same (s : State) (p : Path) (a v : Nat) : shadowOf (setShadow s p a v) p a = v := by
  simp [shadowOf, setShadow]

theorem keys_beq_false {p q : Path} {a b : Nat} (other : (q, b) ≠ (p, a)) : (q == p && b == a) = false := by
  rw [Bool.eq_false_iff]
  intro same
  obtain ⟨rfl, rfl⟩ : q = p ∧ b = a := by simpa using same
  exact other rfl

theorem shadowOf_setShadow_ne (s : State) {p q : Path} {a b : Nat} (v : Nat) (other : (q, b) ≠ (p, a)) :
    shadowOf (setShadow s p a v) q b = shadowOf s q b := by
  simp only [shadowOf, setShadow, List.find?_cons, keys_beq_false other.symm, List.find?_filter]
  congr 3
  funext e
  by_cases named : e.1 == q && e.2.1 == b
  · obtain ⟨path, offset⟩ : e.1 = q ∧ e.2.1 = b := by simpa using named
    simp [path, offset, keys_beq_false other]
  · simp [named]

theorem pathRead_fst (s : State) (p : Path) (b : Nat) : (pathRead s p b).1 = s ∨ ∃ v, (pathRead s p b).1 = setShadow s p b v := by
  rcases hv : wide s b with - | v
  · simp only [pathRead, hv]
    split <;> exact .inl rfl
  · exact .inr ⟨_, by simp only [pathRead, hv]; rfl⟩

theorem pathOffset_pathRead (s : State) (p q : Path) (b a : Nat) : pathOffset (pathRead s p b).1 q a = pathOffset s q a := by
  obtain same | ⟨v, latched⟩ := pathRead_fst s p b
  · rw [same]
  · rw [latched, pathOffset_setShadow]

theorem pathRead_lol {s : State} {b v : Nat} (p : Path) (hv : wide s b = some v) :
    pathRead s p b = (setShadow s p b (v / 4294967296 % 4294967296), v % 4294967296) := by
  simp only [pathRead, hv]

theorem pathRead_his {s : State} {b v w : Nat} (p : Path) (hv : wide s b = some v) (his : wide s (b + 4) = none) :
    pathRead (setShadow s p b w) p (b + 4) = (setShadow s p b w, w) := by
  simp only [pathRead, wide_setShadow, his, Nat.add_sub_cancel, hv]
  exact (if_pos ⟨Nat.le_add_left 4 b, rfl⟩).trans (by rw [shadowOf_setShadow_same])

/-! ### The service port (R380, R455) -/

section
variable {s u : State} (hu : u = settleSvc s)
include hu

theorem i3cRegisterRead_nack (down : svcUp u = false ∨ u.svcStall.isSome = true) (o : Option Nat) : i3cRegisterRead s o = emit u .i3cNack := by
  subst hu
  exact if_pos (by simpa using down)

theorem i3cRegisterWrite_nack (down : svcUp u = false ∨ u.svcStall.isSome = true) (a v : Nat) : i3cRegisterWrite s a v = emit u .i3cNack := by
  subst hu
  exact if_pos (by simpa using down)

variable (up : svcUp u = true) (free : u.svcStall = none)
include up free

theorem i3cRegisterRead_phase : i3cRegisterRead s none = i3cReadPhase u := by
  subst hu
  exact if_neg (by simp [up, free])

theorem i3cRegisterRead_new {a : Nat} (ha : a < 1048576) : i3cRegisterRead s (some a) = i3cReadNew u a := by
  subst hu
  refine (if_neg (by simp [up, free])).trans ?_
  rw [Nat.mod_eq_of_lt ha]

theorem i3cRegisterWrite_taken {w : State} {a v : Nat} (hw : w = { u with svcHeld := none }) (ha : a < 1048576) (hv : v < 4294967296) :
    i3cRegisterWrite s a v =
      let t := if a % 4 = 0 then wrReg (emit w (.i3cAck 0)) .svc a v else wrPartial (emit w (.i3cAck 0)) .svc a
      if svcStalls w a then stallSvc t none else t := by
  subst hu hw
  refine (if_neg (by simp [up, free])).trans ?_
  rw [Nat.mod_eq_of_lt ha, Nat.mod_eq_of_lt hv]
  rfl

end

theorem i3cReadNew_delivers {s w : State} {a : Nat} (hw : w = { s with svcHeld := none }) (prompt : svcStalls w a = false) :
    i3cReadNew s a = emit (pathRead w .svc a).1 (.i3cAck (pathRead w .svc a).2) := by
  subst hw
  exact if_neg (by simp [prompt])

theorem i3cReadNew_stalls {s w : State} {a : Nat} (hw : w = { s with svcHeld := none }) (stalls : svcStalls w a = true) :
    i3cReadNew s a = emit (stallSvc w (some a)) .i3cNack := by
  subst hw
  exact if_pos stalls

theorem i3cReadPhase_held {s : State} {r : Nat} (held : s.svcHeld = some r) : i3cReadPhase s = emit { s with svcHeld := none } (.i3cAck r) := by
  simp only [i3cReadPhase, held]

theorem i3cReadPhase_none {s : State} (held : s.svcHeld = none) : i3cReadPhase s = emit s .i3cNack := by
  simp only [i3cReadPhase, held]

theorem settleSvc_waits {s : State} {o : Option Nat} {t : Nat} (stall : s.svcStall = some (o, t)) (early : s.sup.now < t) : settleSvc s = s := by
  simp only [settleSvc, stall, if_pos early]

theorem settleSvc_write {s : State} {t : Nat} (stall : s.svcStall = some (none, t)) (ended : t ≤ s.sup.now) :
    settleSvc s = { s with svcStall := none } := by
  simp only [settleSvc, stall, if_neg ended.not_gt]

theorem settleSvc_read {s : State} {a t : Nat} (stall : s.svcStall = some (some a, t)) (ended : t ≤ s.sup.now) : settleSvc s =
    { (pathRead { s with svcStall := none } .svc a).1 with svcHeld := some (pathRead { s with svcStall := none } .svc a).2 } := by
  simp only [settleSvc, stall, if_neg ended.not_gt]

/-- Settles O50: an equation for each kind of read, and for each access of the service port. -/
theorem readsComplete : Obligations.ReadsComplete := by
  unfold Obligations.ReadsComplete
  refine ⟨?bar, ?aliased, fun s m a n up => congrArg Host.Outcome.next (by simp [lolRead, up, unsupported]), ?shadow, ?svc, ?settle,
    fun s code power => congrArg _ (if_pos power)⟩
  case bar =>
    intro s p a b n up bar aligned some_
    refine ⟨fun word names => congrArg Host.Outcome.next ?_, ?_, fun word names => congrArg Host.Outcome.next ?_⟩
    · rw [lolRead_bar up bar, wordsRead_one aligned some_ word, wordRead_register bar names]
    · rintro rfl names names'
      refine ⟨_, _, rfl, rfl, congrArg Host.Outcome.next ?_⟩
      rw [lolRead_bar up bar, wordsRead_two aligned, wordRead_register bar names,
        wordRead_register bar ((pathOffset_pathRead s p p b (a + 4)).trans names')]
    · rw [lolRead_bar up bar, wordsRead_one aligned some_ word, wordRead_vectors bar names]
  case aliased =>
    intro s m r b n up aligned low hb some_ word
    have aligned' : (r * 32 + b * 4) % 4 = 0 := by omega
    refine congrArg Host.Outcome.next ?_
    rw [lolRead_alias up, wordsRead_one aligned' some_ word, wordRead_alias aligned low hb]
  case shadow =>
    intro s p b v hv
    rw [pathRead_lol p hv]
    exact ⟨rfl, shadowOf_setShadow_same .., fun q c other => shadowOf_setShadow_ne s _ other, fun his => pathRead_his p hv his⟩
  case svc =>
    intro s u a v hu
    refine ⟨fun down => ⟨fun o => congrArg _ (i3cRegisterRead_nack hu down o), congrArg _ (i3cRegisterWrite_nack hu down a v)⟩,
      fun up free ha => ⟨_, rfl, ?_⟩⟩
    have new := i3cRegisterRead_new hu up free ha
    have phase := i3cRegisterRead_phase hu up free
    refine ⟨fun prompt => congrArg _ (new.trans (i3cReadNew_delivers rfl prompt)), fun stalls => congrArg _ (new.trans (i3cReadNew_stalls rfl stalls)),
      fun r held => congrArg _ (phase.trans (i3cReadPhase_held held)), fun held => congrArg _ (phase.trans (i3cReadPhase_none held)), ?_⟩
    intro t whole part hv
    refine congrArg Host.Outcome.next ((i3cRegisterWrite_taken hu up free rfl ha hv).trans ?_)
    by_cases aligned : a % 4 = 0
    · simp only [aligned, if_true, ← whole aligned hv]
    · simp only [aligned, if_false, ← part aligned]
  case settle =>
    rintro s o t stall
    refine ⟨settleSvc_waits stall, fun ended => ⟨_, rfl, ?_, ?_⟩⟩
    · rintro rfl; exact settleSvc_write stall ended
    · rintro a rfl; exact settleSvc_read stall ended

end Sys2Proof.Machine
end

section
/-! Placement Objects: their commands, their claims and their moves (R314 to R330). -/
namespace Sys2Proof.Machine
open Sys2Proof Sys2Proof.Laws

/-! ### Moves and claims (R323 to R330) -/

theorem place_accepted {s : State} {x : Ctx} {h : CmdHdr} {id k tier by_ done : Nat} {o : Obj} (ho : cmdObj s h.ctx id 3 = .ok (k, o))
    (checks : placeStatus s x k o (((resolve s h.ctx id).map fun e => hasRight e.2 2).getD false) tier done = 0) :
    place h id tier by_ done s x = { st := claimObj s h.ctx k tier by_ done } := by
  simp only [place, ho, checks]

theorem evict_accepted {s : State} {x : Ctx} {h : CmdHdr} {id k : Nat} {o : Obj} (ho : cmdObj s h.ctx id 3 = .ok (k, o))
    (serves : ready s o.home = true) : evict h id s x = { st := replan (dropClaim s k h.ctx) k } := by
  simp [evict, ho, serves]

/-- `moveUnitCopied` copies: what follows its checks. -/
def unitCopied (s v : State) (p : Nat) (m : Move) (o : Obj) : State :=
  if o.present = .archive ∧ m.dest ≠ .archive then
    modObj v m.obj fun b =>
      locate s m.obj m.dest (m.done * pageSize) (pageBytes b m.done)
        { b with
          mem := (b.held.filter fun w => w.1 / pageSize == m.done).foldl (fun a w => wrBytes a w.1 w.2)
            ((b.mem.filter fun e => decide (e.1 < m.done * pageSize)) ++
              shiftMem (pageMem (cadOf s p) (o.lpns.getD m.done 0)) (m.done * pageSize)),
          held := b.held.filter fun w => w.1 / pageSize != m.done }
  else if m.dest = o.rest then
    if m.dest = .archive then formWriteBack v m.obj
    else modObj v m.obj fun b =>
      { ((sortBy (fun a b => decide (a < b)) b.dirty).take 1).foldl backUnitTo b with
        dirty := (sortBy (fun a b => decide (a < b)) b.dirty).drop 1 }
  else modObj v m.obj (locate s m.obj m.dest (m.done * 4096) (min 4096 (o.length - m.done * 4096)))

section
variable {s v : State} {p : Nat} {m : Move} {r : List Move} {o : Obj} (head : (platOf s p).moves = m :: r)
  (ho : tget s.objs m.obj = some o) (serves : ready s p = true)
include head ho serves

theorem moveUnitCopied_copies (more : m.done < m.total) (reads : o.present ≠ .archive ∨ mounted s p = true)
    (hv : v = modPlat s p fun x => { x with moves := { m with done := m.done + 1 } :: r }) : moveUnitCopied s p = unitCopied s v p m o := by
  subst hv
  simp only [moveUnitCopied, head, ho]
  exact if_pos ⟨serves, more, reads⟩

theorem moveComplete_ends (all_ : m.total ≤ m.done) (clean : m.dest = o.rest → o.dirty = [] ∧ writingBack s p m.obj = false)
    (unheld : m.dest = .archive → legHolds s m.obj = false) (locs : Obj → List (Nat × Nat))
    (hl : locs = fun o : Obj => o.locs.filter fun e => e.1 / 4294967296 == tierNum m.dest || e.1 / 4294967296 == tierNum o.rest)
    (hv : v = modObj (modPlat s p fun x => { x with moves := r }) m.obj fun o =>
        if m.dest = .archive then { o with present := .archive, mem := [], held := [], cover := [], locs := locs o }
        else { o with present := m.dest, mem := if m.dest = .main ∧ o.rest = .main then o.back else o.mem, locs := locs o }) :
    moveComplete s p = replan (meetClaims v m.obj) m.obj := by
  subst hv hl
  simp only [moveComplete, head, ho]
  refine (if_neg (by simp [serves, all_])).trans ((if_neg ?_).trans ((if_neg ?_).trans (if_neg ?_)))
  · rintro ⟨down, dirty⟩
    simp [(clean down).1] at dirty
  · rintro ⟨down, back⟩
    simp [(clean down).2] at back
  · rintro ⟨down, held⟩
    simp [unheld down] at held

end

theorem placeLate_tells {s v : State} {c id k r : Nat} {o : Obj} {q : Claim} (hk : resolve s c id = some (k, r)) (ho : tget s.objs k = some o)
    (hq : o.claims.find? (fun q => q.ctx == c) = some q) (some_ : q.byTime ≠ 0) (due : q.byTime ≤ s.sup.now) (unmet : q.met = false)
    (first : q.late = false)
    (hv : v = modObj s k fun o => { o with claims := o.claims.map fun q => if q.ctx = c then { q with late := true } else q }) :
    placeLate s c id = event v c 0x0200 0 [(0x10, 4, nameFor v c k), (0x14, 1, tierNum q.tier), (0x18, 8, q.byTime),
      (0x20, 4, unitsLeft s k o q.tier)] := by
  subst hv
  simp only [placeLate, hk, ho, hq]
  exact if_pos ⟨some_, due, by simp [unmet], by simp [first]⟩

/-- Settles O24: an equation for each step of a claim or move. -/
theorem claimsAndMovesComplete : Obligations.ClaimsAndMovesComplete := by
  unfold Obligations.ClaimsAndMovesComplete
  refine ⟨?commands, ?promoted, ?lowered, ?ends, ?late⟩
  case commands =>
    rintro s _ h x id k o rfl ho
    exact ⟨fun tier by_ done H checks => exec_of_ctxCmd H rfl (place_accepted ho checks),
      fun H serves => exec_of_ctxCmd H rfl (evict_accepted ho serves)⟩
  case promoted =>
    intro s p m r o head ho serves more slow up reads
    exact congrArg Host.Outcome.next ((moveUnitCopied_copies head ho serves more (.inr reads) rfl).trans (if_pos ⟨slow, up⟩))
  case lowered =>
    intro s v p m r o head ho serves more fast hv
    have copied : moveUnitCopied s p = _ := (moveUnitCopied_copies head ho serves more (.inl fast) hv).trans (if_neg fun h => fast h.1)
    exact ⟨fun archive rest => congrArg Host.Outcome.next (copied.trans ((if_pos (archive.trans rest.symm)).trans (if_pos archive))),
      fun rest archive => congrArg Host.Outcome.next (copied.trans ((if_pos rest).trans (if_neg archive))),
      fun rest => congrArg Host.Outcome.next (copied.trans (if_neg rest))⟩
  case ends =>
    intro s p m r o head ho serves all_ clean unheld
    exact ⟨_, _, rfl, rfl, congrArg Host.Outcome.next (moveComplete_ends head ho serves all_ clean unheld _ rfl rfl)⟩
  case late =>
    intro s c id k r o q hk ho hq some_ due unmet first
    exact ⟨_, rfl, congrArg Host.Outcome.next (placeLate_tells hk ho hq some_ due unmet first rfl)⟩

/-! ### Object commands (R318 to R322, R327) -/

theorem objectCreate_places {s : State} {x : Ctx} {h : CmdHdr} {b : CreateBody} {base : Nat} (checks : createCheck s h.ctx x b = 0)
    (hb : createdBase s h.ctx (createdObj s h.ctx x b) = some base) (room : createRoom s h.ctx b (createdObj s h.ctx x b) = true) :
    objectCreate h b s x = { st := enterObj s h.ctx b (createdObj s h.ctx x b) base } := by
  simp only [objectCreate, checks, placeNew, hb, room, if_true]

theorem objectDestroy_removes {s : State} {x : Ctx} {h : CmdHdr} {id k : Nat} {o : Obj} (ho : ownObj s h.ctx id = .ok (k, o))
    (serves : reachable s o = true) : objectDestroy h id s x = { st := removeObj s k 1 false } := by
  simp [objectDestroy, ho, serves]

theorem objectWrite_writes {s : State} {x : Ctx} {h : CmdHdr} {id off len k : Nat} {o : Obj} {d : Bytes}
    (checks : copyCheck s h.ctx id off len 1 = .ok (k, o)) (length : d.length = len) : objectWrite h id off len (some d) s x =
      if inArchive o then archiveWrite s h k o off d else { st := wrObj s k off d, result := tierServing s k o off len } := by
  have whole : (d ++ List.replicate len 0).take len = d := by rw [← length, List.take_left]
  simp only [objectWrite, checks, whole]

/-- Reading host memory for a command changes only what the package puts out. -/
theorem askHost_eq (s : State) (p : Nat) (f : Fn) (address n : Nat) : ∃ l, askHost s p f address n = { s with out := l } := by
  unfold askHost
  generalize readRequests s p f address n = requests
  suffices ∀ t : State, (∃ l, t = { s with out := l }) →
      ∃ l, requests.foldl (fun s e => emit s (.hostRead p e.1 e.2 (streamOf s p f))) t = { s with out := l } from this s ⟨s.out, rfl⟩
  induction requests with
  | nil => exact fun t ht => ht
  | cons e es ih => rintro _ ⟨l, rfl⟩; exact ih _ ⟨_, rfl⟩

theorem ctxTakes_askHost {s : State} {i : Instr} {h : CmdHdr} {x : Ctx} (H : CtxTakes s i h x) (p : Nat) (f : Fn) (address n : Nat) :
    CtxTakes (askHost s p f address n) i h x := by
  obtain ⟨l, asked⟩ := askHost_eq s p f address n
  rw [asked]
  exact H

theorem copyCheck_dropEntry_askHost (s : State) (p : Nat) (f : Fn) (address n c id off len right : Nat) :
    copyCheck (dropEntry (askHost s p f address n) c) c id off len right = copyCheck s c id off len right := by
  obtain ⟨l, asked⟩ := askHost_eq s p f address n
  rw [asked]
  rfl

theorem exec_objectWrite {s v : State} {h : CmdHdr} {x : Ctx} {id off a len k : Nat} {o : Obj} {d : Bytes}
    (H : CtxTakes s (.objectWrite h id off a len (some d)) h x) (linked : hostHeld s h.ctx = false) (free : writeHeld s h.ctx id = false)
    (checks : copyCheck s h.ctx id off len 1 = .ok (k, o)) (length : d.length = len)
    (hv : v = dropEntry (askHost s x.port (.vf x.vf) a len) h.ctx) : exec (.objectWrite h id off a len (some d)) s =
      .next (finishCmd h false (if inArchive o then archiveWrite v h k o off d
        else { st := wrObj v k off d, result := tierServing v k o off len })) := by
  have ⟨hx, takes_, live, _⟩ := H
  have asks : exec (.objectWrite h id off a len (some d)) s = .next (ctxCmd (askHost s x.port (.vf x.vf) a len)
      (.objectWrite h id off a len (some d)) h false (objectWrite h id off len (some d))) := by
    refine congrArg Host.Outcome.next ((if_neg (by simp [linked, free])).trans ?_)
    simp only [hx, takes_, live, checks, Except.toOption, Option.isSome_some, Bool.not_false, Bool.and_self]
  have checks' := (copyCheck_dropEntry_askHost s x.port (.vf x.vf) a len h.ctx id off len 1).trans checks
  rw [asks, ctxCmd_takes (ctxTakes_askHost H ..), objectWrite_writes checks' length, hv]

theorem objectRead_reads {s : State} {x : Ctx} {h : CmdHdr} {id off a len k : Nat} {o : Obj} (checks : copyCheck s h.ctx id off len 0 = .ok (k, o)) :
    objectRead h id off a len s x =
      { st := ((cut (len / pageSize + 1) pageSize off (rdBytes (objMem s k o) off len)).filter fun w => !pageLost s o (w.1 / pageSize)).foldl
          (fun t w => postData t x.port (.vf x.vf) (a + (w.1 - off)) w.2) s,
        status := if rangeLost s o off len then INTEGRITY else 0, result := tierServing s k o off len } := by
  simp only [objectRead, checks]

theorem grantee_valid {s : State} {c g r : Nat} (hg : g ≤ 63) (open_ : (ctxOf s g).isSome = true) (other : g ≠ c) (some_ : r ≠ 0) :
    ¬ (63 < g ∨ (ctxOf s g).isNone = true ∨ g = c ∨ r = 0) := by
  rintro (far | closed | same | none_)
  · omega
  · simp [Option.isNone_iff_eq_none.1 closed] at open_
  · exact other same
  · exact some_ none_

section
variable {s : State} {x : Ctx} {h : CmdHdr} {id g r k : Nat} {o : Obj} (ho : objNamed s h.ctx id = some (k, o)) (own : id < 0xFFFFFF00)
  (hg : g ≤ 63) (open_ : (ctxOf s g).isSome = true) (other : g ≠ h.ctx) (some_ : r % 8 ≠ 0) (serves : ready s o.home = true)
include ho own hg open_ other some_ serves

theorem objectGrant_new {slot : Nat} (new : objSlot o g = none) (free : freeSlot s g = some slot) : objectGrant h id g r s x =
    { st := event (modObj s k fun o => { o with grants := o.grants ++ [⟨g, slot, r % 8⟩] }) g 0x0201 0
        [(0x10, 4, 0xFFFFFF00 + slot), (0x14, 1, slot), (0x15, 1, h.ctx), (0x16, 1, r % 8), (0x18, 8, o.length)] } := by
  simp only [objectGrant, ho, new, free]
  exact (if_neg (grantee_valid hg open_ other some_)).trans ((if_neg (by omega)).trans (if_neg (by simp [serves])))

theorem objectGrant_again {slot : Nat} {e : ObjGrant} {v w : State} (held : objSlot o g = some slot)
    (he : o.grants.find? (fun e => e.ctx == g) = some e)
    (hw : w = if hasRight e.rights 1 && !hasRight (r % 8) 1 then cancelWrites (snapFor s k [g]) o.home k g else s)
    (hv : v = modObj w k fun o => { o with grants := o.grants.map fun e => if e.ctx = g then { e with rights := r % 8 } else e }) :
    objectGrant h id g r s x =
      { st := event (if hasRight (r % 8) 2 then v else replan (dropClaim v k g) k) g 0x0201 0
          [(0x10, 4, 0xFFFFFF00 + slot), (0x14, 1, slot), (0x15, 1, h.ctx), (0x16, 1, r % 8), (0x18, 8, o.length)] } := by
  subst hv hw
  simp only [objectGrant, ho, held, he]
  exact (if_neg (grantee_valid hg open_ other some_)).trans ((if_neg (by omega)).trans (if_neg (by simp [serves])))

end

theorem objectRevoke_revokes {s : State} {x : Ctx} {h : CmdHdr} {id g k : Nat} {o : Obj} (ho : ownObj s h.ctx id = .ok (k, o)) (hg : g ≤ 63)
    (serves : ready s o.home = true) : objectRevoke h id g s x = { st := replan (revokeObj s k g 0) k } := by
  simp [objectRevoke, ho, hg.not_gt, serves]

theorem objectQuery_reports {s : State} {x : Ctx} {h : CmdHdr} {id k : Nat} {o : Obj} (ho : cmdObj s h.ctx id 3 = .ok (k, o))
    (serves : ready s o.home = true) : objectQuery h id s x =
      { st := s
        result := tierNum o.present + 4 * tierNum o.rest + 16 * b2n (moveOf s k o).isSome + 32 * b2n (!o.dirty.isEmpty) +
          256 * (o.claims.length % 256) + 65536 * (o.home % 16) + 1048576 * bits o.base 27 16 } := by
  simp only [objectQuery, ho]
  exact if_neg (by simp [serves])

section
variable {s : State} {x : Ctx} {h : CmdHdr} {id k : Nat} {o : Obj} (ho : cmdObj s h.ctx id 1 = .ok (k, o)) (serves : ready s o.home = true)
include ho serves

theorem objectFlush_faster (fast : o.rest ≠ .archive) :
    objectFlush h id s x = { st := modObj s k fun o => { o.dirty.foldl backUnitTo o with dirty := [] } } := by
  simp only [objectFlush, ho]
  exact (if_neg (by simp [serves, fast])).trans (if_pos fast)

theorem objectFlush_archive {v : State} (slow : o.rest = .archive) (mounted_ : mounted s o.home = true)
    (room : canTake (cadOf s o.home) o.dirty.length = true) (hv : v = flushGroups (o.dirty.length / 16384 + 1) s k) :
    objectFlush h id s x = if writingBack v o.home k then later v h.ctx (.flush k h.tag h.flags) else { st := v } := by
  subst hv
  simp only [objectFlush, ho]
  exact (if_neg (by simp [serves, mounted_])).trans ((if_neg (by simp [slow])).trans (if_neg (by simp [room])))

end

/-- Settles O23: an equation for each object command whose checks pass. -/
theorem objectCommandsComplete : Obligations.ObjectCommandsComplete := by
  unfold Obligations.ObjectCommandsComplete
  rintro s _ h x rfl
  refine ⟨fun b base H checks hb room => exec_of_ctxCmd H rfl (objectCreate_places checks hb room),
    fun id k o H ho serves => exec_of_ctxCmd H rfl (objectDestroy_removes ho serves),
    fun id off a len k o d v H linked free checks length hv => exec_objectWrite H linked free checks length hv,
    fun id off a len k o H checks => exec_of_ctxCmd H rfl (objectRead_reads checks), ?grant,
    fun id g k o H ho hg serves => exec_of_ctxCmd H rfl (objectRevoke_revokes ho hg serves),
    fun id k o H ho serves => exec_of_ctxCmd H rfl (objectQuery_reports ho serves), ?flush⟩
  case grant =>
    intro id g r k o H ho own hg open_ other some_ serves
    exact ⟨fun slot new free => exec_of_ctxCmd H rfl (objectGrant_new ho own hg open_ other some_ serves new free),
      fun slot e w v held he hw hv => exec_of_ctxCmd H rfl (objectGrant_again ho own hg open_ other some_ serves held he hw hv)⟩
  case flush =>
    intro id k o H ho serves
    exact ⟨fun fast => exec_of_ctxCmd H rfl (objectFlush_faster ho serves fast),
      fun slow mounted_ room => ⟨_, rfl, exec_of_ctxCmd H rfl (objectFlush_archive ho serves slow mounted_ room rfl)⟩⟩

end Sys2Proof.Machine
end

section
/-! The Cadastre's own steps (R338 to R348). -/
namespace Sys2Proof.Machine
open Sys2Proof Sys2Proof.Laws

/-! ### Programs and commits (R339, R340, R342) -/

section
variable {s : State} {p b : Nat} {g : Group} {c : Cad} (hc : c = openBlock (cadOf s p)) (mounted_ : mounted s p = true)
  (free : quiescing s p = false) (hg : c.groups.find? (fun e => e.id == g.id) = some g) (hb : c.open_ = some b)
  (more : g.ppns.length < g.pages.length)
include hc mounted_ free hg hb more

theorem nandProgramDone_line (ok : Bool) : nandProgramDone s p g.id ok =
    if ok then checkWear (modCad (modCad s p fun _ => c) p fun c => programLine c b g) p
    else retireBlock (mediaFail (modCad (modCad s p fun _ => c) p fun c => { c with seq := c.seq + 4 }) p b) p b := by
  subst hc
  simp only [nandProgramDone, hg, hb]
  exact if_pos ⟨mounted_, more, by simp [free]⟩

end

theorem groupCommit_oldest {s : State} {p : Nat} {g : Group} {r : List Group} (hg : (cadOf s p).groups = g :: r) (mounted_ : mounted s p = true)
    (free : quiescing s p = false) (all_ : g.ppns.length = g.pages.length) :
    groupCommit s p g.id = groupDone (modCad s p fun c => durable c g) p g := by
  simp only [groupCommit, hg]
  exact if_pos ⟨mounted_, trivial, all_, by simp [free]⟩

theorem nandProgramDone_quiescing {s : State} {p : Nat} (busy : quiescing s p = true) (g : Nat) (ok : Bool) : nandProgramDone s p g ok = s := by
  simp only [nandProgramDone]
  split
  · exact if_neg fun h => h.2.2 busy
  · rfl

theorem groupCommit_quiescing {s : State} {p : Nat} (busy : quiescing s p = true) (g : Nat) : groupCommit s p g = s := by
  unfold groupCommit
  split
  · rfl
  · exact if_neg fun h => h.2.2.2 busy

/-! ### Erases and relocations (R345, R347, R348) -/

theorem eraseDone_ends {s : State} {p b : Nat} (mounted_ : mounted s p = true) (st : (blkOf (cadOf s p) b).st = .erasing) (ok : Bool) :
    eraseDone s p b ok =
      if ok then
        checkWear (modCad s p fun c =>
          let d := modBlk (journal c [{ type := 4, a := b, b := (blkOf c b).erases + 1 }]) b
            fun _ => { st := .free, erases := (blkOf c b).erases + 1 }
          { d with pages := d.pages.filter fun e => e.1 / blockPages != b, refresh := d.refresh.filter (· != b),
                   patrolled := tdel d.patrolled b }) p
      else
        checkWear (modCad (mediaFail s p b) p fun c => modBlk (journal c [{ type := 5, a := b, b := 2 }]) b fun x => { x with st := .retired }) p :=
  if_pos ⟨mounted_, st⟩

theorem blockRefresh_relocates {s : State} {p b : Nat} (mounted_ : mounted s p = true) (scheduled : b ∈ (cadOf s p).refresh) :
    blockRefresh s p b = relocate (modCad s p fun c =>
      { c with refresh := c.refresh.filter (· != b), open_ := if c.open_ = some b then none else c.open_ }) p b :=
  if_pos ⟨mounted_, List.contains_iff_mem.2 scheduled⟩

theorem wearRelocation_relocates {s : State} {p b : Nat} (mounted_ : mounted s p = true) (hb : leastErased (cadOf s p) = some b)
    (worn : meanErases (cadOf s p) + 200 <
      (((cadOf s p).blocks.filter fun e => decide (e.2.st ≠ .retired)).map (·.2.erases)).foldl max 0) :
    wearRelocation s p = relocate (modCad s p fun c => { c with open_ := if c.open_ = some b then none else c.open_ }) p b := by
  simp only [wearRelocation, hb]
  exact if_pos ⟨mounted_, worn⟩

/-! ### Reads and the patrol (R347, Table 9.11) -/

theorem cadastrePageReadDone_counted {s v : State} {p lpn n : Nat} {o : PageRead} (hn : tget (cadOf s p).map lpn = some n)
    (mounted_ : mounted s p = true) (kept : lpn ∉ (cadOf s p).lost)
    (hv : v = modCad s p fun c => suspendErases (countRead c (n / blockPages) o)) :
    cadastrePageReadDone s p lpn o = if o.uncorrectable then losePage v p lpn else v := by
  subst hv
  simp only [cadastrePageReadDone, hn]
  exact if_pos ⟨mounted_, by simpa using kept⟩

theorem cadastrePatrol_passes {s : State} {p b : Nat} {o : PageRead} (mounted_ : mounted s p = true) (holds : mapsBlock (cadOf s p) b = true)
    (good : o.uncorrectable = false) : cadastrePatrol s p b o = modCad s p fun c =>
      { countRead c b o with patrolled := tput (countRead c b o).patrolled b s.sup.now } := by
  refine (if_pos ⟨mounted_, holds⟩).trans ((if_neg (by simp [good])).trans ?_)
  simp [good]

theorem cadastrePatrol_loses {s : State} {p b : Nat} {o q : PageRead} {l : List Nat} (mounted_ : mounted s p = true)
    (holds : mapsBlock (cadOf s p) b = true) (bad : o.uncorrectable = true) (hq : q = { o with retrySteps := max 3 o.retrySteps })
    (hl : l = (blockLpns (cadOf s p) b).filter fun n => !(cadOf s p).lost.contains n) (some_ : l ≠ []) :
    ∃ n v, n ∈ l ∧ v = modCad s p (fun c => { countRead c b q with patrolled := tput (countRead c b q).patrolled b s.sup.now }) ∧
      cadastrePatrol s p b o = losePage { v with free := s.free + 1 } p n := by
  have drawn : Config.freeNat s.free % l.length < l.length := Nat.mod_lt _ (List.length_pos_of_ne_nil some_)
  refine ⟨l.getD (Config.freeNat s.free % l.length) 0, _, ?_, rfl, ?_⟩
  · rw [List.getD_eq_getElem _ _ drawn]
    exact List.getElem_mem drawn
  · subst hq hl
    refine (if_pos ⟨mounted_, holds⟩).trans ((if_pos (by rw [bad, List.isEmpty_eq_false_iff.2 some_]; rfl)).trans ?_)
    simp only [bad, if_true]

/-! ### Checkpoints and mount (R342, R343) -/

theorem checkpointTimer_due {s : State} {p : Nat} (mounted_ : mounted s p = true) (since : (cadOf s p).commits = true)
    (late : (cadOf s p).ckptAt + 30000000000 ≤ s.sup.now) : checkpointTimer s p = modCad s p fun c => { c with ckptDue := true } :=
  if_pos ⟨mounted_, since, late⟩

theorem checkpointDone_made {s : State} {p : Nat} (mounted_ : mounted s p = true) (due : (cadOf s p).ckptDue = true) :
    checkpointDone s p = endQuiesce (modCad s p fun c => checkpoint c s.sup.now) p :=
  if_pos ⟨mounted_, due⟩

theorem cadastreMount_ends {s : State} {p : Nat} {media : MountMedia} {c : Cad} (hp : p < nPlats s) (serves : ready s p = true)
    (st : (cadOf s p).st = 1) (hc : c = mountCad s p media) : cadastreMount s p media =
      eventAll (modCad s p fun _ => c) 0x0204 0
        [(0x10, 4, 0), (0x14, 1, p), (0x15, 1, b2n c.unclean), (0x18, 4, c.discarded), (0x1C, 4, c.reerased), (0x20, 4, media.elapsedMs)] := by
  subst hc
  exact if_pos ⟨hp, serves, st⟩

theorem cadastreQuiesce_waits {s : State} {h : CmdHdr} {x : Ctx} {p : Nat} {ps : List Nat} (surveyor : x.surveyor = true)
    (hps : ps = if p = 255 then List.range (nPlats s) else [p]) (hp : p = 255 ∨ p < nPlats s) (all_ : ∀ q ∈ ps, mounted s q = true) :
    cadastreQuiesce h p s x =
      later (ps.foldl (fun s p => modCad s p fun c => { c with ckptDue := true }) s) h.ctx (.quiesce ps h.tag h.flags) := by
  subst hps
  exact (if_neg (by simp [surveyor])).trans ((if_neg (by omega)).trans (if_neg (by simpa using all_)))

theorem cadastreQuiesce_denied {s : State} {h : CmdHdr} {x : Ctx} {p : Nat} (surveyor : x.surveyor = false) :
    cadastreQuiesce h p s x = { st := s, status := ACCESS_DENIED } :=
  if_pos (by simp [surveyor])

/-- Settles O25: an equation for each step of the Cadastre. -/
theorem cadastreStepsComplete : Obligations.CadastreStepsComplete := by
  unfold Obligations.CadastreStepsComplete
  refine ⟨⟨?program, fun s p g r hg mounted_ free all_ => congrArg Host.Outcome.next (groupCommit_oldest hg mounted_ free all_),
      fun s p g ok busy => ⟨congrArg Host.Outcome.next (nandProgramDone_quiescing busy g ok), congrArg Host.Outcome.next (groupCommit_quiescing busy g)⟩,
      fun s p b mounted_ st => ⟨congrArg Host.Outcome.next (eraseDone_ends mounted_ st true), congrArg Host.Outcome.next (eraseDone_ends mounted_ st false)⟩,
      fun s p b mounted_ st => congrArg Host.Outcome.next (if_pos ⟨mounted_, st⟩),
      fun s p b mounted_ scheduled => congrArg Host.Outcome.next (blockRefresh_relocates mounted_ scheduled),
      fun s p b mounted_ hb worn => congrArg Host.Outcome.next (wearRelocation_relocates mounted_ hb worn)⟩,
    ?read, ?patrol, fun s p mounted_ since late => congrArg Host.Outcome.next (checkpointTimer_due mounted_ since late),
    fun s p mounted_ due => congrArg Host.Outcome.next (checkpointDone_made mounted_ due),
    fun s p media c hp serves st hc => congrArg Host.Outcome.next (cadastreMount_ends hp serves st hc),
    fun s h x p ps H surveyor hps hp all_ => exec_of_ctxCmd H rfl (cadastreQuiesce_waits (s := dropEntry s h.ctx) surveyor hps hp all_),
    fun s h x p H surveyor => exec_of_ctxCmd H rfl (cadastreQuiesce_denied surveyor)⟩
  case program =>
    intro s p b g c hc mounted_ free hg hb more
    exact ⟨congrArg Host.Outcome.next (nandProgramDone_line hc mounted_ free hg hb more true),
      congrArg Host.Outcome.next (nandProgramDone_line hc mounted_ free hg hb more false)⟩
  case read =>
    intro s p lpn n o hn mounted_ kept
    exact ⟨_, rfl, congrArg Host.Outcome.next (cadastrePageReadDone_counted hn mounted_ kept rfl)⟩
  case patrol =>
    intro s p b o mounted_ holds
    refine ⟨fun good => congrArg Host.Outcome.next (cadastrePatrol_passes mounted_ holds good), fun l q bad hq hl some_ => ?_⟩
    obtain ⟨n, v, hn, hv, lost⟩ := cadastrePatrol_loses mounted_ holds bad hq hl some_
    exact ⟨n, v, hn, hv, congrArg Host.Outcome.next lost⟩

end Sys2Proof.Machine
end

section
/-! The Resection Engine: SEARCH, MERGE, FAN_OUT, REPLY and the services (R288 to R305). -/
namespace Sys2Proof.Machine
open Sys2Proof Sys2Proof.Laws

/-! ### SEARCH (R288 to R295, R304) -/

section
variable {u : State} {l : LegRef} {g : Leg} {x : LegRun} {d : SDesc} {ix : IDesc} {o out : OpEnt} {ib : Bytes} {r : SearchRun}

section
variable (hg : legOf u l = some g) (hx : runOf u l = some x) (kind : g.kind = 2) (sub : g.subop = 0) (runs : legRuns u l = true)
  (hd : searchDesc u (whoOf u l) g = .inr d) (held : descObj u l.ctx d.index false = true)
  (hib : rdName u (whoOf u l) d.index 0 256 = some ib) (hix : ix = parseIDesc u ib) (checks : searchStatus u l.ctx g d ix = 0)
  (good : r.bad = false) (ho : opAt g 0 = some o) (hout : opAt g 2 = some out)
include hg hx kind sub runs hd held hib hix checks good ho hout

theorem searchLeg_checked : searchLeg u l r =
    if d.inbox then searchInbox u l (whoOf u l) g d ix r x o out
    else if !querySetOk u (whoOf u l) d ix o 0 then refuseLeg u l INTEGRITY
    else searchEnd u l (whoOf u l) g d ix r x.cut o 0 := by
  subst hix
  simp only [searchLeg, hg, hx]
  refine (if_pos ⟨kind, .inl sub, runs⟩).trans ?_
  simp [sub, hd, held, hib, checks, ho, hout, good]

end

theorem searchEnd_writes {w : Who} (hw : w.ctx = l.ctx) {cut_ : Option (List Nat)} {off : Nat} {ce di su : Bytes} {qs : QuerySet}
    (hout : opAt g 2 = some out) (hq : readQuerySet u w o off d ix.dim = some qs)
    (hc : rdName u w ix.centroids 0 (4 * ix.dim * ix.tracts) = some ce) (hdi : rdName u w ix.directory 0 (16 * ix.tracts) = some di)
    (hsu : ix.smax = 0 ∧ su = [] ∨ ix.smax ≠ 0 ∧ rdName u w ix.summaries 0 (ix.tracts * ix.smax * entryBytes ix.dim) = some su) :
    ∃ q v, q = searchWork u w d ix ce di su r cut_ qs ∧ v = q.2.1.foldl (fun s t => pageLostEvent s l t) { u with free := u.free + 1 } ∧
      searchEnd u l w g d ix r cut_ o off = finishLeg v l
        { warn := if q.2.1.any (fun t => !t.full) then 2 else 0, cond := q.2.2, writes := [(out, 0, q.1)],
          tier := searchTier u l.ctx q.2.1 } := by
  have summaries : (if ix.smax = 0 then some [] else rdName u w ix.summaries 0 (ix.tracts * ix.smax * entryBytes ix.dim)) = some su := by
    rcases hsu with ⟨none_, rfl⟩ | ⟨some_, read⟩
    · exact if_pos none_
    · exact (if_neg some_).trans read
  refine ⟨_, _, rfl, rfl, ?_⟩
  simp only [searchEnd, hq, hc, hdi, summaries, hout, hw]

section
variable {w : Who} {n : Nat} {v : Service} {t : State} (hs : serviceOf u l.ctx o.obj = some (n, v))
  (hown : inboxOwner u n l.handle = some t)
include hs hown

theorem searchInbox_owned : searchInbox u l w g d ix r x o out = searchOwned t l w g d ix r x out n v := by
  simp only [searchInbox, hs, hown]

theorem searchInbox_empty (none_ : searchTake t w v x.at_ = none) : searchInbox u l w g d ix r x o out =
    finishLeg (expireInbox t l w n v x.at_ 64) l { writes := [(out, 0, emptySlot d 7 0)] } := by
  rw [searchInbox_owned hs hown, searchOwned, none_]
  rfl

theorem searchInbox_takes {j q : Nat} (take : searchTake t w v x.at_ = some j) (hq : q = inboxAt t w v.inbox v.depth j + 64)
    (ok : querySetOk t w d ix ⟨v.inbox, 0, 0⟩ q = true) : searchInbox u l w g d ix r x o out =
    searchEnd (expireInbox t l w n v x.at_ 64) l w g d ix r x.cut ⟨v.inbox, 0, 0⟩ q := by
  subst hq
  rw [searchInbox_owned hs hown, searchOwned, take]
  exact if_neg (by simp [ok])

end

theorem searchCutoff_reached {s : State} {joined : List Nat} {t : Nat} (hg : legOf s l = some g) (hx : runOf s l = some x) (kind : g.kind = 2)
    (sub : g.subop = 0) (runs : legRuns s l = true) (ht : x.tcut = some t) (first : x.cut = none) (due : t ≤ s.sup.now) :
    searchCutoff s l joined = modRun s l fun x => { x with cut := some joined } := by
  simp only [searchCutoff, hg, hx, ht]
  exact if_pos ⟨kind, sub, runs, first, due⟩

theorem searchLeg_unknown (hg : legOf u l = some g) (hx : runOf u l = some x) (kind : g.kind = 2) (sub : 3 < g.subop)
    (runs : legRuns u l = true) : searchLeg u l r = finishLeg u l { status := INTEGRITY, ran := false } := by
  simp only [searchLeg, hg, hx]
  exact (if_pos ⟨kind, .inr sub, runs⟩).trans (if_pos (by omega))

end

/-- Settles O20: `searchLeg_checked`, and what it comes to for a Query Set and for an Inbox. -/
theorem searchComplete : Obligations.SearchComplete := by
  unfold Obligations.SearchComplete
  refine ⟨?search, fun s l g x joined t hg hx kind sub runs ht first due =>
    congrArg Host.Outcome.next (searchCutoff_reached hg hx kind sub runs ht first due), ?unknown⟩
  case search =>
    rintro s _ l g x d ix o out ib r rfl hg hx kind sub runs hd held hib hix checks good ho hout
    have checked := searchLeg_checked hg hx kind sub runs hd held hib hix checks good ho hout
    refine ⟨fun ce di su qs direct ok hq hc hdi hsu => ?_, fun n v t a inbox hs hown ha => ⟨fun none_ => ?_, fun j q take hq ok => ?_⟩⟩
    · obtain ⟨w, v, hw, hv, ends⟩ := searchEnd_writes (l := l) (r := r) (cut_ := x.cut) (whoOf_ctx _ l) hout hq hc hdi hsu
      refine ⟨w, v, hw, hv, congrArg (fun w => Host.Outcome.next (snapsOut s l w)) (checked.trans ((if_neg (by simp [direct])).trans ?_))⟩
      exact (if_neg (by simp [ok])).trans ends
    · subst ha
      exact congrArg (fun w => Host.Outcome.next (snapsOut s l w)) (checked.trans ((if_pos inbox).trans (searchInbox_empty hs hown none_)))
    · subst ha
      exact congrArg (fun w => Host.Outcome.next (snapsOut s l w)) (checked.trans ((if_pos inbox).trans (searchInbox_takes hs hown take hq ok)))
  case unknown =>
    rintro s _ l g x r rfl hg hx kind sub runs
    exact congrArg (fun w => Host.Outcome.next (snapsOut s l w)) (searchLeg_unknown hg hx kind sub runs)

/-! ### MERGE (R298) -/

section
variable {u : State} {l : LegRef} {g : Leg} {x : LegRun} {d : SDesc} {o out : OpEnt} (hg : legOf u l = some g) (kind : g.kind = 2)
  (runs : legRuns u l = true) (hd : searchDesc u (whoOf u l) g = .inr d) (ho : opAt g 0 = some o)
include hg kind runs hd ho

theorem mergeLeg_writes {b : Bytes} (sub : g.subop = 1) (checks : mergeStatus u l.ctx g d = 0) (hout : opAt g 2 = some out)
    (hb : rdOp u (whoOf u l) o 0 (d.slots * slotSize d) = some b) : mergeLeg u l ⟨false⟩ = finishLeg u l
      { warn := if (mergeSlots d b).2.1 then 2 else 0, writes := [(out, 0, (mergeSlots d b).1)], cond := (mergeSlots d b).2.2,
        tier := max (opTier u l.ctx o 0 (d.slots * slotSize d)) (opTier u l.ctx out 0 (slotSize d)) } := by
  simp only [mergeLeg, hg]
  refine (if_pos ⟨kind, sub, runs⟩).trans ?_
  simp only [hd, checks, ho, hout, hb, Bool.false_eq_true, if_false]

/-! ### FAN_OUT (R302) -/

theorem fanOutLeg_starts {h m qs : Bytes} (hx : runOf u l = some x) (sub : g.subop = 2) (first : ∀ f ∈ u.fans, f.leg ≠ l)
    (checks : fanStatus u l.ctx g d = 0) (hout : opAt g 2 = some out) (hh : rdOp u (whoOf u l) o 0 64 = some h)
    (hm : rdName u (whoOf u l) d.map 0 (4 * d.slots) = some m) (some_ : 1 ≤ fld h 0 4) (fits : fld h 0 4 ≤ d.qcap)
    (room : 64 + fld h 0 4 * queryBytes (fld h 4 2) ≤ opRoom u l.ctx o)
    (hq : rdOp u (whoOf u l) o 0 (64 + fld h 0 4 * queryBytes (fld h 4 2)) = some qs) :
    fanOutLeg u l ⟨false⟩ = fanStart u l x d out (fanRemote d m) qs := by
  simp only [fanOutLeg, hg, hx]
  refine (if_pos ⟨kind, sub, runs, by simpa using first⟩).trans ?_
  simp only [hd, checks, ho, hout, hh, hm, hq, Bool.false_eq_true, if_false]
  exact if_neg (by omega)

/-! ### REPLY (R305) -/

theorem replyLeg_sends {t : State} {b env : Bytes} {i : OpEnt} {num hd_ tl : Nat} {v : Service} (sub : g.subop = 3) (hi : opAt g 1 = some i)
    (hs : serviceOf u l.ctx i.obj = some (num, v)) (hown : inboxOwner u num l.handle = some t) (desc : sdescOk d 3 = true)
    (room : slotSize d ≤ opRoom t l.ctx o) (hb : rdOp t (whoOf u l) o 0 (slotSize d) = some b)
    (ends : inboxEnds t (whoOf u l) v.inbox = (hd_, tl)) (entry : hd_ ≠ tl) (serves : ¬ (fld b 0 1 = 0 ∧ fld b 1 1 = 7))
    (henv : env = (rdName t (whoOf u l) v.inbox (inboxAt t (whoOf u l) v.inbox v.depth hd_) 64).getD []) :
    replyLeg u l ⟨false⟩ = finishLeg
      (wrInbox (sendTo t (fld env 0 1) (replyFrames t (fld env 0 1) (fld env 4 4) (overlay b 12 (le 1 (ownNode t))))) v 0
        (le 4 (wrap32 (hd_ + 1)))) l { tier := opTier t l.ctx o 0 (slotSize d) } := by
  subst henv
  simp only [replyLeg, hg]
  refine (if_pos ⟨kind, sub, runs⟩).trans ?_
  simp only [hd, ho, hi, Option.bind_some, hs, hown, hb, ends, Bool.false_eq_true, if_false]
  exact (if_neg (by simp [desc, room])).trans (if_neg (by simpa [entry] using serves))

end

/-- The events of a FAN_OUT that completes leave the FAN_OUTs as they are. -/
theorem foldl_event_fans {β : Type} (c type status : Nat) (payload : β → List Fld) (l : List β) (s : State) :
    (l.foldl (fun s e => event s c type status (payload e)) s).fans = s.fans := by
  obtain ⟨_, _, _, written⟩ := foldl_written (fun s e => event s c type status (payload e)) (fun s e => event_written ..) l s
  rw [written]

/-- TIER of a FAN_OUT: that of the queries it read and of the remote slots (R294, R302). -/
def fanTier (s : State) (l : LegRef) (f : Fan) (out : OpEnt) : Nat :=
  f.nodes.foldl (fun t e => max t (opTier s l.ctx out (e.1 * f.slotLen) f.slotLen))
    (((legOf s l).bind (opAt · 0)).elim 0 fun o => opTier s l.ctx o 0 (64 + f.query))

theorem fanOutComplete_ends {u : State} {l : LegRef} {f : Fan} {x : LegRun} {out : OpEnt} (hf : u.fans.find? (fun f => f.leg == l) = some f)
    (hx : runOf u l = some x) (runs : legRuns u l = true) (hout : out = ⟨f.obj, f.off, 0⟩)
    (over_ : f.missing = [] ∨ ∃ t, x.tcut = some t ∧ t ≤ u.sup.now) :
    ∃ v bad w tier writes, v = f.missing.foldl (fun s i => wrOp s l.ctx out (i * f.slotLen + 1) [1]) u ∧
      bad = f.nodes.filterMap (fun e => match rdOp v (whoOf u l) out (e.1 * f.slotLen) 2 with
        | some b => if fld b 0 1 = 0 then some (e.1, fld b 1 1, e.2) else none
        | none => none) ∧
      w = bad.foldl (fun s e => event s l.ctx 0x0151 2
          [(0x10, 2, l.handle), (0x12, 2, l.leg), (0x14, 1, e.1), (0x15, 1, e.2.1), (0x16, 1, e.2.2)]) v ∧
      writes = f.nodes.filterMap (fun e => (rdOp v (whoOf u l) out (e.1 * f.slotLen)
        (if f.missing.contains e.1 then 2 else f.slotLen)).map fun b => (out, e.1 * f.slotLen, b)) ∧
      fanOutComplete u l = finishLeg { w with fans := v.fans.filter fun g => g.leg != l } l
        { warn := if f.part || !bad.isEmpty then 2 else 0, tier := tier, writes := writes } := by
  have ended : f.missing = [] ∨ (x.tcut.map fun t => decide (t ≤ u.sup.now)).getD false = true := by
    rcases over_ with all_ | ⟨t, ht, due⟩
    · exact .inl all_
    · exact .inr (by simp [ht, due])
  refine ⟨_, _, _, fanTier (f.missing.foldl (fun s i => wrOp s l.ctx out (i * f.slotLen + 1) [1]) u) l f out, _, rfl, rfl, rfl, rfl, ?_⟩
  subst hout
  simp only [fanOutComplete, hf, hx]
  refine (if_pos ⟨runs, ended⟩).trans ?_
  rw [foldl_event_fans]
  rfl

/-! ### Services (R301) -/

theorem serviceBind_opens {s : State} {x : Ctx} {h : CmdHdr} {b : ServiceBindBody} {i j : Obj} {n : Nat} (inbox : b.inbox < 0xFFFFFF00)
    (index : b.index < 0xFFFFFF00) (hi : objOf s h.ctx b.inbox = some i) (fast : inArchive i = false) (hj : objOf s h.ctx b.index = some j)
    (fast' : inArchive j = false) (hn : n = inboxEntry b.qcap (((rdObj s (objKey h.ctx b.index) 6 2).map leNat).getD 0))
    (checks : serviceStatus s x b (64 + b.depth * n ≤ i.length) = 0) : serviceBind h b s x =
      { st := wrObj { s with services := tput s.services b.service ⟨h.ctx, b.inbox, b.depth, b.stake, b.index, b.qcap, none⟩ }
          (objKey h.ctx b.inbox) 0 (le 4 0 ++ le 4 0 ++ le 4 n) } := by
  subst hn
  have keeps {o : Obj} (fast : inArchive o = false) : (some o).filter (fun o => !inArchive o) = some o := by simp [Option.filter, fast]
  simp only [serviceBind, if_neg inbox.not_ge, if_neg index.not_ge, hi, hj, keeps fast, keeps fast', checks]

theorem serviceUnbind_ends {s : State} {x : Ctx} {h : CmdHdr} {n : Nat} {v : Service} (hv : tget s.services n = some v) (own : v.ctx = h.ctx) :
    serviceUnbind h n s x = { st := endService s n } := by
  simp only [serviceUnbind, hv]
  exact if_pos own

/-- Settles O21: an equation for each Leg and command of the Resection Engine but SEARCH. -/
theorem mergeReplyAndServiceComplete : Obligations.MergeReplyAndServiceComplete := by
  unfold Obligations.MergeReplyAndServiceComplete
  refine ⟨⟨?merge, ?fan, ?complete, ?reply⟩, ?bind, fun s h x n v H hv own => exec_of_ctxCmd H rfl (serviceUnbind_ends hv own)⟩
  case merge =>
    rintro s _ l g d b o out rfl hg kind sub runs hd checks ho hout hb
    exact congrArg (fun w => Host.Outcome.next (snapsOut s l w)) (mergeLeg_writes hg kind runs hd ho sub checks hout hb)
  case fan =>
    rintro s _ l g x d h m qs o out rfl hg hx kind sub runs first hd checks ho hout hh hm some_ fits room hq
    exact congrArg (fun w => Host.Outcome.next (snapsOut s l w))
      (fanOutLeg_starts hg kind runs hd ho hx sub first checks hout hh hm some_ fits room hq)
  case complete =>
    rintro s _ l f x out rfl hf hx runs hout over_
    obtain ⟨v, bad, w, tier, writes, hv, hbad, hw, hwrites, ends⟩ := fanOutComplete_ends hf hx runs hout over_
    exact ⟨v, bad, w, tier, writes, hv, hbad, hw, hwrites, congrArg (fun w => Host.Outcome.next (snapsOut s l w)) ends⟩
  case reply =>
    rintro s _ t l g d b o i num v hd_ tl rfl hg kind sub runs hd ho hi hs hown desc room hb ends entry serves
    exact ⟨_, _, rfl, rfl, congrArg (fun w => Host.Outcome.next (snapsOut s l w))
      (replyLeg_sends hg kind runs hd ho sub hi hs hown desc room hb ends entry serves rfl)⟩
  case bind =>
    intro s h x b i j n H inbox index hi fast hj fast' hn checks
    exact exec_of_ctxCmd H rfl (serviceBind_opens (s := dropEntry s h.ctx) inbox index hi fast hj fast' hn checks)

end Sys2Proof.Machine
end

section
/-! The Parallax Engine's Leg and the Tensor Array's (R174, R177 to R184, R200 to R204). -/
namespace Sys2Proof.Machine
open Sys2Proof Sys2Proof.Laws

/-- A list of readings that all succeed has one value for each. -/
theorem length_of_mapM_some {α β : Type} {f : α → Option β} {l : List α} {r : List β} (h : l.mapM f = some r) : r.length = l.length := by
  induction l generalizing r with
  | nil =>
    obtain rfl : [] = r := by simpa using h
    rfl
  | cons a l ih =>
    rw [List.mapM_cons] at h
    obtain ⟨b, -, rest⟩ := Option.bind_eq_some_iff.1 h
    obtain ⟨bs, hbs, same⟩ := Option.bind_eq_some_iff.1 rest
    obtain rfl := Option.some.inj same
    rw [List.length_cons, List.length_cons, ih hbs]

/-! ### The Parallax Engine (R177 to R184) -/

section
variable {u : State} {l : LegRef} {g : Leg} {d : Bytes} {a b o : OpEnt} {p : PxDesc} {lr : Bytes} {lp : Plane} (hg : legOf u l = some g)
  (runs : legRuns u l = true) (kind : g.kind = 1) (hd : rdName u (whoOf u l) g.desc 0 128 = some d) (hp : p = parsePx d)
  (checks : pxCheck u l.ctx g p = 0) (ha : opAt g 0 = some a) (hb : opAt g 1 = some b) (ho : opAt g 2 = some o)
  (left_ : readPlane u (whoOf u l) a p.offL p = some (lr, lp)) (depth : fld lr 0x24 1 ≤ 1)
include hg runs kind hd hp checks ha hb ho left_ depth

theorem parallaxLeg_census {rr : Bytes} {rp : Plane} (images : p.vol = false)
    (right_ : readPlane u (whoOf u l) b p.offR p = some (rr, rp)) (same : fld rr 0x24 1 = fld lr 0x24 1) :
    parallaxLeg u l ⟨false⟩ = pxCensus u l p o lr rr lp rp (pxTier u (whoOf u l) p a b o) := by
  subst hp
  simp only [parallaxLeg, hg]
  refine (if_pos ⟨kind, runs⟩).trans ?_
  simp only [hd, checks, ha, hb, ho, left_, right_, Bool.false_eq_true, if_false, if_neg depth.not_gt, images, ne_eq, same, not_true]

theorem parallaxLeg_whole {rows : List Bytes} (volume : p.vol = true) (whole : p.ring.role = 0)
    (read : ((List.range p.hw).mapM fun y => rdOp u (whoOf u l) b (y * p.src) (p.ww * p.dd)) = some rows) :
    parallaxLeg u l ⟨false⟩ = pxVolume u l p o lr lp rows (pxTier u (whoOf u l) p a b o) := by
  subst hp
  simp only [parallaxLeg, hg]
  refine (if_pos ⟨kind, runs⟩).trans ?_
  simp only [hd, checks, ha, hb, ho, left_, read, Bool.false_eq_true, if_false, if_neg depth.not_gt, volume, if_true, whole]

theorem parallaxLeg_ring {v : State} (volume : p.vol = true) (ring : p.ring.role ≠ 0) (hv : v = takeBands p.bands u l (whoOf u l) g p) :
    parallaxLeg u l ⟨false⟩ =
      if (takenRows v l p).length < p.hw then v else pxVolume v l p o lr lp (takenRows v l p) (pxTier u (whoOf u l) p a b o) := by
  subst hp hv
  simp only [parallaxLeg, hg]
  refine (if_pos ⟨kind, runs⟩).trans ?_
  simp only [hd, checks, ha, hb, ho, left_, Bool.false_eq_true, if_false, if_neg depth.not_gt, volume, if_true, if_neg ring]

end

/-- Settles O12: `parallaxLeg` in each of the three ways in which costs come. -/
theorem parallaxLegComplete : Obligations.ParallaxLegComplete := by
  unfold Obligations.ParallaxLegComplete
  rintro s _ l g d a b o p lr lp rfl hg runs kind hd hp checks ha hb ho left_ depth
  refine ⟨fun rr rp images right_ same => ⟨_, congrArg (fun w => Host.Outcome.next (snapsOut s l w)) ?_, rfl⟩,
    fun rows volume whole read => ⟨_, congrArg (fun w => Host.Outcome.next (snapsOut s l w)) ?_, rfl⟩,
    fun v volume ring hv => ⟨fun missing => congrArg (fun w => Host.Outcome.next (snapsOut s l w)) ?_,
      fun all_ => ⟨_, congrArg (fun w => Host.Outcome.next (snapsOut s l w)) ?_, rfl⟩⟩⟩
  · exact parallaxLeg_census hg runs kind hd hp checks ha hb ho left_ depth images right_ same
  · have count : rows.length = p.hw := (length_of_mapM_some read).trans List.length_range
    refine (parallaxLeg_whole hg runs kind hd hp checks ha hb ho left_ depth volume whole read).trans ?_
    simp only [pxVolume, List.take_of_length_le count.le]
  · exact (parallaxLeg_ring hg runs kind hd hp checks ha hb ho left_ depth volume ring hv).trans (if_pos missing)
  · exact (parallaxLeg_ring hg runs kind hd hp checks ha hb ho left_ depth volume ring hv).trans (if_neg all_.not_gt)

/-! ### The Tensor Array (R200 to R204) -/

section
variable {u : State} {l : LegRef} {g : Leg} (hg : legOf u l = some g) (kind : g.kind = 0) (runs : legRuns u l = true)
include hg kind runs

theorem tensorLeg_denied (r : EngineRun) (away : scratchOwn u l.ctx g 3 = false) :
    tensorLeg u l r = finishLeg u l { status := ACCESS_DENIED, ran := false } := by
  simp only [tensorLeg, hg]
  exact (if_pos ⟨kind, runs⟩).trans (if_pos (by simp [away]))

variable (own : scratchOwn u l.ctx g 3 = true)
include own

theorem tensorLeg_refused (r : EngineRun) (bad : g.subop ≠ 0 ∨ ∃ p, readProg u (whoOf u l) g = some p ∧ p.ok = false) :
    tensorLeg u l r = finishLeg u l { status := INTEGRITY, ran := false } := by
  simp only [tensorLeg, hg]
  refine (if_pos ⟨kind, runs⟩).trans ((if_neg (by simp [own])).trans ?_)
  by_cases sub : g.subop = 0
  · obtain ⟨p, hp, bad⟩ := bad.resolve_left (not_not_intro sub)
    simp only [hp]
    exact (if_neg (not_not_intro sub)).trans (if_pos (by simp [bad]))
  · exact if_pos sub

theorem tensorLeg_runs {p : Prog} {y : ProgRun} {v : State} (sub : g.subop = 0) (hp : readProg u (whoOf u l) g = some p) (ok : p.ok = true)
    (hy : y = progRun l (whoOf u l) g p.steps { s := u }) (good : y.bad = false)
    (hv : v = y.slots.foldl (fun s e => wrOp s l.ctx e.1 e.2.1 e.2.2) { y.s with objs := u.objs }) : tensorLeg u l ⟨false⟩ =
      if y.wait then v
      else finishLeg v l
        { cond := y.tally.cond, tier := progTier u l.ctx p,
          writes := y.writes ++ y.slots ++ if p.tally = 0 then [] else [(⟨p.tally, 0, 0⟩, 0, tallyBytes y.tally u.sup.now)] } := by
  subst hv hy
  simp only [tensorLeg, hg]
  refine (if_pos ⟨kind, runs⟩).trans ((if_neg (by simp [own])).trans ((if_neg (not_not_intro sub)).trans ?_))
  simp only [hp]
  exact (if_neg (by simp [ok])).trans (if_neg (by simp [good]))

end

/-- Settles O13: `tensorLeg` where its checks fail, and where its Steps run. -/
theorem tensorLegComplete : Obligations.TensorLegComplete := by
  unfold Obligations.TensorLegComplete
  rintro s _ l g rfl hg kind runs
  refine ⟨fun p y v own sub hp ok hy good hv => ?steps,
    fun r away => congrArg (fun w => Host.Outcome.next (snapsOut s l w)) (tensorLeg_denied hg kind runs r away),
    fun r own bad => congrArg (fun w => Host.Outcome.next (snapsOut s l w)) (tensorLeg_refused hg kind runs own r bad)⟩
  case steps =>
    have ran := tensorLeg_runs hg kind runs own sub hp ok hy good hv
    exact ⟨fun ends => congrArg (fun w => Host.Outcome.next (snapsOut s l w)) (ran.trans (if_neg (by simp [ends]))),
      fun waits => congrArg (fun w => Host.Outcome.next (snapsOut s l w)) (ran.trans (if_pos waits))⟩

end Sys2Proof.Machine
end

section
/-! The Legs of the Track Unit and of the Adjustment Engine (R219 to R246, R249 to R275). -/
namespace Sys2Proof.Machine
open Sys2Proof Sys2Proof.Laws

/-! ### EGO_STEP (R219 to R221, R227) -/

theorem ctxOf_setEgo {s : State} {c : Nat} {x : Ctx} (hx : ctxOf s c = some x) (e : Ego) : ctxOf (setEgo s c e) c = some { x with ego := e } := by
  rw [setEgo, ctxOf_modCtx_same, hx]
  rfl

/-- The entries of an EGO_STEP's take operand: nothing where it has none, and no value where their read fails. -/
def egoTakes (s : State) (w : Who) (g : Leg) : Option (Option (List (Int × List Int))) :=
  (opAt g 1).elim (some none) fun t => (takeEntries s w t).map some

section
variable {v u : State} {l : LegRef} {g : Leg} {o : OpEnt} {x : Ctx} (hg : legOf v l = some g) (kind : g.kind = 3)
  (sub : g.subop = 0) (runs : legRuns v l = true) (ho : opAt g 0 = some o) (hx : ctxOf v l.ctx = some x)
include hg kind sub runs ho hx

theorem egoLeg_denied {i : Nat} (r : EngineRun) (bound : x.ego.obj = some i) (other : i ≠ o.obj) :
    egoLeg v l r = finishLeg v l { status := ACCESS_DENIED, ran := false } := by
  simp only [egoLeg, hg]
  refine (if_pos ⟨kind, by omega, runs⟩).trans ((if_neg (not_not_intro sub)).trans ?_)
  simp only [ho, hx]
  exact if_pos (.inr (by simp [bound, other]))

theorem egoLeg_works {d b : Bytes} {sel : Nat} {tk : Option (List (Int × List Int))} {b2 b3 : List EgoObs × Nat}
    (near : trackNear v l.ctx g = true) (own : ∀ i, x.ego.obj = some i → i = o.obj) (hu : u = setEgo v l.ctx { x.ego with obj := some o.obj })
    (hd : rdName u (whoOf v l) g.desc 0 1536 = some d) (checks : fdCheck u d = 0)
    (hsel : sel = ((rdOp u (whoOf v l) o 0 4).map leNat).getD 0 % 2) (hb : rdOp u (whoOf v l) o (egoHalf sel) egoBytes = some b)
    (ht : egoTakes u (whoOf v l) g = some tk)
    (h2 : batchOf u (whoOf v l) g 2 = some b2) (h3 : batchOf u (whoOf v l) g 3 = some b3) (room : 323584 ≤ opRoom u l.ctx o)
    (desc : 1536 ≤ nameLength u l.ctx g.desc) :
    egoLeg v l ⟨false⟩ = egoWork u l o d b sel (opsTier u l.ctx g) tk (b2.1 ++ b3.1) [32, b2.2, b3.2] := by
  have mine : (x.ego.obj.any fun i => i != o.obj) = false := by
    rcases hobj : x.ego.obj with - | i
    · rfl
    · simp [own i hobj]
  subst hsel
  simp only [egoLeg, hg]
  refine (if_pos ⟨kind, by omega, runs⟩).trans ((if_neg (not_not_intro sub)).trans ?_)
  simp only [ho, hx]
  refine (if_neg (by simp [near, mine])).trans ?_
  simp only [← hu, hd, checks, hb, h2, h3]
  have fits := not_or.2 ⟨Bool.false_ne_true, not_or.2 ⟨room.not_gt, desc.not_gt⟩⟩
  cases h1 : opAt g 1 with
  | none =>
    obtain rfl : none = tk := by simpa [egoTakes, h1] using ht
    exact if_neg fits
  | some t =>
    have read : (takeEntries u (whoOf v l) t).map some = some tk := by rw [egoTakes, h1] at ht; exact ht
    simp only [read]
    exact if_neg fits

end

section
variable {u : State} {l : LegRef} {o : OpEnt} {y : Ctx} {d b : Bytes} {sel tier : Nat} {tk : Option (List (Int × List Int))}
  {obs : List EgoObs} {caps : List Nat} {r : EgoRun} (hr : r = egoStart u l.ctx d b obs)
include hr

theorem egoWork_failed (hy : ctxOf u l.ctx = some y) (state : r.f.state ≠ 1) : egoWork u l o d b sel tier tk obs caps =
    finishLeg (filterFailed u l.ctx o.obj (if r.f.state = 2 then y.ego.reason else 0) (tovInt r.f.tf)) l
      { status := INTEGRITY, tier := tier } := by
  subst hr
  refine (if_pos state).trans ?_
  rw [hy]
  rfl

theorem egoWork_commits {a : EgoRun} (state : r.f.state = 1) (advance : egoAdvance d l.ctx o.obj tk obs caps r = (a, 0))
    (worked : a.moved = true ∨ 0 < a.applied) : ∃ y, y = makeFix d l.ctx o.obj a ∧ egoWork u l o d b sel tier tk obs caps =
      finishLeg (setEgo y.1.s l.ctx y.1.aux) l
        { status := y.2.1, warn := y.2.2, tier := tier, writes := commitWrites o sel (filtWrites y.1.f) } := by
  subst hr
  refine ⟨_, rfl, (if_neg (not_not_intro state)).trans ?_⟩
  simp only [advance]
  exact (if_neg (not_not_intro rfl)).trans (if_pos (by simpa using worked))

end

/-! ### TRACK_STEP (R243, R244) -/

section
variable {u : State} {l : LegRef} {g : Leg} {o dl fs out : OpEnt} {k sel n : Nat} {d gen h fb ents : Bytes} {ob : Obj}

section
variable (hg : legOf u l = some g) (kind : g.kind = 3) (sub : g.subop = 1) (runs : legRuns u l = true) (near : trackNear u l.ctx g = true)
  (ho : opAt g 0 = some o) (hdl : opAt g 1 = some dl) (hfs : opAt g 2 = some fs) (hout : opAt g 3 = some out)
  (hd : rdName u (whoOf u l) g.desc 0 64 = some d) (hsel : sel = ((rdOp u (whoOf u l) o 0 4).map leNat).getD 0 % 2)
  (hgen : rdOp u (whoOf u l) o (trackHalf sel) 8 = some gen) (hh : rdOp u (whoOf u l) dl 0 64 = some h)
  (hfb : rdOp u (whoOf u l) fs (egoHalf (((rdOp u (whoOf u l) fs 0 4).map leNat).getD 0 % 2)) egoBytes = some fb)
  (hob : objNamed u l.ctx o.obj = some (k, ob)) (hn : n = fld h 0x10 4) (hents : rdOp u (whoOf u l) dl 64 (48 * n) = some ents)
  (desc : trackDescOk d = true) (some_ : 1 ≤ fld h 0xC 4) (capacity : fld h 0xC 4 ≤ 256) (count : n ≤ fld h 0xC 4)
  (room : 36864 ≤ opRoom u l.ctx o) (room' : 323584 ≤ opRoom u l.ctx fs) (room'' : 8256 ≤ opRoom u l.ctx out) (isOut_ : isOut out = true)
include hg kind sub runs near ho hdl hfs hout hd hsel hgen hh hfb hob hn hents desc some_ capacity count room room' room'' isOut_

theorem trackLeg_works : trackLeg u l ⟨false⟩ = trackWork u l o out k d h ents (parseFilt fb) sel (leNat gen) (opsTier u l.ctx g) := by
  subst hsel hn
  simp only [trackLeg, hg]
  refine (if_pos ⟨kind, sub, runs⟩).trans ((if_neg (by simp [near])).trans ?_)
  simp only [ho, hdl, hfs, hout, hd, hgen, hh, hfb, hob, hents]
  exact if_neg (by simp [desc, Nat.ne_of_gt some_, capacity.not_gt, count.not_gt, room.not_gt, room'.not_gt, room''.not_gt, isOut_])

end

section
variable {f : Filt} {g_ tier : Nat} (state : f.state ≠ 0)
include state

theorem trackWork_commits {pose : EgoHist} (hp : poseAt f.hist (tovAt h 0) = some pose) (order : (liveTable u k g_).tov ≤ tovAt h 0) :
    ∃ a v, a = trackStep d (liveTable u k g_) (tovAt h 0) (detections ents (fld h 0x10 4) pose) ∧
      v = { u with tracks := tput u.tracks k { a.1 with gen := wrap32 (liveTable u k g_).gen + 1 } } ∧
      trackWork u l o out k d h ents f sel g_ tier = finishLeg
        (if 0 < a.2.1 then event v l.ctx 0x0138 0 [(0x10, 4, o.obj), (0x14, 4, a.2.1), (0x18, 8, tovInt (tovAt h 0))] else v) l
        { cond := decide (0 < a.2.1), tier := tier,
          writes := [(out, 0, trackList a.1 a.2.1 a.2.2 0 f.resets),
                     (o, trackHalf (1 - sel), le 8 (wrap32 (liveTable u k g_).gen + 1)), (o, 0, le 4 (1 - sel))] } := by
  refine ⟨_, _, rfl, rfl, ?_⟩
  simp only [trackWork, if_neg state, hp]
  exact if_neg order.not_gt

theorem trackWork_late (late : poseAt f.hist (tovAt h 0) = none ∨ tovAt h 0 < (liveTable u k g_).tov) :
    trackWork u l o out k d h ents f sel g_ tier =
      finishLeg u l { tier := tier, writes := [(out, 0, trackList (noDets (liveTable u k g_)) 0 0 1 f.resets)] } := by
  simp only [trackWork, if_neg state]
  rcases hp : poseAt f.hist (tovAt h 0) with - | pose
  · rfl
  · exact if_pos (late.resolve_left (by simp [hp]))

end
end

/-- Settles O16: what an EGO_STEP and a TRACK_STEP come to once their start checks pass, and what their work then does. -/
theorem estimationLegsComplete : Obligations.EstimationLegsComplete := by
  unfold Obligations.EstimationLegsComplete
  refine ⟨⟨?ego, ?denied⟩, ?track⟩
  case ego =>
    rintro s _ u l g o x d b sel tk b2 b3 rfl hg kind sub runs ho hx near own hu hd checks hsel hb ht h2 h3 room desc
    have takes_ : egoTakes u (whoOf (snapsIn s l) l) g = some tk := by
      rw [← ht, egoTakes]
      cases opAt g 1 <;> rfl
    have works := egoLeg_works hg kind sub runs ho hx near own hu hd checks hsel hb takes_ h2 h3 room desc
    have hy : ctxOf u l.ctx = some { x with ego := { x.ego with obj := some o.obj } } := by rw [hu]; exact ctxOf_setEgo hx _
    refine ⟨_, rfl, fun state => congrArg (fun w => Host.Outcome.next (snapsOut s l w))
        (works.trans (egoWork_failed (y := { x with ego := { x.ego with obj := some o.obj } }) rfl hy state)),
      fun state a advance worked => ?_⟩
    obtain ⟨y, hy, commits⟩ := egoWork_commits (sel := sel) (tier := opsTier u l.ctx g) rfl state advance worked
    exact ⟨y, hy, congrArg (fun w => Host.Outcome.next (snapsOut s l w)) (works.trans commits)⟩
  case denied =>
    rintro s _ l g o x i r rfl hg kind sub runs ho hx bound other
    exact congrArg (fun w => Host.Outcome.next (snapsOut s l w)) (egoLeg_denied hg kind sub runs ho hx r bound other)
  case track =>
    rintro s _ l g o dl fs out k sel n d gen h fb ents ob rfl hg kind sub runs near ho hdl hfs hout hd hsel hgen hh hfb hob hn hents desc some_
      capacity count room room' room'' isOut_ state
    have works := trackLeg_works hg kind sub runs near ho hdl hfs hout hd hsel hgen hh hfb hob hn hents desc some_ capacity count room room'
      room'' isOut_
    subst hn
    refine ⟨fun pose hp order => ?_,
      fun late => congrArg (fun w => Host.Outcome.next (snapsOut s l w)) (works.trans (trackWork_late state late))⟩
    obtain ⟨a, v, ha, hv, commits⟩ := trackWork_commits (u := snapsIn s l) (l := l) (o := o) (out := out) (sel := sel) (d := d) (ents := ents)
      (tier := opsTier (snapsIn s l) l.ctx g) state hp order
    exact ⟨a, v, ha, hv, congrArg (fun w => Host.Outcome.next (snapsOut s l w)) (works.trans commits)⟩

/-! ### The Adjustment Engine (R249, R262 to R271) -/

section
variable {v : State} {l : LegRef} {g : Leg} {x : LegRun} {t : Trav} {i : AdjIn} {e : Option Nat} (hg : legOf v l = some g)
  (kind : g.kind = 4) (runs : legRuns v l = true) (hx : runOf v l = some x) (ht : travOf v l.ctx l.handle = some t)
  (start : adjStart v (whoOf v l) l g = .go i) (he : e = t.run.bind fun r => runEnd t r)
include hg kind runs hx ht start he

theorem adjLeg_goes {mode : Nat → Bool} (hm : mode (g.subop % 16) = true) : adjLeg mode v l ⟨false⟩ =
    if takesSolve x g e then adjSolveLeg v l g (whoOf v l) i else adjShiftLeg v l g x e i := by
  subst he
  simp only [adjLeg, hg, hx, ht]
  refine (if_pos ⟨kind, hm, runs⟩).trans ?_
  simp only [start]
  exact if_neg Bool.false_ne_true

end

section
variable {s : State} {l : LegRef} {g : Leg} {x : LegRun} {t : Trav} {i : AdjIn} {e : Option Nat} (hg : legOf (snapsIn s l) l = some g)
  (kind : g.kind = 4) (runs : legRuns (snapsIn s l) l = true) (hx : runOf (snapsIn s l) l = some x)
  (ht : travOf (snapsIn s l) l.ctx l.handle = some t) (start : adjStart (snapsIn s l) (whoOf (snapsIn s l) l) l g = .go i)
  (he : e = t.run.bind fun r => runEnd t r)
include hg kind runs hx ht start he

theorem exec_solves {c : Instr} (hc : c = .solve l ⟨false⟩ ∧ g.subop % 16 = 1 ∨
    c = .solveOrShift l ⟨false⟩ ∧ g.subop % 16 = 0 ∧ solveFits x g e = true) :
    exec c s = .next (snapsOut s l (adjSolveLeg (snapsIn s l) l g (whoOf (snapsIn s l) l) i)) := by
  rcases hc with ⟨rfl, mode⟩ | ⟨rfl, mode, fits⟩
  · exact congrArg (fun w => Host.Outcome.next (snapsOut s l w))
      ((adjLeg_goes hg kind runs hx ht start he (by simp [mode])).trans (if_pos (by simp [takesSolve, mode])))
  · exact congrArg (fun w => Host.Outcome.next (snapsOut s l w))
      ((adjLeg_goes hg kind runs hx ht start he (by simp [mode])).trans (if_pos (by simp [takesSolve, mode, fits])))

theorem exec_shifts {c : Instr} (hc : c = .shift l ⟨false⟩ ∧ g.subop % 16 = 2 ∨
    c = .solveOrShift l ⟨false⟩ ∧ g.subop % 16 = 0 ∧ solveFits x g e = false) :
    exec c s = .next (snapsOut s l (adjShiftLeg (snapsIn s l) l g x e i)) := by
  rcases hc with ⟨rfl, mode⟩ | ⟨rfl, mode, fits⟩
  · exact congrArg (fun w => Host.Outcome.next (snapsOut s l w))
      ((adjLeg_goes hg kind runs hx ht start he (by simp [mode])).trans (if_neg (by simp [takesSolve, mode])))
  · exact congrArg (fun w => Host.Outcome.next (snapsOut s l w))
      ((adjLeg_goes hg kind runs hx ht start he (by simp [mode])).trans (if_neg (by simp [takesSolve, mode, fits])))

end

section
variable {v u : State} {l : LegRef} {g : Leg} {w : Who} {i : AdjIn} {p : AdjProb} {r : AdjRun} {cov : Mat}
  (load : loadPass v w i = some (some p)) (solved : adjSolve p = (r, cov))
  (hu : u = if fld i.d 0x90 4 = 0 then v
    else freeRanges v l.ctx [(⟨fld i.d 0x90 4, 0, 0⟩, 0, opRoom v l.ctx ⟨fld i.d 0x90 4, 0, 0⟩)])
include load solved hu

theorem adjSolveLeg_rank {k : AdjRank} (rank : r.rank = some k) : adjSolveLeg v l g w i =
    finishLeg (adjEvent u l 0x0140 RANK_DEFICIENT (rankFields p r k)) l { status := RANK_DEFICIENT } := by
  subst hu
  simp only [adjSolveLeg, load, solved, rank]

theorem adjSolveLeg_notFinite (rank : r.rank = none) (fail : r.fail ≠ 0) : adjSolveLeg v l g w i = adjFail u l r.iter := by
  subst hu
  simp only [adjSolveLeg, load, solved, rank]
  exact if_pos fail

theorem adjSolveLeg_commits (rank : r.rank = none) (fail : r.fail = 0) : adjSolveLeg v l g w i = finishLeg u l
    { cond := !(f64At i.d 0x78).isZero && (f64At i.d 0x78).lt r.cost, tier := opsTier u l.ctx g,
      writes := solutionWrites i.so i.d i.sel (solvedHalf p r cov (fld i.live 0x14 4) i.tov) ++
        (if bit (fld i.d 0x23 1) 1 then (opAt g 2).toList.map fun o =>
          (o, 0, adjExport i.d i.tov (r.x.getD (newestPose i.d) (vec64 i.newest 0x20 12)) (upperTri cov) false) else []) } := by
  have commit : solveCommit i p r cov = solutionWrites i.so i.d i.sel (solvedHalf p r cov (fld i.live 0x14 4) i.tov) :=
    if_neg (by simp [rank, fail])
  subst hu
  simp only [adjSolveLeg, load, solved, rank]
  refine (if_neg (not_not_intro fail)).trans ?_
  rw [commit]
  rfl

end

section
variable {v : State} {l : LegRef} {g : Leg} {x : LegRun} {e : Option Nat} {i : AdjIn}

theorem adjShiftLeg_shifts (source : fld i.live 0 4 = 1 ∨ fld i.live 0 4 = 2) :
    ∃ b n u, b = shiftedHalf i.d i.live i.tov ∧ n = 0x120 + 128 * newestPose i.d ∧
      u = adjEvent { v with free := v.free + 1 } l 0x0141 1 (paceFields v x g e ++ [(0x28, 8, fld b 0x18 8)]) ∧
      adjShiftLeg v l g x e i = finishLeg u l
        { status := 1, warn := 1, tier := opsTier u l.ctx g,
          writes := solutionWrites i.so i.d i.sel b ++
            (if bit (fld i.d 0x23 1) 1 then (opAt g 2).toList.map fun o =>
              (o, 0, adjExport i.d i.tov (if n < b.length then vec64 b n 7 else vec64 i.newest 0x20 7) (vec64 b 0x50 21) true)
            else []) } :=
  ⟨_, _, _, rfl, rfl, rfl, if_pos (by simpa [shiftable] using source)⟩

theorem adjShiftLeg_drops (notSolved : fld i.live 0 4 ≠ 1) (notShifted : fld i.live 0 4 ≠ 2) : adjShiftLeg v l g x e i =
    finishLeg (adjEvent { v with free := v.free + 1 } l 0x0142 DROPPED_LATE (paceFields v x g e)) l { status := DROPPED_LATE, ran := false } :=
  if_neg (by simp [shiftable, notSolved, notShifted])

end

/-- Settles O18: the Legs that solve, those that shift, and what either comes to. -/
theorem adjustmentLegComplete : Obligations.AdjustmentLegComplete := by
  unfold Obligations.AdjustmentLegComplete
  rintro s _ l g x t i e rfl hg kind runs hx ht start he
  refine ⟨fun p u c r cov hc load solved hu => ?solve, fun c hc => ?shift⟩
  case solve =>
    have solves := exec_solves hg kind runs hx ht start he hc
    exact ⟨fun k rank => solves.trans (congrArg (fun w => Host.Outcome.next (snapsOut s l w)) (adjSolveLeg_rank load solved hu rank)),
      fun rank fail => solves.trans (congrArg (fun w => Host.Outcome.next (snapsOut s l w)) (adjSolveLeg_notFinite load solved hu rank fail)),
      fun rank fail => solves.trans (congrArg (fun w => Host.Outcome.next (snapsOut s l w)) (adjSolveLeg_commits load solved hu rank fail))⟩
  case shift =>
    have shifts := exec_shifts hg kind runs hx ht start he hc
    refine ⟨fun source => ?_, fun notSolved notShifted =>
      shifts.trans (congrArg (fun w => Host.Outcome.next (snapsOut s l w)) (adjShiftLeg_drops notSolved notShifted))⟩
    obtain ⟨b, n, u, hb, hn, hu, shifted⟩ := adjShiftLeg_shifts (v := snapsIn s l) (l := l) (g := g) (x := x) (e := e) source
    exact ⟨b, n, u, hb, hn, hu, shifts.trans (congrArg (fun w => Host.Outcome.next (snapsOut s l w)) shifted)⟩

end Sys2Proof.Machine
end
